-- ==== Sys2Proof/Word.lean ====
section
/-! DEFINITION. The word types of the Nexel 9400 (R2, R65, R139) and the plain field helper.

Nothing here decides a behaviour of the part: the arithmetic of formats is in
`Sys2Proof/Machine/Fp.lean`, the maps that hold sparse state in `Sys2Proof/Machine/Sparse.lean`. -/

namespace Sys2Proof

/-- A scalar register, a system register, an engine register: 64 bits (R117). -/
abbrev Word := BitVec 64

/-- One byte of memory or scratchpad (R2). -/
abbrev Byte := BitVec 8

/-- A vector register: 2048 bits (R139). -/
abbrev VWord := BitVec 2048

/-- A horizontal control word: 256 bits (R34). -/
abbrev HWord := BitVec 256

/-- `bits(v, hi, lo)` of R9: bits [hi:lo] of `v` as an unsigned integer. -/
def bits (v hi lo : Nat) : Nat := v / 2 ^ lo % 2 ^ (hi + 1 - lo)

/-- Bit `n` of `v`. -/
def bit (v n : Nat) : Bool := v / 2 ^ n % 2 = 1

/-- The signed value of the `n`-bit pattern `v` (the integer behind `sext` of R9). -/
def sextInt (v n : Nat) : Int :=
  let u := v % 2 ^ n
  if 2 * u < 2 ^ n then (u : Int) else (u : Int) - (2 : Int) ^ n

/-- `trunc64(v)` of R9 on an exact integer. -/
def trunc64 (v : Int) : Word := BitVec.ofInt 64 v

end Sys2Proof
end

