-- ==== Sys2Proof/Config.lean ====
section
/-! DEFINITION. What the spec leaves open: free values and layouts that it does not give.

Each constant has no body, so nothing can be proved of its value. Free values are applied to a counter
of the state that every use advances. -/

namespace Sys2Proof.Config

/-- A free byte: the result of a transfer whose source and destination overlap (R279; assumption
log 6). -/
opaque freeByte : Nat → Byte

/-- A free 64-bit word, for a value that the spec does not state (assumption log 6). -/
opaque freeWord : Nat → Word

/-- Source kind of an event-log record (R420), by the kind of event (assumption log 7). -/
opaque evSource : Nat → BitVec 8

/-- Event code of an event-log record (R420), by the kind of event (assumption log 7). -/
opaque evCode : Nat → BitVec 16

/-- Data word `i` of an event-log record (R420), from the kind of event and what it reports (assumption
log 7). -/
opaque evData : Nat → List Nat → Nat → Word

/-- Where field `i` of an image's header stands, and the bytes of a field whose size R412 does not give, less one: 0 magic,
1 kind, 2 version, 3 body length, 4 digest, 5 signature (assumption log 8). -/
opaque imageAt : Nat → BitVec 12
opaque imageSize : Nat → BitVec 3

/-- Length of an image's header, which its body follows (R412 does not give it; assumption log 8). -/
opaque imageHeader : BitVec 16

/-- The SHAKE256 digest of some bytes, 32 bytes long (R412, which names the function; assumption log 8). -/
opaque shake256 : List Byte → BitVec 256

/-- An XMSS signature of some bytes verifies under the vendor's key (R412, which names the scheme; assumption log 8). -/
opaque xmssVerifies : List Byte → BitVec 22560 → Bool

/-- The image of a version, of a controller kind, knows a format of hand-over record (R417; assumption log 8). -/
opaque formatKnown : Nat → Nat → Nat → Bool

/-- What an incoming image of an instance does next to shared state, from a counter (R418 step 4 leaves it to the image):
nothing; `[0, pa, v]` writes a word; `1 :: dst :: words` sends a message (assumption log 8). -/
opaque handOver : Nat → Nat → List Nat

/-- Format version of the hand-over records that an image writes, by its controller and version (R416; assumption log
8). -/
opaque recordFormat : Nat → Nat → BitVec 16

/-- The spill ring that the job sequencer gives a work queue when a job binds it (R290 says that it writes the
descriptor, and not what): base, quota and lsize, by queue and job (assumption log 19). -/
opaque spillBase : Nat → Nat → BitVec 39
opaque spillQuota : Nat → Nat → BitVec 32
opaque spillLsize : Nat → Nat → BitVec 6

/-- The outcome of a self-test (R413; assumption log 8). -/
opaque selfTest : Nat → Bool

/-- The quote (R422) over a nonce and what it reports, at a leaf of the key: byte `i` (assumption log 8). -/
opaque quoteByte : List Nat → Nat → Nat → Byte

/-- Length of a quote (R422; assumption log 8). -/
opaque quoteLen : Nat

/-- Stack, bank and row of a near physical address (R398 names them and gives no map; assumption
log 9). -/
opaque hbmStack : Nat → BitVec 3
opaque hbmBank : Nat → BitVec 16
opaque hbmRow : Nat → Nat

/-- The far port that serves a 4 KiB interleave (R409: the ports in training order; assumption log 9). -/
opaque farPort : Nat → BitVec 2

/-- Cycles that a groom request takes, which its budget is charged (R354, R396; assumption log 10). -/
opaque groomCycles : Nat → Nat

/-- The flit that carries a message (R403: the payload's own form is not given; assumption log 11). -/
opaque flitPayload : List Nat → Nat → Byte

/-- The package for which a payload is (R401, R403: as above). -/
opaque flitDst : List Byte → BitVec 6

/-- Credits, less one, that each link grants its peer for a class when it has been trained (R405 gives no count; assumption
log 11). -/
opaque linkCredits : Nat → BitVec 11

/-- This package's number, which the management controller sets at bring-up (R400; assumption log 85). -/
opaque package : BitVec 6

/-- What the management controller does with the event log's records next (R405 names event forwarding and says no more),
from a counter: nothing, or `[dst, i]`: record `i` of the ring goes to a package (assumption log 82). -/
opaque evForward : Nat → List Nat

/-- The entry that an engine command has in a spill ring (R290 gives no form), from what it holds (assumption log 35). -/
opaque cmdEntry : List Nat → List Byte

/-- What the firmware that lends near blocks does next (R335 leaves it to it), from a counter: nothing; `[0, dst, pool, n]`
lends up to `n` blocks of a pool; `[1, dst, ns]` recalls what `dst` has, with a deadline (assumption log 77). -/
opaque agistChoice : Nat → List Nat

/-- How the fault record of a generator PUSH names its lowest ill-formed record (R195 does not say in which
form): the address word, from the scratchpad address of that record (assumption log 15). -/
opaque recordName : Nat → Word

end Sys2Proof.Config
end

