-- ==== Sys2Proof/Machine/Sparse.lean ====
section
/-! DEFINITION. Sparse maps: lists of (key, value) pairs in one canonical form.

Keys rise strictly and no entry equals the default, so equal maps are equal lists. Memory, the
scratchpads, register files and the tables of contexts, cores, pens and pools are all held so. -/

namespace Sys2Proof.Machine

/-- What the map `m` holds at `i`, `d` where it lists nothing. -/
def sget {α : Type} (d : α) : List (Nat × α) → Nat → α
  | [], _ => d
  | (k, a) :: r, i => if k = i then a else sget d r i

/-- `m` without the key `i`. -/
def sdel {α : Type} : List (Nat × α) → Nat → List (Nat × α)
  | [], _ => []
  | (k, a) :: r, i => if k = i then sdel r i else (k, a) :: sdel r i

/-- `a` at `i`, placed before the first larger key. -/
def sins {α : Type} : List (Nat × α) → Nat → α → List (Nat × α)
  | [], i, a => [(i, a)]
  | (k, b) :: r, i, a => if i < k then (i, a) :: (k, b) :: r else (k, b) :: sins r i a

/-- `m` with `a` at `i`; writing the default removes the entry. -/
def sput {α : Type} [DecidableEq α] (d : α) (m : List (Nat × α)) (i : Nat) (a : α) :
    List (Nat × α) := if a = d then sdel m i else sins (sdel m i) i a

/-- Every key of `m` is above `lo`, keys rise strictly, and no entry is the default. -/
def swfAbove {α : Type} [DecidableEq α] (d : α) : Option Nat → List (Nat × α) → Bool
  | _, [] => true
  | lo, (k, a) :: r =>
    (match lo with
      | none => true
      | some l => decide (l < k)) && decide (a ≠ d) && swfAbove d (some k) r

/-- The canonical form. -/
def swf {α : Type} [DecidableEq α] (d : α) (m : List (Nat × α)) : Bool := swfAbove d none m

/-- Change the entry at `k` by `f`. -/
def supd {α : Type} [DecidableEq α] (d : α) (m : List (Nat × α)) (k : Nat) (f : α → α) :
    List (Nat × α) := sput d m k (f (sget d m k))

/-- The entry of `m` at `i`, where it has one. -/
def sfind {α : Type} : List (Nat × α) → Nat → Option α
  | [], _ => none
  | (k, a) :: r, i => if k = i then some a else sfind r i

/-- `m` with `a` at `i`, in a table whose entries have no default. -/
def sset {α : Type} (m : List (Nat × α)) (i : Nat) (a : α) : List (Nat × α) := sins (sdel m i) i a

/-! ### Byte cells: memory and scratchpads -/

/-- `n` bytes from address `a`, little-endian (R2), as a number; addresses wrap modulo `2^w`. -/
def cellsRead (m : List (Nat × Byte)) (w : Nat) : Nat → Nat → Nat
  | _, 0 => 0
  | a, n + 1 => (sget (0 : Byte) m (a % 2 ^ w)).toNat + 256 * cellsRead m w (a + 1) n

/-- Writes the low `n` bytes of `v` from address `a`, little-endian (R2). -/
def cellsWrite (m : List (Nat × Byte)) (w : Nat) : Nat → Nat → Nat → List (Nat × Byte)
  | _, 0, _ => m
  | a, n + 1, v =>
    cellsWrite (sput (0 : Byte) m (a % 2 ^ w) (BitVec.ofNat 8 v)) w (a + 1) n (v / 256)

/-- The bytes of `v`, lowest first. -/
def bytesOf : Nat → Nat → List Byte
  | 0, _ => []
  | n + 1, v => BitVec.ofNat 8 v :: bytesOf n (v / 256)

/-- The number whose bytes, lowest first, are `l` (R2). -/
def ofBytes : List Byte → Nat
  | [] => 0
  | b :: r => b.toNat + 256 * ofBytes r

/-- Element `i` of width `w` of a bit string (R69). -/
def el (w v i : Nat) : Nat := v / 2 ^ (w * i) % 2 ^ w

/-- The bit string of a list of elements of width `w`, element 0 lowest. -/
def packEl (w : Nat) : List Nat → Nat
  | [] => 0
  | x :: r => x % 2 ^ w + 2 ^ w * packEl w r

/-- `a` placed before the first element that it is to precede. -/
def insSort {α : Type} (le : α → α → Bool) (a : α) : List α → List α
  | [] => [a]
  | b :: r => if le a b then a :: b :: r else b :: insSort le a r

/-- The list in the order of `le`; equal elements keep their order. -/
def isort {α : Type} (le : α → α → Bool) : List α → List α
  | [] => []
  | a :: r => insSort le a (isort le r)

/-- Replace the element at index `i`. -/
def lset {α : Type} : List α → Nat → α → List α
  | [], _, _ => []
  | _ :: r, 0, a => a :: r
  | b :: r, i + 1, a => b :: lset r i a

end Sys2Proof.Machine
end

