-- ==== Sys2Proof/Machine/Fp.lean ====
section
/-! DEFINITION. Number formats and arithmetic (chapter 03, R65 to R87).

Values are exact: a finite value is a sign, a natural magnitude and a power of two; a quotient is
rounded from its numerator and denominator. Rounding happens once, in `roundEx` (R76). -/

namespace Sys2Proof.Machine

/-- The five sticky events of one slot (R86): bit 0 invalid, 1 divide-by-zero, 2 overflow,
3 underflow, 4 inexact. -/
abbrev Flags := BitVec 5

def fNone : Flags := 0
def fInv : Flags := 1
def fDz : Flags := 2
def fOv : Flags := 4
def fUf : Flags := 8
def fNx : Flags := 16

/-- A floating layout (R65, R66): exponent and mantissa widths, bias, the code of the largest
finite magnitude, whether infinity is encoded, and the canonical NaN. -/
structure FFmt where
  eb : Nat
  mb : Nat
  bias : Nat
  maxCode : Nat
  hasInf : Bool
  nan : Option Nat
  deriving DecidableEq, Repr

/-- Width in bits, sign included. -/
def FFmt.width (f : FFmt) : Nat := f.eb + f.mb + 1

def fmtF32 : FFmt := ⟨8, 23, 127, 0x7F7FFFFF, true, some 0x7FC00000⟩
def fmtBf16 : FFmt := ⟨8, 7, 127, 0x7F7F, true, some 0x7FC0⟩
def fmtF16 : FFmt := ⟨5, 10, 15, 0x7BFF, true, some 0x7E00⟩
def fmtE4m3 : FFmt := ⟨4, 3, 7, 0x7E, false, some 0x7F⟩
def fmtE5m2 : FFmt := ⟨5, 2, 15, 0x7B, true, some 0x7E⟩
def fmtE2m1 : FFmt := ⟨2, 1, 1, 0x7, false, none⟩

/-- The floating format of a format code of R67, if it names one. -/
def ffmtOf : Nat → Option FFmt
  | 0 => some fmtF32
  | 1 => some fmtBf16
  | 2 => some fmtF16
  | 3 => some fmtE4m3
  | 4 => some fmtE5m2
  | 5 => some fmtE2m1
  | _ => none

/-- An integer format of R68: width and signedness. -/
structure IFmt where
  w : Nat
  signed : Bool
  deriving DecidableEq, Repr

def ifmtOf : Nat → Option IFmt
  | 6 => some ⟨8, true⟩
  | 7 => some ⟨4, true⟩
  | 8 => some ⟨8, false⟩
  | 9 => some ⟨16, true⟩
  | 10 => some ⟨32, true⟩
  | _ => none

/-- Element bits of a format code (R67); 0 for a code that names no element format. -/
def elemBits : Nat → Nat
  | 0 => 32 | 1 => 16 | 2 => 16 | 3 => 8 | 4 => 8 | 5 => 4 | 6 => 8 | 7 => 4 | 8 => 8
  | 9 => 16 | 10 => 32 | _ => 0

def IFmt.lo (f : IFmt) : Int := if f.signed then -((2 : Int) ^ (f.w - 1)) else 0
def IFmt.hi (f : IFmt) : Int := if f.signed then (2 : Int) ^ (f.w - 1) - 1 else (2 : Int) ^ f.w - 1

/-- `clamp(v, lo, hi)` of R9. -/
def clampInt (v lo hi : Int) : Int := if v < lo then lo else if hi < v then hi else v

/-- The value of an element pattern in an integer format. -/
def IFmt.value (f : IFmt) (v : Nat) : Int :=
  if f.signed then sextInt v f.w else ((v % 2 ^ f.w : Nat) : Int)

/-- The low `w` bits of an integer (R68). -/
def wrapInt (w : Nat) (v : Int) : Nat := (v % (2 : Int) ^ w).toNat

/-- A floating value: NaN, an infinity, or `± m * 2^e`. -/
inductive FV where
  | nan
  | inf (neg : Bool)
  | fin (neg : Bool) (m : Nat) (e : Int)
  deriving DecidableEq, Repr

/-- The value of an encoding (R65, R66). -/
def FFmt.decode (f : FFmt) (v : Nat) : FV :=
  let neg := bit v (f.width - 1)
  let ex := v / 2 ^ f.mb % 2 ^ f.eb
  let man := v % 2 ^ f.mb
  if ex = 2 ^ f.eb - 1 && f.hasInf then
    (if man = 0 then .inf neg else .nan)
  else if f.nan.isSome && !f.hasInf && ex = 2 ^ f.eb - 1 && man = 2 ^ f.mb - 1 then .nan
  else if ex = 0 then .fin neg man (1 - (f.bias : Int) - f.mb)
  else .fin neg (2 ^ f.mb + man) ((ex : Int) - f.bias - f.mb)

/-- The canonical NaN of R66; formats without a NaN give +0 (R80). -/
def FFmt.nanBits (f : FFmt) : Nat := f.nan.getD 0

def FFmt.signBit (f : FFmt) (neg : Bool) : Nat := if neg then 2 ^ (f.width - 1) else 0

/-- Largest finite magnitude with a sign. -/
def FFmt.big (f : FFmt) (neg : Bool) : Nat := f.signBit neg + f.maxCode

/-- An infinity delivered in `f` (R77, Table 8 of R80). -/
def deliverInf (f : FFmt) (sat neg : Bool) : Nat × Flags :=
  if f.hasInf then
    (if sat then (f.big neg, fOv ||| fNx) else (f.signBit neg + f.maxCode + 1, fNone))
  else if f.nan.isSome then
    (if sat then (f.big neg, fInv) else (f.signBit neg + f.nanBits, fInv))
  else (f.big neg, fInv)

/-- An infinite result of an arithmetic step that rounds to `f`: a correct infinity, or the largest
finite magnitude when saturation is selected (R77). -/
def FFmt.infBits (f : FFmt) (neg : Bool) : Nat := f.signBit neg + f.maxCode + 1

/-- `x * 2^k` split over a fraction `n / d`, all natural. -/
def scaleFrac (n d : Nat) (k : Int) : Nat × Nat :=
  match k with
  | .ofNat j => (n * 2 ^ j, d)
  | .negSucc j => (n, d * 2 ^ (j + 1))

/-- floor(log2 (n / d)) for positive `n`, `d`. -/
def floorLog2 (n d : Nat) : Int :=
  let l : Int := (Nat.log2 n : Int) - (Nat.log2 d : Int)
  let (a, b) := scaleFrac n d (-l)
  if a < b then l - 1 else l

/-- floor and rounded value of n / d: ties to even, or toward zero. The Bool says inexact. -/
def roundNat (rtz : Bool) (n d : Nat) : Nat × Bool :=
  let q := n / d
  let r := n % d
  if r = 0 then (q, false)
  else if rtz then (q, true)
  else if d < 2 * r then (q + 1, true)
  else if 2 * r = d && q % 2 = 1 then (q + 1, true)
  else (q, true)

/-- Rounds the exact value `± num/den * 2^e` to `f` (R76 to R78): the pattern and the events. -/
def roundEx (f : FFmt) (rtz sat neg : Bool) (num den : Nat) (e : Int) : Nat × Flags :=
  if num = 0 then (f.signBit neg, fNone)
  else
    let E := floorLog2 num den + e
    let qmin : Int := 1 - (f.bias : Int) - f.mb
    let qu : Int := E - f.mb
    let (nu, du) := scaleFrac num den (e - qu)
    let (ru, _) := roundNat rtz nu du
    let tiny : Bool := decide (E < 1 - (f.bias : Int)) &&
      !(decide (ru = 2 ^ (f.mb + 1)) && decide (E + 1 = 1 - (f.bias : Int)))
    let q := if qu < qmin then qmin else qu
    let (nd, dd) := scaleFrac num den (e - q)
    let (rd, nx) := roundNat rtz nd dd
    let code := (q - qmin).toNat * 2 ^ f.mb + rd
    if f.maxCode < code then
      (if sat || rtz || f.nan.isNone then (f.big neg, fOv ||| fNx)
       else if f.hasInf then (f.infBits neg, fOv ||| fNx)
       else (f.signBit neg + f.nanBits, fOv ||| fNx))
    else
      (f.signBit neg + code,
        (if nx then fNx else fNone) ||| (if tiny && nx then fUf else fNone))

/-- Rounds a value to `f`, as a conversion does (R80): `rne` / `cvt` of R9 and their flags. -/
def roundFV (f : FFmt) (rtz sat : Bool) : FV → Nat × Flags
  | .nan => (f.nanBits, if f.nan.isSome then fNone else fInv)
  | .inf neg => deliverInf f sat neg
  | .fin neg m e => roundEx f rtz sat neg m 1 e

/-- Negation of the sign (R79). -/
def FV.neg : FV → FV
  | .nan => .nan
  | .inf s => .inf (!s)
  | .fin s m e => .fin (!s) m e

def FV.isNan : FV → Bool
  | .nan => true
  | _ => false

def FV.isInf : FV → Bool
  | .inf _ => true
  | _ => false

/-- The signed integer mantissa at exponent `e0 ≤ e`. -/
def FV.mant (s : Bool) (m : Nat) (e e0 : Int) : Int :=
  let v : Int := ((m * 2 ^ (e - e0).toNat : Nat) : Int)
  if s then -v else v

/-- Exact sum of two finite values; an exact zero sum of opposite signs is +0 (R79). -/
def addFin (s1 : Bool) (m1 : Nat) (e1 : Int) (s2 : Bool) (m2 : Nat) (e2 : Int) : FV :=
  let e0 := if e1 < e2 then e1 else e2
  let t := FV.mant s1 m1 e1 e0 + FV.mant s2 m2 e2 e0
  if t = 0 then .fin (s1 && s2 && decide (m1 = 0)) 0 0
  else .fin (decide (t < 0)) t.natAbs e0

/-- Exact sum with the NaN rules of R79. -/
def addFV : FV → FV → FV × Flags
  | .nan, _ => (.nan, fNone)
  | _, .nan => (.nan, fNone)
  | .inf a, .inf b => if a = b then (.inf a, fNone) else (.nan, fInv)
  | .inf a, .fin _ _ _ => (.inf a, fNone)
  | .fin _ _ _, .inf b => (.inf b, fNone)
  | .fin s1 m1 e1, .fin s2 m2 e2 => (addFin s1 m1 e1 s2 m2 e2, fNone)

/-- Exact product with the NaN rules of R79. -/
def mulFV : FV → FV → FV × Flags
  | .nan, _ => (.nan, fNone)
  | _, .nan => (.nan, fNone)
  | .inf a, .inf b => (.inf (a != b), fNone)
  | .inf a, .fin s m _ => if m = 0 then (.nan, fInv) else (.inf (a != s), fNone)
  | .fin s m _, .inf b => if m = 0 then (.nan, fInv) else (.inf (s != b), fNone)
  | .fin s1 m1 e1, .fin s2 m2 e2 => (.fin (s1 != s2) (m1 * m2) (e1 + e2), fNone)

/-- Exact a × b + c (R76); a NaN operand gives NaN with no event, also beside 0 × ∞ (R79). -/
def fmaFV (a b c : FV) : FV × Flags :=
  if a.isNan || b.isNan || c.isNan then (.nan, fNone)
  else
    let (p, f1) := mulFV a b
    let (s, f2) := addFV p c
    (s, f1 ||| f2)

/-- A value rounded as the result of an arithmetic operation in `f`: an exact infinite result stays
infinite unless saturation is selected (R77). -/
def arith (f : FFmt) (rtz sat : Bool) (r : FV × Flags) : Nat × Flags :=
  let (v, fl) := roundFV f rtz sat r.1
  (v, fl ||| r.2)

/-- One FP32 addition under R76. -/
def f32Add (a b : Nat) : Nat × Flags :=
  arith fmtF32 false false (addFV (fmtF32.decode a) (fmtF32.decode b))

def f32Sub (a b : Nat) : Nat × Flags :=
  arith fmtF32 false false (addFV (fmtF32.decode a) (fmtF32.decode b).neg)

def f32Mul (a b : Nat) : Nat × Flags :=
  arith fmtF32 false false (mulFV (fmtF32.decode a) (fmtF32.decode b))

def f32Fma (a b c : Nat) : Nat × Flags :=
  arith fmtF32 false false (fmaFV (fmtF32.decode a) (fmtF32.decode b) (fmtF32.decode c))

/-- The exact quotient of two values rounded to `f` (R350): ∞/∞ and 0/0 are invalid, a finite
nonzero value over zero is an infinity with divide-by-zero. -/
def divFV (f : FFmt) (rtz sat : Bool) : FV → FV → Nat × Flags
  | .nan, _ => (f.nanBits, fNone)
  | _, .nan => (f.nanBits, fNone)
  | .inf _, .inf _ => (f.nanBits, fInv)
  | .inf a, .fin s _ _ => deliverInf f sat (a != s)
  | .fin s _ _, .inf b => (f.signBit (s != b), fNone)
  | .fin s1 m1 e1, .fin s2 m2 e2 =>
    if m2 = 0 then
      (if m1 = 0 then (f.nanBits, fInv)
       else
        let (v, fl) := deliverInf f sat (s1 != s2)
        (v, fl ||| fDz))
    else roundEx f rtz sat (s1 != s2) m1 m2 (e1 - e2)

/-- Comparison of two values that are not NaN: the sign of a − b, −0 equal to +0 (R129). -/
def cmpFV : FV → FV → Ordering
  | .inf a, .inf b => if a = b then .eq else if a then .lt else .gt
  | .inf a, _ => if a then .lt else .gt
  | _, .inf b => if b then .gt else .lt
  | .fin s1 m1 e1, .fin s2 m2 e2 =>
    let e0 := if e1 < e2 then e1 else e2
    compare (FV.mant s1 m1 e1 e0) (FV.mant s2 m2 e2 e0)
  | _, _ => .eq

/-- A floating condition code of Table 18a (R45, R129) and its invalid event. -/
def fcmpCond (cc : Nat) (a b : FV) : Bool × Flags :=
  if a.isNan || b.isNan then
    match cc with
    | 0 => (false, fNone)
    | 1 => (true, fNone)
    | 6 => (true, fNone)
    | 7 => (false, fNone)
    | _ => (false, fInv)
  else
    let o := cmpFV a b
    match cc with
    | 0 => (o == .eq, fNone)
    | 1 => (o != .eq, fNone)
    | 2 => (o == .lt, fNone)
    | 3 => (o != .gt, fNone)
    | 4 => (o == .gt, fNone)
    | 5 => (o != .lt, fNone)
    | 6 => (false, fNone)
    | _ => (true, fNone)

/-- Rounds a finite value to an integer: ties to even or toward zero; the Bool says inexact. -/
def toInt (rtz neg : Bool) (m : Nat) (e : Int) : Int × Bool :=
  let (n, d) := scaleFrac m 1 e
  let (q, nx) := roundNat rtz n d
  (if neg then -(q : Int) else (q : Int), nx)

/-- Float to integer (R80): clamps, 0 for NaN. -/
def floatToInt (g : IFmt) (rtz : Bool) : FV → Int × Flags
  | .nan => (0, fInv)
  | .inf neg => (if neg then g.lo else g.hi, fInv)
  | .fin neg m e =>
    let (v, nx) := toInt rtz neg m e
    let c := clampInt v g.lo g.hi
    (c, (if c = v then fNone else fInv) ||| (if nx then fNx else fNone))

/-- An exact integer as a value. -/
def intFV (v : Int) : FV := .fin (decide (v < 0)) v.natAbs 0

/-- Conversion between two of the formats 0 to 10 (R80): the pattern of the destination and the
events. `sat` and `rtz` are the modifiers; codes that name no format give 0. Between integers a saturating conversion clamps
to the destination's range also where it widens into an unsigned format or keeps the width, cases that Table 8 does not
name (assumption log 88). -/
def convert (src dst : Nat) (rtz sat : Bool) (v : Nat) : Nat × Flags :=
  match ffmtOf src, ffmtOf dst, ifmtOf src, ifmtOf dst with
  | some fs, some fd, _, _ => roundFV fd rtz sat (fs.decode v)
  | some fs, none, _, some gd =>
    let (r, fl) := floatToInt gd rtz (fs.decode v)
    (wrapInt gd.w r, fl)
  | none, some fd, some gs, _ => roundFV fd rtz sat (intFV (gs.value v))
  | none, none, some gs, some gd =>
    let x := gs.value v
    (wrapInt gd.w (if sat then clampInt x gd.lo gd.hi else x), fNone)
  | _, _, _, _ => (0, fNone)

/-- A value times 2^s, rounded to `f`; the exact scaling of `vscale` and of E8M0 (R70, R154). -/
def scaleFV (s : Int) : FV → FV
  | .fin n m e => .fin n m (e + s)
  | v => v

/-- The smaller (`wantMin`) or larger of two floating patterns in `f` (R150): −0 below +0, a NaN
gives the canonical NaN. The Bool says that a NaN stood in the comparison. -/
def fminmax (f : FFmt) (wantMin : Bool) (a b : Nat) : Nat × Bool :=
  let x := f.decode a
  let y := f.decode b
  if x.isNan || y.isNan then (f.nanBits, true)
  else
    let aSmaller : Bool := match cmpFV x y with
      | .lt => true
      | .gt => false
      | .eq => bit a (f.width - 1)
    (if aSmaller = wantMin then a else b, false)

/-! ### Blocks of MXFP4 and FP8 (R71, R327) -/

/-- The largest magnitude of a list of finite values, as a value ≥ 0. -/
def maxMag : List FV → FV
  | [] => .fin false 0 0
  | x :: r =>
    let y := maxMag r
    match x with
    | .fin _ m e => if cmpFV (.fin false m e) y = .gt then .fin false m e else y
    | _ => y

/-- E8M0 scale code of an MXFP4 block (R71). -/
def mx4Scale (l : List FV) : Nat :=
  if l.any FV.isNan then 0xFF
  else if l.any FV.isInf then 0xFE
  else match maxMag l with
    | .fin _ m e =>
      if m = 0 then 0x00
      else (clampInt (floorLog2 m 1 + e - 2) (-127) 127 + 127).toNat
    | _ => 0x00

/-- One element of an MXFP4 block under its scale code (R71). -/
def mx4Elem (scale : Nat) (x : FV) : Nat × Flags :=
  if scale = 0xFF then (0, fNone)
  else roundFV fmtE2m1 false true (scaleFV (127 - (scale : Int)) x)

/-- ceil(log2 (m * 2^e / 448)) for positive m. -/
def ceilLog2Over448 (m : Nat) (e : Int) : Int :=
  let l := floorLog2 m 448
  let (a, b) := scaleFrac m 448 (-l)
  (if a = b then l else l + 1) + e

/-- FP8 scale code of a block (R287 QFP8, R327). -/
def fp8Scale (l : List FV) : Nat :=
  if l.any FV.isNan then 0xFF
  else if l.any FV.isInf then 0xFE
  else match maxMag l with
    | .fin _ m e =>
      if m = 0 then 0x00
      else (clampInt (ceilLog2Over448 m e) (-127) 127 + 127).toNat
    | _ => 0x00

/-- One element of an FP8 block under its scale code, sat(rne(x / 2^s, e4m3)). -/
def fp8Elem (scale : Nat) (x : FV) : Nat × Flags :=
  roundFV fmtE4m3 false true (scaleFV (127 - (scale : Int)) x)

/-- The value of an E8M0-scaled element: NaN under the scale 0xFF (R70). -/
def scaledFV (scale : Nat) (x : FV) : FV :=
  if scale = 0xFF then .nan else scaleFV ((scale : Int) - 127) x

/-! ### Generator records (R73, R74) -/

/-- One step of the shift register: the output bit and the next state. -/
def genStep (st : Nat) : Nat × Nat :=
  if st % 2 = 1 then (1, (st / 2) ^^^ 0x80200003) else (0, st / 2)

/-- `k` steps, outputs discarded. -/
def genSkip : Nat → Nat → Nat
  | 0, st => st
  | k + 1, st => genSkip k (genStep st).2

/-- Four steps joined to a 4-bit signed draw. -/
def genDraw (st : Nat) : Int × Nat :=
  let (b0, s0) := genStep st
  let (b1, s1) := genStep s0
  let (b2, s2) := genStep s1
  let (b3, s3) := genStep s2
  (sextInt (b0 + 2 * b1 + 4 * b2 + 8 * b3) 4, s3)

/-- The next `k` draws. -/
def genDraws : Nat → Nat → List Int × Nat
  | 0, st => ([], st)
  | k + 1, st =>
    let (u, st1) := genDraw st
    let (r, st2) := genDraws k st1
    (u :: r, st2)

/-- The state after the warm-up of R74. -/
def genInit (seed : Nat) : Nat := genSkip 32 (seed * 2 ^ 16 + (seed ^^^ 0x5A5A))

/-- A record is well formed (R74). -/
def recOk (r : Nat) : Bool :=
  decide (bits r 15 0 ≠ 0) && decide (bits r 63 56 = 0) &&
    (List.range 8).all (fun p => decide (p ≤ bits r 18 16) || decide (bits r (27 + 4 * p) (24 + 4 * p) = 0))

/-- The 64 exact sums of a record's expansion. -/
def genAcc (r : Nat) : Nat → Nat → Nat → List Int
  | 0, _, _ => List.replicate 64 0
  | left + 1, p, st =>
    let (us, st') := genDraws 64 st
    let q := sextInt (bits r (27 + 4 * p) (24 + 4 * p)) 4
    List.zipWith (fun u a => q * u + a) us (genAcc r left (p + 1) st')

/-- `expand(rec, f)` of R74: 64 patterns of format code `f`. -/
def genExpand (r f : Nat) : List Nat :=
  let e := sextInt (bits r 23 19) 5
  (genAcc r (bits r 18 16 + 1) 0 (genInit (bits r 15 0))).map (fun a =>
    let v := scaleFV e (intFV a)
    match ffmtOf f, ifmtOf f with
    | some g, _ => (roundFV g false true v).1
    | none, some g => wrapInt g.w (floatToInt g false v).1
    | none, none => 0)

end Sys2Proof.Machine
end

