-- ==== Sys2Proof/Syntax.lean ====
section
/-! DEFINITION. The syntax of the Nexel 9400: one constructor of `Instr` for each row of the opcode table.

The rows are of three kinds: slot operations of a bundle (syllables, matrix beats, the SC, SFU and
vector slots of a horizontal control word), logit words that a groom runs, and the steps that the
part's engines, controllers and links take on their own (R12, R16). The first two kinds carry the
fields of their encodings; the last carry what names the step: a context, a command, a pen, or the
data that arrives from outside the package. -/

namespace Sys2Proof

/-- Operands: only the guard (R24). -/
structure GOp where
  g : BitVec 4
  deriving DecidableEq, Repr

/-- Guard and the one source register rs1. -/
structure JrOp where
  g : BitVec 4
  rs1 : BitVec 6
  deriving DecidableEq, Repr

/-- Guard and two source registers. -/
structure Rs2Op where
  g : BitVec 4
  rs1 : BitVec 6
  rs2 : BitVec 6
  deriving DecidableEq, Repr

/-- BR format: signed bundle offset (R24, R25). -/
structure BrOp where
  g : BitVec 4
  off : BitVec 22
  deriving DecidableEq, Repr

/-- `br.x` (R28): pop count and signed offset. -/
structure BrxOp where
  g : BitVec 4
  n : BitVec 3
  off : BitVec 19
  deriving DecidableEq, Repr

/-- `loop` (R28): count register and unsigned offset. -/
structure LoopOp where
  g : BitVec 4
  rd : BitVec 6
  off : BitVec 16
  deriving DecidableEq, Repr

/-- `loopi` (R28): immediate count and unsigned offset. -/
structure LoopiOp where
  g : BitVec 4
  count : BitVec 12
  off : BitVec 10
  deriving DecidableEq, Repr

/-- `brv`, `brv.any`, `brv.all` (R28): mask register and signed offset. -/
structure BrvOp where
  g : BitVec 4
  m : BitVec 4
  off : BitVec 16
  deriving DecidableEq, Repr

/-- `trap`, `sys`: the 16-bit code. -/
structure TrapOp where
  g : BitVec 4
  code : BitVec 16
  deriving DecidableEq, Repr

/-- RR format with all three register fields (R24). -/
structure RROp where
  g : BitVec 4
  rd : BitVec 6
  rs1 : BitVec 6
  rs2 : BitVec 6
  deriving DecidableEq, Repr

/-- RR format with rd and rs1 only. -/
structure RUnOp where
  g : BitVec 4
  rd : BitVec 6
  rs1 : BitVec 6
  deriving DecidableEq, Repr

/-- `sel` (R126): fn names the selecting predicate. -/
structure SelOp where
  g : BitVec 4
  p : BitVec 4
  rd : BitVec 6
  rs1 : BitVec 6
  rs2 : BitVec 6
  deriving DecidableEq, Repr

/-- RI format (R24). -/
structure RIOp where
  g : BitVec 4
  rd : BitVec 6
  rs1 : BitVec 6
  imm : BitVec 10
  deriving DecidableEq, Repr

/-- RU format (R24). -/
structure RUOp where
  g : BitVec 4
  rd : BitVec 6
  imm : BitVec 16
  deriving DecidableEq, Repr

/-- CMP format (R24, R45); `r` is rs2 or imm6. -/
structure CmpOp where
  g : BitVec 4
  pair : BitVec 3
  ct : BitVec 3
  cc : BitVec 3
  rs1 : BitVec 6
  r : BitVec 6
  deriving DecidableEq, Repr

/-- `tbit` (R129): `c` is cc bit 0, `i` selects the immediate bit number. -/
structure TbitOp where
  g : BitVec 4
  pair : BitVec 3
  ct : BitVec 3
  c : BitVec 1
  i : BitVec 1
  rs1 : BitVec 6
  r : BitVec 6
  deriving DecidableEq, Repr

/-- `pmov`, `pmov.n` (R133). -/
structure PmovOp where
  g : BitVec 4
  pd : BitVec 4
  ps : BitVec 4
  deriving DecidableEq, Repr

/-- `pmov.get`, `pmov.set` (R133): the x register. -/
structure PfOp where
  g : BitVec 4
  r : BitVec 6
  deriving DecidableEq, Repr

/-- `mfsr`, `mtsr`, `erd`, `ewr`: register and index (R136, R267). -/
structure SrOp where
  g : BitVec 4
  rd : BitVec 6
  idx : BitVec 12
  deriving DecidableEq, Repr

/-- `fcvt` (R135): target and source format codes. -/
structure FcvtOp where
  g : BitVec 4
  rd : BitVec 6
  rs1 : BitVec 6
  dst : BitVec 4
  src : BitVec 4
  deriving DecidableEq, Repr

/-- `ld`, `st` (R27). -/
structure RMOp where
  g : BitVec 4
  rd : BitVec 6
  rs1 : BitVec 6
  size : BitVec 3
  imm : BitVec 7
  deriving DecidableEq, Repr

/-- `ld.acq`, `st.rel` (R27). -/
structure RMSOp where
  g : BitVec 4
  rd : BitVec 6
  rs1 : BitVec 6
  size : BitVec 3
  scope : BitVec 3
  deriving DecidableEq, Repr

/-- `vmvx`, `vmxv`, `vbx` (R162); `alt` 1 is major 0x25. -/
structure VMoveOp where
  g : BitVec 4
  alt : BitVec 1
  rd : BitVec 6
  rs1 : BitVec 6
  rs2 : BitVec 6
  deriving DecidableEq, Repr

/-- `mld`, `mst` (R159): a mask register and a base. -/
structure MMemOp where
  g : BitVec 4
  m : BitVec 4
  rs1 : BitVec 6
  deriving DecidableEq, Repr

/-- Cache control (R264): level, address, length. -/
structure CacheOp where
  g : BitVec 4
  level : BitVec 2
  rs1 : BitVec 6
  rs2 : BitVec 6
  deriving DecidableEq, Repr

/-- AT format (R24, R49). -/
structure AtOp where
  g : BitVec 4
  rd : BitVec 6
  rs1 : BitVec 6
  op : BitVec 4
  size : BitVec 1
  scope : BitVec 3
  order : BitVec 2
  deriving DecidableEq, Repr

/-- `fence` (R50). -/
structure FenceOp where
  g : BitVec 4
  scope : BitVec 3
  kind : BitVec 2
  deriving DecidableEq, Repr

/-- `rdef` (R212). -/
structure RdefOp where
  g : BitVec 4
  h : BitVec 4
  rs1 : BitVec 6
  rs2 : BitVec 6
  deriving DecidableEq, Repr

/-- `radv`, `padv` (R212). -/
structure RadvOp where
  g : BitVec 4
  h : BitVec 4
  rs1 : BitVec 6
  deriving DecidableEq, Repr

/-- `rcnt` (R212). -/
structure RcntOp where
  g : BitVec 4
  rd : BitVec 6
  h : BitVec 4
  deriving DecidableEq, Repr

/-- ENG format (R24, R47). -/
structure EngOp where
  g : BitVec 4
  rs1 : BitVec 6
  rs2 : BitVec 6
  pm : BitVec 2
  ord : BitVec 2
  deriving DecidableEq, Repr

/-- `tmov` to an operand port (R288). -/
structure TmovOp where
  g : BitVec 4
  port : BitVec 3
  rs1 : BitVec 6
  ord : BitVec 2
  deriving DecidableEq, Repr

/-- `tmov` to a trigger port (R288). -/
structure TrigOp where
  g : BitVec 4
  rs1 : BitVec 6
  rs2 : BitVec 6
  ord : BitVec 2
  deriving DecidableEq, Repr

/-- `publish` (R285): scope and window register. -/
structure PublishOp where
  g : BitVec 4
  scope : BitVec 6
  rs1 : BitVec 6
  deriving DecidableEq, Repr

/-- `bar.init` with an immediate barrier number (R390). -/
structure BarInitOp where
  g : BitVec 4
  rs1 : BitVec 6
  b : BitVec 10
  deriving DecidableEq, Repr

/-- Barrier operations with an immediate number (R390). -/
structure BarOp where
  g : BitVec 4
  b : BitVec 10
  deriving DecidableEq, Repr

/-- A matrix beat's X16 (R40): bank, ring (A ring, B ring or destination), format entry, advance. -/
structure BeatOp where
  bank : BitVec 2
  ring : BitVec 4
  mft : BitVec 3
  adv : BitVec 1
  deriving DecidableEq, Repr

/-- `drain h15` (R193). -/
structure DiscardOp where
  bank : BitVec 2
  mft : BitVec 3
  deriving DecidableEq, Repr

/-- SC slot (R37): destination scale register, ring handle, offset in 64-byte units. -/
structure SclOp where
  e : BitVec 4
  h : BitVec 4
  off : BitVec 10
  deriving DecidableEq, Repr

/-- SFU slot (R36). -/
structure SfuOp where
  vd : BitVec 6
  sa : BitVec 7
  mask : BitVec 4
  fmt : BitVec 3
  deriving DecidableEq, Repr

/-- Vector slot without its op9 (R35). -/
structure VOp where
  fmt : BitVec 4
  vd : BitVec 6
  sa : BitVec 7
  sb : BitVec 7
  sc : BitVec 7
  mask : BitVec 4
  mm : BitVec 1
  mod : BitVec 3
  deriving DecidableEq, Repr

/-- Logit word without its op6 (R54). -/
structure LOp where
  wd : BitVec 4
  wa : BitVec 4
  wb : BitVec 4
  imm : BitVec 14
  deriving DecidableEq, Repr

/-- What an inbound request of another package or of the host asks for (R408). -/
inductive InKind where
  | read (n : Nat)
  | write (data : List Byte)
  | atomic (op : Nat) (size : Nat) (a : Nat) (returns : Bool)
  | cas (size : Nat) (cmp new : Nat)
  deriving DecidableEq, Repr

/-- An inbound request: its source (package number, or the host), its near physical address and
what it asks for (R406, R408, R409). -/
structure Inbound where
  host : Bool
  src : Nat
  pa : Nat
  kind : InKind
  deriving DecidableEq, Repr

/-- Where uncorrectable ECC data was met (R410): by a context's bundle, by an engine command, a cluster's groom, the drover of a
die, the job sequencer at a mapped queue, the graph walker at a resident graph, or an inbound request; or in a controller's own
memory. -/
inductive EccTarget where
  | context (ctx : Nat)
  | command (ctx cid : Nat)
  | groom (cluster : Nat)
  | drover (die : Nat)
  | sequencer (slot : Nat)
  | walker (graph : Nat)
  | inbound (rq : Inbound)
  | controller (inst : Nat)
  deriving DecidableEq, Repr

/-- The instructions and steps of the opcode table: slot operations in the table's order, then `nop`,
the logit words, and the steps without an encoding. -/
inductive Instr where
  /-- REGION, R100: Releases the open region, takes the region snapshot and records the restart point. -/
  | region (o : GOp)
  /-- COMMIT, R99: Releases the open region and leaves the context outside any region. -/
  | commit (o : GOp)
  /-- RET, R98: Branches to the 16-byte-aligned address held in a register, by default x63. -/
  | ret (o : JrOp)
  /-- LPOP, R98: Pops the top loop-stack entry, or faults LOOP_UNDERFLOW when the stack is empty. -/
  | lpop (o : GOp)
  /-- YIELD, R114: Keeps the context from being offered to the merge stage in the next cycle. -/
  | yield (o : GOp)
  /-- JR, R98: Branches to the address held in a register. -/
  | jr (o : JrOp)
  /-- TWAIT, R361: Parks the context until a token-board entry reaches the given iteration or is marked failed. -/
  | twait (o : Rs2Op)
  /-- BR, R98: Branches by a signed bundle offset. -/
  | br (o : BrOp)
  /-- CALL, R98: Writes the return address to x63 and branches by a signed bundle offset. -/
  | call (o : BrOp)
  /-- BR_X, R98: Pops n loop entries and branches. -/
  | brX (o : BrxOp)
  /-- LOOP, R97: Pushes a loop entry whose count comes from a register, or skips the body when the count is 0. -/
  | loop (o : LoopOp)
  /-- LOOPI, R97: Pushes a loop entry with an immediate count, or skips the body when the count is 0. -/
  | loopi (o : LoopiOp)
  /-- BRV, R98: Branches on a uniform mask and faults NONUNIFORM_BRANCH when the mask is mixed. -/
  | brv (o : BrvOp)
  /-- BRV_ANY, R98: Branches when any bit of the mask is set. -/
  | brvAny (o : BrvOp)
  /-- BRV_ALL, R98: Branches when every bit of the mask is set. -/
  | brvAll (o : BrvOp)
  /-- TRAP, R106: Closes the region, stops the task and posts a SOFT_TRAP record that carries the code. -/
  | trap (o : TrapOp)
  /-- SYS, R106: Closes the region, stops the task and posts a service-request record that carries x1 to x8. -/
  | sys (o : TrapOp)
  /-- ADD, R121: Integer add, modulo 2^64. -/
  | add (o : RROp)
  /-- SUB, R121: Integer subtract, modulo 2^64. -/
  | sub (o : RROp)
  /-- AND, R121: Bitwise AND. -/
  | and_ (o : RROp)
  /-- OR, R121: Bitwise OR. -/
  | or_ (o : RROp)
  /-- XOR, R121: Bitwise XOR. -/
  | xor (o : RROp)
  /-- ANDN, R121: AND with the complement of the second operand. -/
  | andn (o : RROp)
  /-- SHL, R121: Shift left by the low six bits of the second operand. -/
  | shl (o : RROp)
  /-- SHR, R121: Logical shift right. -/
  | shr (o : RROp)
  /-- SRA, R121: Arithmetic shift right. -/
  | sra (o : RROp)
  /-- ROT, R121: Rotate right. -/
  | rot (o : RROp)
  /-- MIN, R121: Signed minimum. -/
  | min (o : RROp)
  /-- MAX, R121: Signed maximum. -/
  | max (o : RROp)
  /-- MINU, R121: Unsigned minimum. -/
  | minu (o : RROp)
  /-- MAXU, R121: Unsigned maximum. -/
  | maxu (o : RROp)
  /-- MUL, R123: Low 64 bits of the product. -/
  | mul (o : RROp)
  /-- MULH, R123: High 64 bits of the signed product. -/
  | mulh (o : RROp)
  /-- MULHU, R123: High 64 bits of the unsigned product. -/
  | mulhu (o : RROp)
  /-- DIV, R123: Signed quotient on the context's divider. -/
  | div (o : RROp)
  /-- DIVU, R123: Unsigned quotient. -/
  | divu (o : RROp)
  /-- REM, R123: Signed remainder. -/
  | rem (o : RROp)
  /-- REMU, R123: Unsigned remainder. -/
  | remu (o : RROp)
  /-- SEL, R126: Selects one of two registers by a predicate. -/
  | sel (o : SelOp)
  /-- CLZ, R125: Counts leading zero bits. -/
  | clz (o : RUnOp)
  /-- CTZ, R125: Counts trailing zero bits. -/
  | ctz (o : RUnOp)
  /-- POPC, R125: Counts one bits. -/
  | popc (o : RUnOp)
  /-- EXT_B, R125: Sign-extends the low byte. -/
  | extB (o : RUnOp)
  /-- EXT_H, R125: Sign-extends the low half-word. -/
  | extH (o : RUnOp)
  /-- EXT_W, R125: Sign-extends the low word. -/
  | extW (o : RUnOp)
  /-- EXT_BU, R125: Zero-extends the low byte. -/
  | extBu (o : RUnOp)
  /-- EXT_HU, R125: Zero-extends the low half-word. -/
  | extHu (o : RUnOp)
  /-- EXT_WU, R125: Zero-extends the low word. -/
  | extWu (o : RUnOp)
  /-- BFX, R125: Extracts a bit field described by a register. -/
  | bfx (o : RROp)
  /-- BFI, R125: Inserts a bit field into the destination register. -/
  | bfi (o : RROp)
  /-- ADDI, R122: Adds a sign-extended immediate. -/
  | addi (o : RIOp)
  /-- ANDI, R122: ANDs with a sign-extended immediate. -/
  | andi (o : RIOp)
  /-- ORI, R122: ORs with a sign-extended immediate. -/
  | ori (o : RIOp)
  /-- XORI, R122: XORs with a sign-extended immediate. -/
  | xori (o : RIOp)
  /-- SHLI, R122: Shifts left by an immediate amount. -/
  | shli (o : RIOp)
  /-- SHRI, R122: Shifts right logically by an immediate amount. -/
  | shri (o : RIOp)
  /-- SRAI, R122: Shifts right arithmetically by an immediate amount. -/
  | srai (o : RIOp)
  /-- LUI, R127: Shifts the register up 16 bits and inserts an unsigned immediate. -/
  | lui (o : RUOp)
  /-- ADDPC, R128: Sets a register to the PC plus a signed bundle offset. -/
  | addpc (o : RUOp)
  /-- CMP, R130: Compares two registers and writes a predicate pair by its combining type. -/
  | cmp (o : CmpOp)
  /-- CMPI, R130: Compares a register with a 6-bit immediate and writes a predicate pair. -/
  | cmpi (o : CmpOp)
  /-- TBIT, R129: Tests one bit of a register and writes a predicate pair. -/
  | tbit (o : TbitOp)
  /-- FCMP, R129: Compares two FP32 values and writes a predicate pair. -/
  | fcmp (o : CmpOp)
  /-- PMOV, R133: Copies one predicate to another. -/
  | pmov (o : PmovOp)
  /-- PMOV_N, R133: Copies the complement of one predicate to another. -/
  | pmovN (o : PmovOp)
  /-- PMOV_GET, R133: Reads the whole predicate file into a register. -/
  | pmovGet (o : PfOp)
  /-- PMOV_SET, R133: Writes p1 to p15 from a register. -/
  | pmovSet (o : PfOp)
  /-- MFSR, R136: Reads a system register. -/
  | mfsr (o : SrOp)
  /-- MTSR, R136: Writes a system register under each field's access code. -/
  | mtsr (o : SrOp)
  /-- FADD, R134: FP32 add. -/
  | fadd (o : RROp)
  /-- FMUL, R134: FP32 multiply. -/
  | fmul (o : RROp)
  /-- FFMA, R134: FP32 fused multiply-add into the destination. -/
  | ffma (o : RROp)
  /-- FCVT, R135: Converts a scalar between two format codes. -/
  | fcvt (o : FcvtOp)
  /-- LD, R251: Plain load of 1 to 16 bytes. -/
  | ld (o : RMOp)
  /-- LD_ACQ, R252: Acquire load at the encoded scope. -/
  | ldAcq (o : RMSOp)
  /-- ST, R251: Plain store, buffered inside a region. -/
  | st (o : RMOp)
  /-- ST_REL, R252: Release store at the encoded scope. -/
  | stRel (o : RMSOp)
  /-- VLD_DEVICE, R159: Loads 256 bytes of device memory into a vector register. -/
  | vldDevice (o : RROp)
  /-- VLD_SCRATCHPAD, R159: Loads two scratchpad lines into a vector register. -/
  | vldScratchpad (o : RROp)
  /-- VST_DEVICE, R159: Stores a vector register to device memory. -/
  | vstDevice (o : RROp)
  /-- VST_SCRATCHPAD, R159: Stores a vector register to the scratchpad, multicasting when the address lies in the window. -/
  | vstScratchpad (o : RROp)
  /-- VLDS_DEVICE, R159: Strided load of 16 pieces of 16 bytes from device memory. -/
  | vldsDevice (o : RROp)
  /-- VLDS_SCRATCHPAD, R161: Strided load from the scratchpad through its own port. -/
  | vldsScratchpad (o : RROp)
  /-- VGATHER_DEVICE, R159: Gathers 64 words from device memory. -/
  | vgatherDevice (o : RROp)
  /-- VGATHER_SCRATCHPAD, R161: Gathers 64 words from the scratchpad through its own port. -/
  | vgatherScratchpad (o : RROp)
  /-- VSCATTER_DEVICE, R159: Scatters 64 words to device memory in ascending element order. -/
  | vscatterDevice (o : RROp)
  /-- VSCATTER_SCRATCHPAD, R161: Scatters 64 words to the scratchpad through its own port. -/
  | vscatterScratchpad (o : RROp)
  /-- VMVX, R162: Moves one 64-bit lane of a vector register to a scalar register. -/
  | vmvx (o : VMoveOp)
  /-- VMXV, R162: Moves a scalar register into one 64-bit lane of a vector register. -/
  | vmxv (o : VMoveOp)
  /-- VBX, R162: Broadcasts a scalar register to every 64-bit lane. -/
  | vbx (o : VMoveOp)
  /-- MLD_DEVICE, R159: Loads a mask register from device memory. -/
  | mldDevice (o : MMemOp)
  /-- MLD_SCRATCHPAD, R159: Loads a mask register from the scratchpad. -/
  | mldScratchpad (o : MMemOp)
  /-- MST_DEVICE, R159: Stores a mask register to device memory. -/
  | mstDevice (o : MMemOp)
  /-- MST_SCRATCHPAD, R159: Stores a mask register to the scratchpad. -/
  | mstScratchpad (o : MMemOp)
  /-- CFL, R264: Writes back and invalidates the lines of a range at the named levels. -/
  | cfl (o : CacheOp)
  /-- CINV, R264: Invalidates the lines of a range at the named levels. -/
  | cinv (o : CacheOp)
  /-- CPF, R264: Prefetches the lines of a range; never faults and never waits. -/
  | cpf (o : CacheOp)
  /-- CWB, R264: Writes back the dirty lines of a range and keeps them valid. -/
  | cwb (o : CacheOp)
  /-- ATOM, R253: Atomic read-modify-write that returns no value; buffered inside a region. -/
  | atom (o : AtOp)
  /-- ATOM_F, R253: Atomic read-modify-write that returns the old value and closes the region. -/
  | atomF (o : AtOp)
  /-- CAS, R253: Compare-and-swap that returns the old value and closes the region. -/
  | cas (o : AtOp)
  /-- FENCE, R256: Orders the context's earlier accesses of the given kind before its later ones at a scope. -/
  | fence (o : FenceOp)
  /-- WAITA, R257: Compares a word with an expected value and parks on its line's monitor when they are equal. -/
  | waita (o : RROp)
  /-- TLBSH_RANGE, R229: Drops the pen's translations for a range of pages and waits for completion. -/
  | tlbshRange (o : Rs2Op)
  /-- TLBSH_PEN, R229: Drops every non-global translation of the pen. -/
  | tlbshPen (o : GOp)
  /-- TLBSH_PEN_G, R229: Drops every translation of the pen, global ones included. -/
  | tlbshPenG (o : GOp)
  /-- TLOOK, R208: Finds the lowest owned slot with a tag, or the lowest EMPTY owned slot. -/
  | tlook (o : RUnOp)
  /-- TSET, R208: Writes a tile entry's descriptor, tag and state. -/
  | tset (o : Rs2Op)
  /-- TREAD, R208: Reads a word of a tile entry, or its last fill's command id. -/
  | tread (o : RROp)
  /-- TCLR, R208: Empties a tile entry and clears its tag. -/
  | tclr (o : JrOp)
  /-- RDEF, R212: Defines a ring handle over consecutive owned slots, or undefines it. -/
  | rdef (o : RdefOp)
  /-- RADV, R212: Advances a ring's consumer cursor and releases the slots it leaves. -/
  | radv (o : RadvOp)
  /-- PADV, R212: Advances a ring's producer cursor and updates the slots it leaves. -/
  | padv (o : RadvOp)
  /-- RCNT, R212: Reads a ring's fill level and the slot at its consumer cursor. -/
  | rcnt (o : RcntOp)
  /-- MCWIN, R213: Sets the context's multicast window and its target cores. -/
  | mcwin (o : Rs2Op)
  /-- XFER, R283: Issues an affine transfer on transfer queue 0. -/
  | xfer (o : EngOp)
  /-- XFER_Q1, R283: Issues an affine transfer on transfer queue 1. -/
  | xferQ1 (o : EngOp)
  /-- TMOV, R288: Writes a transform-unit operand port. -/
  | tmov (o : TmovOp)
  /-- CONV, R287: Triggers a transform conversion between formats. -/
  | conv (o : TrigOp)
  /-- QFP8, R287: Triggers block quantisation to E4M3 with scales. -/
  | qfp8 (o : TrigOp)
  /-- QMX4, R287: Triggers quantisation to MXFP4. -/
  | qmx4 (o : TrigOp)
  /-- CMPR, R287: Triggers chunk compression in the far-tier format. -/
  | cmpr (o : TrigOp)
  /-- EXPD, R287: Triggers chunk expansion from the far-tier format. -/
  | expd (o : TrigOp)
  /-- CSUM, R287: Triggers a CRC-32C checksum over LEN bytes. -/
  | csum (o : TrigOp)
  /-- KVRES, R305: Reserves pages and copy-on-write spares for a sequence. -/
  | kvres (o : EngOp)
  /-- KVAPP, R306: Appends tokens to a sequence, copying shared pages on write. -/
  | kvapp (o : EngOp)
  /-- KVFORK, R310: Opens a sequence that shares the committed pages of its source. -/
  | kvfork (o : EngOp)
  /-- KVFREE, R312: Retires a sequence and frees the stalls whose count reaches 0. -/
  | kvfree (o : EngOp)
  /-- KVCOMMIT, R309: Sets a sequence's committed length. -/
  | kvcommit (o : EngOp)
  /-- KVTRUNC, R309: Truncates a sequence's written length. -/
  | kvtrunc (o : EngOp)
  /-- KVQ, R314: Queries a sequence field into kv.qres. -/
  | kvq (o : EngOp)
  /-- KVCLASS, R313: Sets the eviction class of a sequence and of its pages. -/
  | kvclass (o : EngOp)
  /-- KVATT, R315: Starts a stream of K, V and header slots into three rings. -/
  | kvatt (o : EngOp)
  /-- KVDEMOTE, R339: Moves pages to a lower form or tier. -/
  | kvdemote (o : EngOp)
  /-- KVPROMOTE, R340: Moves far or agisted pages to the near yard in the same form. -/
  | kvpromote (o : EngOp)
  /-- KVEXPORT, R341: Moves a sequence to the far yard, writes an export image and retires it. -/
  | kvexport (o : EngOp)
  /-- KVIMPORT, R342: Opens a sequence from an export image. -/
  | kvimport (o : EngOp)
  /-- SMPOST, R357: Posts a sample request to the cluster's groom. -/
  | smpost (o : EngOp)
  /-- HCTLD, R38: Starts loading HCWs into a range of the horizontal control table. -/
  | hctld (o : EngOp)
  /-- QPUSH, R291: Pushes a 16-byte entry to a work queue when released. -/
  | qpush (o : EngOp)
  /-- ERD, R270: Reads an engine register. -/
  | erd (o : SrOp)
  /-- EWR, R270: Writes an engine register without checking it. -/
  | ewr (o : SrOp)
  /-- XWAIT, R278: Waits until a command is no longer waiting or running, then returns its status entry. -/
  | xwait (o : RUnOp)
  /-- XPOLL, R278: Returns a command's status entry without waiting. -/
  | xpoll (o : RUnOp)
  /-- TGET, R288: Reads a transform port, waiting for released operations before it reads a result port. -/
  | tget (o : RUnOp)
  /-- PUBLISH, R285: Issues a deferred flip of a swap window at a scope. -/
  | publish (o : PublishOp)
  /-- BAR_INIT_REG, R390: Sets a barrier's expected count; barrier number in a register. -/
  | barInitReg (o : Rs2Op)
  /-- BAR_ARR_REG, R390: Arrives at a barrier; barrier number in a register. -/
  | barArrReg (o : JrOp)
  /-- BAR_WAIT_REG, R390: Waits for the phase of the context's arrival to pass; barrier number in a register. -/
  | barWaitReg (o : JrOp)
  /-- BAR_SYNC_REG, R390: Arrives and then waits; barrier number in a register. -/
  | barSyncReg (o : JrOp)
  /-- BAR_INIT_IMM, R390: Sets a barrier's expected count; immediate barrier number. -/
  | barInitImm (o : BarInitOp)
  /-- BAR_ARR_IMM, R390: Arrives at a barrier; immediate barrier number. -/
  | barArrImm (o : BarOp)
  /-- BAR_WAIT_IMM, R390: Waits on a barrier; immediate barrier number. -/
  | barWaitImm (o : BarOp)
  /-- BAR_SYNC_IMM, R390: Arrives and then waits; immediate barrier number. -/
  | barSyncImm (o : BarOp)
  /-- POP, R391: Takes an entry from a work queue, blocking while the queue is empty and open. -/
  | pop (o : RROp)
  /-- POP_TRY, R391: Takes an entry from a work queue, or reports that it is empty or closed. -/
  | popTry (o : RROp)
  /-- JRAISE, R392: Raises the job's expected total. -/
  | jraise (o : JrOp)
  /-- TEXIT, R393: Releases the region, posts one completion and ends the task. -/
  | texit (o : GOp)
  /-- PUSH, R187: Latches eight B columns from a dense, sparse or generator unit. -/
  | push (o : BeatOp)
  /-- MAC, R191: Accumulates an A unit against the latched columns into a bank. -/
  | mac (o : BeatOp)
  /-- DRAIN, R192: Converts a bank into a ring chunk and zeroes the bank. -/
  | drain (o : BeatOp)
  /-- DRAIN_DISCARD, R193: Zeroes a bank with no ring write. -/
  | drainDiscard (o : DiscardOp)
  /-- SCL, R215: Loads 64 scale bytes from ring chunks into a scale register. -/
  | scl (o : SclOp)
  /-- SCL_TILE, R215: Loads 64 scale bytes from the tile at the ring's consumer cursor. -/
  | sclTile (o : SclOp)
  /-- SFU_EXP2, R170: Computes 2^a lane by lane. -/
  | sfuExp2 (o : SfuOp)
  /-- SFU_LOG2, R170: Computes log2 a. -/
  | sfuLog2 (o : SfuOp)
  /-- SFU_RCP, R170: Computes 1/a. -/
  | sfuRcp (o : SfuOp)
  /-- SFU_RSQRT, R170: Computes a^-1/2. -/
  | sfuRsqrt (o : SfuOp)
  /-- SFU_SQRT, R170: Computes a^1/2. -/
  | sfuSqrt (o : SfuOp)
  /-- SFU_SIN, R170: Computes sin a with exact quadrant reduction. -/
  | sfuSin (o : SfuOp)
  /-- SFU_COS, R170: Computes cos a with exact quadrant reduction. -/
  | sfuCos (o : SfuOp)
  /-- SFU_TANH, R170: Computes tanh a. -/
  | sfuTanh (o : SfuOp)
  /-- SFU_SIGM, R171: Computes the logistic sigmoid as a composite. -/
  | sfuSigm (o : SfuOp)
  /-- SFU_SILU, R171: Computes a times sigmoid(a). -/
  | sfuSilu (o : SfuOp)
  /-- SFU_GELU, R171: Computes GELU through erf. -/
  | sfuGelu (o : SfuOp)
  /-- SFU_ERF, R170: Computes erf a. -/
  | sfuErf (o : SfuOp)
  /-- SFU_SEXP, R171: Computes 2^min(a, 8) for the softmax. -/
  | sfuSexp (o : SfuOp)
  /-- VADD, R146: Integer add lane by lane, optionally saturating. -/
  | vadd (o : VOp)
  /-- VSUB, R146: Integer subtract lane by lane. -/
  | vsub (o : VOp)
  /-- VMUL, R146: Integer multiply lane by lane. -/
  | vmul (o : VOp)
  /-- VMULH, R146: High half of each integer product. -/
  | vmulh (o : VOp)
  /-- VMIN, R146: Integer minimum lane by lane. -/
  | vmin (o : VOp)
  /-- VMAX, R146: Integer maximum lane by lane. -/
  | vmax (o : VOp)
  /-- VABS, R146: Integer absolute value lane by lane. -/
  | vabs (o : VOp)
  /-- VAND, R146: Bitwise AND lane by lane. -/
  | vand (o : VOp)
  /-- VOR, R146: Bitwise OR lane by lane. -/
  | vor (o : VOp)
  /-- VXOR, R146: Bitwise XOR lane by lane. -/
  | vxor (o : VOp)
  /-- VANDN, R146: AND with the complement lane by lane. -/
  | vandn (o : VOp)
  /-- VSHL, R146: Integer left shift lane by lane. -/
  | vshl (o : VOp)
  /-- VSHR, R146: Logical right shift lane by lane. -/
  | vshr (o : VOp)
  /-- VSRA, R146: Arithmetic right shift lane by lane. -/
  | vsra (o : VOp)
  /-- VCLZ, R146: Counts leading zeros of each element. -/
  | vclz (o : VOp)
  /-- VPOPC, R146: Counts one bits of each element. -/
  | vpopc (o : VOp)
  /-- VNARROW, R147: Narrows two source vectors into one destination. -/
  | vnarrow (o : VOp)
  /-- VWIDEN, R147: Widens half of a source vector. -/
  | vwiden (o : VOp)
  /-- VCMP, R148: Integer compare that writes a mask pair by its combining type. -/
  | vcmp (o : VOp)
  /-- VSEL, R149: Selects each element from one of two sources by the mask. -/
  | vsel (o : VOp)
  /-- VMOV, R149: Masked vector copy. -/
  | vmov (o : VOp)
  /-- VIMM, R149: Writes a 21-bit immediate to the active elements. -/
  | vimm (o : VOp)
  /-- VFADD, R150: Floating add lane by lane. -/
  | vfadd (o : VOp)
  /-- VFSUB, R150: Floating subtract lane by lane. -/
  | vfsub (o : VOp)
  /-- VFMUL, R150: Floating multiply lane by lane. -/
  | vfmul (o : VOp)
  /-- VFMA, R150: Fused A×B+C lane by lane. -/
  | vfma (o : VOp)
  /-- VFMS, R150: Fused A×B−C lane by lane. -/
  | vfms (o : VOp)
  /-- VFNMA, R150: Fused −(A×B)+C lane by lane. -/
  | vfnma (o : VOp)
  /-- VFMIN, R150: Floating minimum lane by lane. -/
  | vfmin (o : VOp)
  /-- VFMAX, R150: Floating maximum lane by lane. -/
  | vfmax (o : VOp)
  /-- VFABS, R150: Clears the sign bit of each element. -/
  | vfabs (o : VOp)
  /-- VFNEG, R150: Flips the sign bit of each element. -/
  | vfneg (o : VOp)
  /-- VFCMP, R148: Floating compare that writes a mask pair. -/
  | vfcmp (o : VOp)
  /-- VFCLASS, R151: Writes the class code of each element. -/
  | vfclass (o : VOp)
  /-- VROUND, R152: Rounds each element to an integral value. -/
  | vround (o : VOp)
  /-- VCVT, R153: Converts elements between formats, part by part. -/
  | vcvt (o : VOp)
  /-- VSCALE, R154: Multiplies elements by powers of two taken from a scale register. -/
  | vscale (o : VOp)
  /-- VBCAST, R155: Broadcasts one element to every element. -/
  | vbcast (o : VOp)
  /-- VPERM, R155: Permutes elements by an index vector. -/
  | vperm (o : VOp)
  /-- VSLIDE, R155: Slides the concatenation of two vectors by s elements. -/
  | vslide (o : VOp)
  /-- VZIP, R155: Interleaves halves of two vectors. -/
  | vzip (o : VOp)
  /-- VUNZIP, R155: De-interleaves two vectors. -/
  | vunzip (o : VOp)
  /-- VCOMPRESS, R155: Packs the active elements to the front. -/
  | vcompress (o : VOp)
  /-- VEXPAND, R155: Spreads leading elements to the active positions. -/
  | vexpand (o : VOp)
  /-- VIOTA, R155: Writes the prefix count of set mask bits. -/
  | viota (o : VOp)
  /-- VREDSUM, R156: Sum reduction by the fixed tree. -/
  | vredsum (o : VOp)
  /-- VREDMAX, R156: Maximum reduction. -/
  | vredmax (o : VOp)
  /-- VREDMIN, R156: Minimum reduction. -/
  | vredmin (o : VOp)
  /-- VARGMAX, R156: Value and index of the maximum. -/
  | vargmax (o : VOp)
  /-- VARGMIN, R156: Value and index of the minimum. -/
  | vargmin (o : VOp)
  /-- VREDAND, R156: AND reduction. -/
  | vredand (o : VOp)
  /-- VREDOR, R156: OR reduction. -/
  | vredor (o : VOp)
  /-- MAND, R157: ANDs two masks. -/
  | mand (o : VOp)
  /-- MOR, R157: ORs two masks. -/
  | mor (o : VOp)
  /-- MXOR, R157: XORs two masks. -/
  | mxor (o : VOp)
  /-- MNOT, R157: Complements a mask. -/
  | mnot (o : VOp)
  /-- MRANGE, R157: Sets the mask bits in a range. -/
  | mrange (o : VOp)
  /-- VSMAX, R346: Folds a score chunk into the soft-maximum state and sets the rescale delta. -/
  | vsmax (o : VOp)
  /-- VSMAX_INIT, R347: Writes the initial soft-maximum state. -/
  | vsmaxInit (o : VOp)
  /-- VSMAX_E, R347: Broadcasts each row's reference exponent. -/
  | vsmaxE (o : VOp)
  /-- VSMAX_D, R347: Broadcasts each row's rescale factor 2^d. -/
  | vsmaxD (o : VOp)
  /-- VMASS, R348: Adds probabilities to the denominators and/or to a tile's mass. -/
  | vmass (o : VOp)
  /-- VSFIN, R350: Divides the output by the row denominators. -/
  | vsfin (o : VOp)
  /-- VSEEDEXP, R197: Chooses a generator exponent for 64 targets. -/
  | vseedexp (o : VOp)
  /-- VSEEDSCORE, R199: Scores 64 consecutive seeds by residual sum of squares. -/
  | vseedscore (o : VOp)
  /-- VSEEDFIT, R199: Fits one seed and emits its generator record. -/
  | vseedfit (o : VOp)
  /-- VGEN, R200: Expands a generator record into 64 weights. -/
  | vgen (o : VOp)
  /-- NOP, R43: No effect in any slot, whatever its guard. -/
  | nop (o : GOp)
  /-- LLD, R372: Loads 16 logits of the chunk. -/
  | lld (o : LOp)
  /-- LBIAS, R372: Adds the bias-table entries of each token. -/
  | lbias (o : LOp)
  /-- LCNT, R372: Reads each token's count from the count table. -/
  | lcnt (o : LOp)
  /-- LPEN, R372: Applies frequency and presence penalties. -/
  | lpen (o : LOp)
  /-- LTEMP, R370: Applies the temperature, or sets greedy mode. -/
  | ltemp (o : LOp)
  /-- LMASK, R372: Masks disallowed and past-end tokens to −infinity. -/
  | lmask (o : LOp)
  /-- LNOISE, R372: Adds Gumbel noise unless greedy. -/
  | lnoise (o : LOp)
  /-- LAMAX, R373: Finds the best (value, token) pair of a vector. -/
  | lamax (o : LOp)
  /-- LMERGE, R373: Merges two pairs by the better-pair order. -/
  | lmerge (o : LOp)
  /-- LADD, R374: Lane add. -/
  | ladd (o : LOp)
  /-- LSUB, R374: Lane subtract. -/
  | lsub (o : LOp)
  /-- LMUL, R374: Lane multiply. -/
  | lmul (o : LOp)
  /-- LFMA, R374: Lane fused multiply-add. -/
  | lfma (o : LOp)
  /-- LMIN, R374: Lane minimum. -/
  | lmin (o : LOp)
  /-- LMAX, R374: Lane maximum. -/
  | lmax (o : LOp)
  /-- LSEL, R374: Lane select by a k-register mask. -/
  | lsel (o : LOp)
  /-- LCMP, R374: Lane compare into a k-register mask. -/
  | lcmp (o : LOp)
  /-- LCAP, R374: Soft-caps logits with tanh. -/
  | lcap (o : LOp)
  /-- LIMM, R375: Loads an immediate into a k register in one of three modes. -/
  | limm (o : LOp)
  /-- LMOV, R375: Moves between w and k registers by mode. -/
  | lmov (o : LOp)
  /-- LACC, R376: Counts the accepted drafts. -/
  | lacc (o : LOp)
  /-- LPUT, R376: Writes the board entry's user field. -/
  | lput (o : LOp)
  /-- LBUMP, R376: Updates the count table for the produced tokens. -/
  | lbump (o : LOp)
  /-- LEND, R364: Ends the chunk or the completion section. -/
  | lend (o : LOp)
  /-- DENIAL_SOLE_ISSUE, R114: A context whose denial count reaches 16 receives sole issue in the next cycle. -/
  | denialSoleIssue (ctx : Nat)
  /-- FAULT_RECORD_HELD_WRITE, R233: A held fault record is written once the fault queue has room. -/
  | faultRecordHeldWrite (pen : Nat)
  /-- DRIVER_RESUME, R106: The pen's driver resumes a STOPPED task at its restart point. -/
  | driverResume (pen : Nat) (task : Nat) (xregs : List Word)
  /-- DRIVER_TERMINATE, R380: The pen's driver terminates a STOPPED task, which fails its job. -/
  | driverTerminate (pen : Nat) (task : Nat)
  /-- LAUNCH, R378: The job sequencer accepts or rejects a kind-0 launch entry of a mapped user queue. -/
  | launch (slot : Nat)
  /-- ATTACHED_LAUNCH, R378: A kind-1 entry attaches its tasks to a running job control block. -/
  | attachedLaunch (slot : Nat)
  /-- GRAPH_LAUNCH, R382: A kind-2 entry makes a graph resident in the walker. -/
  | graphLaunch (slot : Nat)
  /-- GRAPH_NODE_STEP, R383: The walker reads and acts on the next node of a resident graph. -/
  | graphNodeStep (graph : Nat)
  /-- TASK_PLACEMENT, R381: The job sequencer places the head of its order on a context and sets it up. -/
  | taskPlacement (core : Nat)
  /-- PREEMPTION, R109: Discards the open region, saves the context into a frame and frees the context. -/
  | preemption (task : Nat)
  /-- TASK_RESTART, R108: A saved or stopped task restarts once its reissued fills and streams have re-armed its rings. -/
  | taskRestart (ctx : Nat)
  /-- JOB_SIGNAL_WRITE, R250: Writes the job's completion or failure signal after every write and send of the job has performed. -/
  | jobSignalWrite (job : Nat)
  /-- COMMAND_START, R274: A released engine command starts once its predecessors and ordering are satisfied, or inherits their failure. -/
  | commandStart (ctx : Nat) (cid : Nat)
  /-- COMMAND_RETIRE, R275: An engine command retires once its writes have performed, updating its status entry. -/
  | commandRetire (ctx : Nat) (cid : Nat)
  /-- ENGINE_FILL_RETIRE, R205: A fill into a ring slot retires and makes the slot READY or faulted. -/
  | engineFillRetire (ctx : Nat) (cid : Nat)
  /-- HCTLD_WORD_ARRIVAL, R38: An arriving HCW is checked and loaded or left unloaded. -/
  | hctldWordArrival (ctx : Nat) (cid : Nat)
  /-- TRANSFORM_OP_RETIRE, R286: A transform operation retires and writes its result ports. -/
  | transformOpRetire (ctx : Nat) (cid : Nat)
  /-- PUBLISH_FLIP, R285: Once the window's writers have retired, flips the front half and drops its translations. -/
  | publishFlip (ctx : Nat) (cid : Nat)
  /-- DRAIN_LANDS, R184: A DRAIN's chunk is written into the scratchpad and its slot is updated. -/
  | drainLands (core : Nat)
  /-- MULTICAST_ARRIVAL, R214: A multicast store lands in every target core six cycles after issue. -/
  | multicastArrival (cluster : Nat)
  /-- SCALE_LOAD_COMPLETE, R215: A scale load writes its register at the end of cycle t+3. -/
  | scaleLoadComplete (ctx : Nat)
  /-- TLBSH_COMPLETE, R230: A shoot-down completes once its entries are gone and dependent accesses have performed or been aborted. -/
  | tlbshComplete (ctx : Nat)
  /-- CACHE_OP_COMPLETE, R265: cfl, cinv or cwb completes once every line is processed and every write-back has performed. -/
  | cacheOpComplete (ctx : Nat)
  /-- WAITA_WAKE, R258: A write to a monitored line wakes the parked contexts with reason 1. -/
  | waitaWake (ctx : Nat)
  /-- WAITA_MONITOR_LOST, R258: Eviction of a monitor tag or its line wakes with reason 2. -/
  | waitaMonitorLost (cluster : Nat) (pa : Nat)
  /-- WAITA_TIMEOUT, R257: ctx.waitlim cycles pass since the park, waking with reason 3. -/
  | waitaTimeout (ctx : Nat)
  /-- TWAIT_WAKE, R360: Release of a board entry's iteration ends the twait parks on it. -/
  | twaitWake (ctx : Nat)
  /-- BARRIER_OP_AT_HOME, R388: A barrier operation applies at the gang's home and may complete the phase and wake waiters. -/
  | barrierOpAtHome (core : Nat)
  /-- WORK_QUEUE_CYCLE, R386: A queue home applies the cycle's arrivals, then waiting pops, then new pops. -/
  | workQueueCycle (queue : Nat) (hostPushes : List (BitVec 128))
  /-- QUEUE_SPILL_REFILL, R290: As the head drains, spilled entries return from the spill ring in order. -/
  | queueSpillRefill (queue : Nat)
  /-- NOTIFY, R293: A write to a user-queue notify register updates tail, is redirected, latched as pending or dropped. -/
  | notify (pen : Nat) (slot : Nat) (value : Word)
  /-- USER_QUEUE_MAP, R292: The job sequencer maps a user queue to a free slot and delivers a pending notify. -/
  | userQueueMap (queue : Nat) (slot : Nat)
  /-- USER_QUEUE_UNMAP, R292: The job sequencer unmaps an idle user queue. -/
  | userQueueUnmap (slot : Nat)
  /-- KVATT_SLOT_FILL, R317: The ostler stream fills the next K, V or header slot once it is EMPTY. -/
  | kvattSlotFill (ctx : Nat) (cid : Nat)
  /-- HEAT_REFRESH, R321: The ostler rewrites the heat and stamp of each live stall within every 128 periods. -/
  | heatRefresh (pool : Nat)
  /-- KV_DECAY_PERIOD, R294: A heat decay period elapses and the pool's period count increments. -/
  | kvDecayPeriod (pool : Nat)
  /-- DEFERRED_BLOCK_RELEASE, R298: A released stall number or block becomes allocatable once earlier streams that resolved it retire. -/
  | deferredBlockRelease (pool : Nat)
  /-- DROVER_PAGE_MOVE, R332: A drover moves one page to a new block, form or tier and rewrites its stall in one step. -/
  | droverPageMove (die : Nat)
  /-- KV_NOT_NEAR_SERVICE, R334: The drover promotes the faulting page after the task has been saved. -/
  | kvNotNearService (task : Nat)
  /-- RECALL, R336: A received RECALL message withdraws the named blocks and moves their live stalls ahead of other work. -/
  | recall (pool : Nat) (blocks : List Nat) (deadline : Nat)
  /-- RETURN, R335: A received RETURN message puts the blocks back on the lender's free stack 0. -/
  | returnMsg (pool : Nat) (blocks : List Nat)
  /-- RECALL_DEADLINE, R336: At the recall deadline, stalls still on named blocks become RECALLED. -/
  | recallDeadline (pool : Nat)
  /-- GROOM_REQUEST, R362: The groom claims the board entry, runs the logit program over the shard and merges the result. -/
  | groomRequest (cluster : Nat)
  /-- BUDGET_PERIOD_BOUNDARY, R395: At a slot's period boundary, used returns to 0 and held steps may start. -/
  | budgetPeriodBoundary (slot : Nat)
  /-- RFM_ISSUE, R398: When a row that reached the threshold closes, refresh management goes to its neighbours and holds the bank. -/
  | rfmIssue (stack : Nat) (bank : Nat) (row : Nat)
  /-- RFM_HOLD_END, R399: tRFM expires and queued requests to the bank proceed. -/
  | rfmHoldEnd (stack : Nat) (bank : Nat)
  /-- PERIODIC_REFRESH, R398: Periodic refresh of a row resets its activation count. -/
  | periodicRefresh (stack : Nat) (bank : Nat) (row : Nat)
  /-- FLIT_RECEIVED, R404: A received flit is checked and its messages, acks and credits are taken, or it is dropped. -/
  | flitReceived (link : Nat) (flit : List Byte)
  /-- REPLAY_REQUEST, R404: A replay request makes the sender resend from the named flit. -/
  | replayRequest (link : Nat) (seq : Nat)
  /-- LINK_DOWN, R404: After 16 failed replays the link goes down and its flits move to the sibling link. -/
  | linkDown (link : Nat)
  /-- INBOUND_REQUEST, R408: A remote or host request is admitted by an inbound window and served, or answered with an error. -/
  | inboundRequest (rq : Inbound)
  /-- INBOUND_ROUTE_TIMEOUT, R408: A request that finds no route within 10 µs gets a MACHINE_CHECK response. -/
  | inboundRouteTimeout (ctx : Nat)
  /-- REMOTE_RESPONSE, R406: A class-1 response or acknowledgement completes a remote load, atomic or store. -/
  | remoteResponse (ctx : Nat) (data : Nat)
  /-- UNCORRECTABLE_ERROR, R410: An uncorrectable ECC error raises MACHINE_CHECK at its consumer or rolls back a controller. -/
  | uncorrectableError (target : EccTarget) (pa : Nat)
  /-- COLD_RESET, R413: Boot from ROM: verify and start the images, run self-test, then release the data plane or enter the safe state. -/
  | coldReset (selfTestOk : Bool)
  /-- UPDATE_BOUNDARY, R418: At its update boundary, the outgoing image seals the hand-over record and the new image starts. -/
  | updateBoundary (inst : Nat) (record : List Byte)
  /-- ALIVE_POST, R418: A write to fw.N.alive makes the held writes perform and flips the active slot. -/
  | alivePost (inst : Nat) (version : Nat)
  /-- WATCHDOG_EXPIRY, R419: With no alive posted within 50 ms, the update is reverted to the old image. -/
  | watchdogExpiry (inst : Nat)
  /-- REG_READ, R424: Mailbox command that reads a management register. -/
  | regRead (mbox : Nat)
  /-- REG_WRITE, R424: Mailbox command that writes a management register under that register's own rules. -/
  | regWrite (mbox : Nat)
  /-- IMAGE_LOAD, R424: Writes image bytes into an instance's inactive slot. -/
  | imageLoad (mbox : Nat)
  /-- IMAGE_VERIFY, R412: Verifies the inactive slot's image and stages it. -/
  | imageVerify (mbox : Nat)
  /-- UPDATE, R418: Starts the live update of an instance. -/
  | update (mbox : Nat)
  /-- TFRANGE, R421: Gives a pen the range of frames it may mark as table frames. -/
  | tfrange (mbox : Nat)
  /-- TFRAME_SET, R421: Sets table-frame map bits within the pen's range. -/
  | tframeSet (mbox : Nat)
  /-- TFRAME_CLEAR, R421: Clears table-frame map bits within the pen's range. -/
  | tframeClear (mbox : Nat)
  /-- QUOTE, R422: Produces a signed attestation quote over a nonce. -/
  | quote (mbox : Nat)
  /-- QUEUE_CREATE, R292: Registers a user queue of the pen. -/
  | queueCreate (mbox : Nat)
  /-- QUEUE_DESTROY, R424: Unmaps and forgets a user queue, discarding a pending notify. -/
  | queueDestroy (mbox : Nat)
  /-- QUEUE_QUOTA, R424: Sets a pen's user-queue slot quota. -/
  | queueQuota (mbox : Nat)
  /-- SPILL_SET, R290: Writes the spill descriptor of a groom request queue or an engine queue. -/
  | spillSet (mbox : Nat)
  /-- REGISTER_WRITE, R5: A write to a register that has no row of its own, applied under its access codes. -/
  | registerWrite (pen : Nat) (offset : Nat) (value : Word)
  /-- LEND_MESSAGE, R335: A LEND message from a torus neighbour arrives and the borrower's management controller pushes the named blocks onto the pool's agisted stack. -/
  | lendMessage (pool : Nat) (blocks : List Nat)
  deriving DecidableEq, Repr

end Sys2Proof
end

