-- ==== Sys2Proof/WellFormed.lean ====
section
/-! DEFINITION. Well-formed instructions: the limits that the spec puts on the fields of an encoding.

A well-formed slot operation or logit word is one that decode (R30, R38, R364) accepts: its reserved
and unused fields are zero and every code is one the opcode map assigns. For the steps that engines,
controllers and links take on their own, well-formed means that the numbers name things the part has
(R12, R15, R137). -/

namespace Sys2Proof

/-- System-register indices of Table 7 of the scalar chapter (R136). -/
def sysIdx (i : Nat) : Bool :=
  i ≤ 4 || (8 ≤ i && i ≤ 11) || (0x10 ≤ i && i ≤ 0x15) || (0x20 ≤ i && i ≤ 0x27) || i == 0x30

/-- Engine-register indices (R267, R302, R356). -/
def engIdx (i : Nat) : Bool :=
  i ≤ 1 || (8 ≤ i && i ≤ 10) || (0x10 ≤ i && i ≤ 0x1F && i % 4 != 3) || i == 0x20 || i == 0x21 ||
  (0x30 ≤ i && i ≤ 0x3F) || i == 0x40 || (0x100 ≤ i && i ≤ 0x10A) || i == 0x10F ||
  (0x200 ≤ i && i ≤ 0x207)

/-- Width in bits of the elements of a format code 0 to 10 (R69). -/
def fmtWidth (c : Nat) : Nat :=
  match c with
  | 0 => 32 | 1 => 16 | 2 => 16 | 3 => 8 | 4 => 8 | 5 => 4 | 6 => 8 | 7 => 4 | 8 => 8 | 9 => 16
  | _ => 32

/-- i8, u8, i16, i32 (R146). -/
def fmtInt (c : Nat) : Bool := c == 6 || c == 8 || c == 9 || c == 10

/-- f32, bf16, f16 (R150). -/
def fmtFloat (c : Nat) : Bool := c ≤ 2

/-- Formats 0 to 2 and 6 to 10 (R149, R155). -/
def fmtMove (c : Nat) : Bool := c ≤ 2 || (6 ≤ c && c ≤ 10)

/-- f32, bf16, f16, i16, i32 (R156). -/
def fmtRed (c : Nat) : Bool := c ≤ 2 || c == 9 || c == 10

namespace VOp
/-- Numbers of the fields. -/
def f (o : VOp) : Nat := o.fmt.toNat
def d (o : VOp) : Nat := o.vd.toNat
def a (o : VOp) : Nat := o.sa.toNat
def b (o : VOp) : Nat := o.sb.toNat
def c (o : VOp) : Nat := o.sc.toNat
def k (o : VOp) : Nat := o.mod.toNat
/-- The 21-bit immediate of `vimm` (R52). -/
def imm (o : VOp) : Nat := o.a * 2 ^ 14 + o.b * 2 ^ 7 + o.c

/-- Two-source integer operations of Table 3 with modifiers up to `m` (R146). -/
def okInt (o : VOp) (m : Nat) : Bool := fmtInt o.f && o.c == 0 && o.k ≤ m
/-- One-source integer operations of Table 3 (R146). -/
def okInt1 (o : VOp) (m : Nat) : Bool := o.okInt m && o.b == 0
/-- R147. -/
def okNarrow (o : VOp) : Bool := (o.f == 6 || o.f == 8 || o.f == 9) && o.c == 0 && o.k ≤ 1
/-- R147. -/
def okWiden (o : VOp) : Bool := (o.f == 9 || o.f == 10) && o.b == 0 && o.c == 0 && o.k ≤ 3
/-- R148. -/
def okCmp (o : VOp) : Bool := fmtInt o.f && o.c == 0 && o.mm == 0
/-- R148. -/
def okFcmp (o : VOp) : Bool := fmtFloat o.f && o.c == 0 && o.mm == 0
/-- R149. -/
def okSel (o : VOp) : Bool := fmtMove o.f && o.c == 0 && o.mm == 0 && o.k == 0
/-- R149. -/
def okMov (o : VOp) : Bool := fmtMove o.f && o.b == 0 && o.c == 0 && o.k == 0
/-- R149, R52: bf16 and f16 take 16 bits of immediate. -/
def okImm (o : VOp) : Bool :=
  (fmtFloat o.f || fmtInt o.f) && o.k == 0 && (!(o.f == 1 || o.f == 2) || o.imm < 2 ^ 16)
/-- Two-source floating operations (R150). -/
def okF2 (o : VOp) : Bool := fmtFloat o.f && o.c == 0
/-- Fused floating operations (R150). -/
def okF3 (o : VOp) : Bool := fmtFloat o.f
/-- Floating minimum and maximum (R150). -/
def okFmm (o : VOp) : Bool := o.okF2 && o.k == 0
/-- One-source floating operations (R150, R151, R152) with modifiers up to `m`. -/
def okF1 (o : VOp) (m : Nat) : Bool := fmtFloat o.f && o.b == 0 && o.c == 0 && o.k ≤ m
/-- R153. -/
def okCvt (o : VOp) : Bool :=
  o.f ≤ 10 && o.b < 8 && o.c ≤ 10 && o.k ≤ 3 &&
  decide (o.b * Nat.min (fmtWidth o.f) (fmtWidth o.c) < Nat.max (fmtWidth o.f) (fmtWidth o.c))
/-- R154. -/
def okScale (o : VOp) : Bool := fmtFloat o.f && o.b < 16 && o.c ≤ 1 && o.k ≤ 6
/-- R155. -/
def okBcast (o : VOp) : Bool :=
  fmtMove o.f && o.b ≤ 1 && o.k == 0 && decide ((128 * o.b + o.c) * fmtWidth o.f < 2048)
/-- R155. -/
def okPerm (o : VOp) : Bool := fmtMove o.f && o.c == 0 && o.k == 0
/-- R155. -/
def okSlide (o : VOp) : Bool := fmtMove o.f && o.c < 64 && o.k == 0
/-- `vzip`, `vunzip` (R155). -/
def okZip (o : VOp) : Bool := fmtMove o.f && o.c == 0 && o.k ≤ 1
/-- `vcompress`, `vexpand` (R155). -/
def okPack (o : VOp) : Bool := (o.f == 0 || o.f == 10) && o.b == 0 && o.c == 0 && o.k == 0
/-- R155. -/
def okIota (o : VOp) : Bool := o.f == 10 && o.a == 0 && o.b == 0 && o.c == 0 && o.mm == 0 && o.k == 0
/-- Reductions (R156). -/
def okRed (o : VOp) : Bool := fmtRed o.f && o.b == 0 && o.c == 0 && o.mm == 0 && o.k == 0
/-- `vredsum` (R156). -/
def okSum (o : VOp) : Bool :=
  fmtRed o.f && o.b == 0 && o.c == 0 && o.mm == 0 && (o.k == 0 || (o.k == 1 && 9 ≤ o.f))
/-- `vredand`, `vredor` (R156). -/
def okRedBit (o : VOp) : Bool := o.okRed && 9 ≤ o.f
/-- Mask operations (R157): the target is m1 to m15. -/
def okMask (o : VOp) : Bool := o.f == 0 && o.k == 0 && o.c == 0 && 0 < o.d && o.d < 16
/-- R157. -/
def okMask2 (o : VOp) : Bool := o.okMask && o.a < 16 && o.b < 16
/-- R157. -/
def okMask1 (o : VOp) : Bool := o.okMask && o.a < 16 && o.b == 0
/-- R157. -/
def okRange (o : VOp) : Bool := o.okMask && o.a < 64 && o.b < 64
/-- R345. -/
def okSmax (o : VOp) : Bool := o.f == 0 && o.mm == 0 && o.k == 0 && o.c == 0
/-- R345. -/
def okSmaxInit (o : VOp) : Bool :=
  o.f == 0 && o.mm == 0 && o.k == 1 && o.a == 0 && o.b == 0 && o.c == 0 && o.mask == 0
/-- `.e` and `.d` (R345). -/
def okSmaxB (o : VOp) (m : Nat) : Bool :=
  o.f == 0 && o.mm == 0 && o.k == m && o.b == 0 && o.c == 0 && o.mask == 0
/-- R345. -/
def okMass (o : VOp) : Bool :=
  o.f == 0 && o.mm == 0 && 1 ≤ o.k && o.k ≤ 3 && (if 2 ≤ o.k then o.c < 16 else o.c == 0)
/-- R345. -/
def okSfin (o : VOp) : Bool := fmtFloat o.f && o.mm == 0 && o.k ≤ 1 && o.c == 0
/-- R196. -/
def okSeedexp (o : VOp) : Bool :=
  o.f == 0 && o.b == 0 && o.c == 0 && o.mask == 0 && o.mm == 0 && o.k == 0
/-- R196. -/
def okSeed (o : VOp) : Bool := o.f == 0 && o.mask == 0 && o.mm == 0
/-- R196. -/
def okGen (o : VOp) : Bool := fmtFloat o.f && o.b == 0 && o.c == 0 && o.k == 0
end VOp

/-- fmt3 0 to 2 (R36). -/
def SfuOp.ok (o : SfuOp) : Bool := o.fmt.toNat ≤ 2

namespace LOp
def a (o : LOp) : Nat := o.wa.toNat
def b (o : LOp) : Nat := o.wb.toNat
def d (o : LOp) : Nat := o.wd.toNat
def i (o : LOp) : Nat := o.imm.toNat
/-- wd only (R371). -/
def okD (o : LOp) : Bool := o.a == 0 && o.b == 0 && o.i == 0
/-- wd and wa (R371). -/
def okDA (o : LOp) : Bool := o.b == 0 && o.i == 0
/-- wd, wa and wb (R371). -/
def okDAB (o : LOp) : Bool := o.i == 0
/-- No field (R371). -/
def ok0 (o : LOp) : Bool := o.okD && o.d == 0
end LOp

/-- Bound on a context number (R12). -/
def ctxOk (c : Nat) : Bool := c < 1024

/-- The size, scope and order limits of an atomic syllable (R26, R49). -/
def AtOp.ok (o : AtOp) : Bool := o.op.toNat ≤ 8 && o.scope.toNat ≤ 5

/-- ord 3 is reserved (Table 21). -/
def EngOp.ok (o : EngOp) : Bool := o.ord.toNat ≤ 2
def TrigOp.ok (o : TrigOp) : Bool := o.ord.toNat ≤ 2

/-- Access sizes and the even register of a q access (R27). -/
def sizeOk (size rd : Nat) : Bool := size ≤ 4 && !(size == 4 && rd % 2 == 1)

/-- `pop`, `pop.try` (R391). -/
def RROp.okPop (o : RROp) : Bool :=
  o.rd.toNat % 2 == 0 &&
  !(o.rs2.toNat != 0 && (o.rs2.toNat == o.rd.toNat || o.rs2.toNat == o.rd.toNat + 1))

/-- Cache level 3 is unassigned (R264). -/
def CacheOp.ok (o : CacheOp) : Bool := o.level.toNat ≤ 2

/-- Shift amounts have imm10[9:6] zero (R122). -/
def RIOp.okShift (o : RIOp) : Bool := o.imm.toNat < 64

namespace Instr

/-- The limits on the fields of each instruction. -/
def WellFormed (i : Instr) : Bool :=
  match i with
  | .nop _ => true | .region _ => true | .commit _ => true | .ret _ => true | .lpop _ => true
  | .yield _ => true | .jr _ => true | .twait _ => true | .br _ => true | .call _ => true
  | .brX o => 1 ≤ o.n.toNat && o.n.toNat ≤ 6
  | .loop o => o.off != 0
  | .loopi o => o.off != 0
  | .brv _ => true | .brvAny _ => true | .brvAll _ => true | .trap _ => true | .sys _ => true
  | .add _ => true | .sub _ => true | .and_ _ => true | .or_ _ => true | .xor _ => true
  | .andn _ => true | .shl _ => true | .shr _ => true | .sra _ => true | .rot _ => true
  | .min _ => true | .max _ => true | .minu _ => true | .maxu _ => true
  | .mul _ => true | .mulh _ => true | .mulhu _ => true | .div _ => true | .divu _ => true
  | .rem _ => true | .remu _ => true | .sel _ => true | .clz _ => true | .ctz _ => true
  | .popc _ => true | .extB _ => true | .extH _ => true | .extW _ => true | .extBu _ => true
  | .extHu _ => true | .extWu _ => true | .bfx _ => true | .bfi _ => true
  | .addi _ => true | .andi _ => true | .ori _ => true | .xori _ => true
  | .shli o => o.okShift | .shri o => o.okShift | .srai o => o.okShift
  | .lui _ => true | .addpc _ => true
  | .cmp _ => true | .cmpi _ => true | .tbit _ => true | .fcmp _ => true
  | .pmov _ => true | .pmovN _ => true | .pmovGet _ => true | .pmovSet _ => true
  | .mfsr o => sysIdx o.idx.toNat | .mtsr o => sysIdx o.idx.toNat
  | .fadd _ => true | .fmul _ => true | .ffma _ => true
  | .fcvt o => o.dst.toNat ≤ 10 && o.src.toNat ≤ 10
  | .ld o => sizeOk o.size.toNat o.rd.toNat
  | .ldAcq o => sizeOk o.size.toNat o.rd.toNat && o.scope.toNat ≤ 5
  | .st o => sizeOk o.size.toNat o.rd.toNat
  | .stRel o => sizeOk o.size.toNat o.rd.toNat && o.scope.toNat ≤ 5
  | .vldDevice _ => true | .vldScratchpad _ => true | .vstDevice _ => true
  | .vstScratchpad _ => true | .vldsDevice _ => true | .vldsScratchpad _ => true
  | .vgatherDevice _ => true | .vgatherScratchpad _ => true | .vscatterDevice _ => true
  | .vscatterScratchpad _ => true
  | .vmvx _ => true | .vmxv _ => true | .vbx o => o.rs2 == 0
  | .mldDevice o => o.m != 0 | .mldScratchpad o => o.m != 0
  | .mstDevice _ => true | .mstScratchpad _ => true
  | .cfl o => o.ok | .cinv o => o.ok | .cpf o => o.ok | .cwb o => o.ok
  | .atom o => o.ok | .atomF o => o.ok
  | .cas o => o.ok && o.op == 0 && o.rd.toNat % 2 == 0
  | .fence o => o.scope.toNat ≤ 5 && o.kind.toNat ≤ 2
  | .waita _ => true | .tlbshRange _ => true | .tlbshPen _ => true | .tlbshPenG _ => true
  | .tlook _ => true | .tset _ => true | .tread _ => true | .tclr _ => true
  | .rdef _ => true | .radv _ => true | .padv _ => true | .rcnt _ => true | .mcwin _ => true
  | .xfer o => o.ok | .xferQ1 o => o.ok
  | .tmov o => o.port.toNat ≤ 6 && o.ord.toNat ≤ 2
  | .conv o => o.ok | .qfp8 o => o.ok | .qmx4 o => o.ok | .cmpr o => o.ok | .expd o => o.ok
  | .csum o => o.ok
  | .kvres o => o.ok | .kvapp o => o.ok | .kvfork o => o.ok
  | .kvfree o => o.ok && o.rs2 == 0
  | .kvcommit o => o.ok | .kvtrunc o => o.ok | .kvq o => o.ok | .kvclass o => o.ok
  | .kvatt o => o.ok | .kvdemote o => o.ok | .kvpromote o => o.ok | .kvexport o => o.ok
  | .kvimport o => o.ok | .smpost o => o.ok | .hctld o => o.ok | .qpush o => o.ok
  | .erd o => engIdx o.idx.toNat | .ewr o => engIdx o.idx.toNat
  | .xwait _ => true | .xpoll _ => true | .tget _ => true | .publish _ => true
  | .barInitReg _ => true | .barArrReg _ => true | .barWaitReg _ => true | .barSyncReg _ => true
  | .barInitImm _ => true | .barArrImm _ => true | .barWaitImm _ => true | .barSyncImm _ => true
  | .pop o => o.okPop | .popTry o => o.okPop | .jraise _ => true | .texit _ => true
  | .push o => o.bank == 0
  | .mac _ => true
  | .drain o => o.ring.toNat != 15
  | .drainDiscard _ => true
  | .scl _ => true | .sclTile _ => true
  | .sfuExp2 o => o.ok | .sfuLog2 o => o.ok | .sfuRcp o => o.ok | .sfuRsqrt o => o.ok
  | .sfuSqrt o => o.ok | .sfuSin o => o.ok | .sfuCos o => o.ok | .sfuTanh o => o.ok
  | .sfuSigm o => o.ok | .sfuSilu o => o.ok | .sfuGelu o => o.ok | .sfuErf o => o.ok
  | .sfuSexp o => o.ok
  | .vadd o => o.okInt 1 | .vsub o => o.okInt 1 | .vmul o => o.okInt 1 | .vmulh o => o.okInt 0
  | .vmin o => o.okInt 0 | .vmax o => o.okInt 0 | .vabs o => o.okInt1 1
  | .vand o => o.okInt 0 | .vor o => o.okInt 0 | .vxor o => o.okInt 0 | .vandn o => o.okInt 0
  | .vshl o => o.okInt 1 | .vshr o => o.okInt 0 | .vsra o => o.okInt 0
  | .vclz o => o.okInt1 0 | .vpopc o => o.okInt1 0
  | .vnarrow o => o.okNarrow | .vwiden o => o.okWiden | .vcmp o => o.okCmp
  | .vsel o => o.okSel | .vmov o => o.okMov | .vimm o => o.okImm
  | .vfadd o => o.okF2 | .vfsub o => o.okF2 | .vfmul o => o.okF2
  | .vfma o => o.okF3 | .vfms o => o.okF3 | .vfnma o => o.okF3
  | .vfmin o => o.okFmm | .vfmax o => o.okFmm
  | .vfabs o => o.okF1 0 | .vfneg o => o.okF1 0 | .vfcmp o => o.okFcmp
  | .vfclass o => o.okF1 0 | .vround o => o.okF1 4 | .vcvt o => o.okCvt
  | .vscale o => o.okScale | .vbcast o => o.okBcast | .vperm o => o.okPerm
  | .vslide o => o.okSlide | .vzip o => o.okZip | .vunzip o => o.okZip
  | .vcompress o => o.okPack | .vexpand o => o.okPack | .viota o => o.okIota
  | .vredsum o => o.okSum | .vredmax o => o.okRed | .vredmin o => o.okRed
  | .vargmax o => o.okRed | .vargmin o => o.okRed | .vredand o => o.okRedBit
  | .vredor o => o.okRedBit
  | .mand o => o.okMask2 | .mor o => o.okMask2 | .mxor o => o.okMask2 | .mnot o => o.okMask1
  | .mrange o => o.okRange
  | .vsmax o => o.okSmax | .vsmaxInit o => o.okSmaxInit | .vsmaxE o => o.okSmaxB 2
  | .vsmaxD o => o.okSmaxB 3 | .vmass o => o.okMass | .vsfin o => o.okSfin
  | .vseedexp o => o.okSeedexp | .vseedscore o => o.okSeed | .vseedfit o => o.okSeed
  | .vgen o => o.okGen
  | .lld o => o.okD | .lbias o => o.okDA | .lcnt o => o.okD
  | .lpen o => o.i < 256 | .ltemp o => o.okDAB
  | .lmask o => o.okDA | .lnoise o => o.okDA
  | .lamax o => o.okDA && o.d % 2 == 0
  | .lmerge o => o.okDA && o.d % 2 == 0 && o.a % 2 == 0
  | .ladd o => o.okDAB | .lsub o => o.okDAB | .lmul o => o.okDAB | .lfma o => o.okDAB
  | .lmin o => o.okDAB | .lmax o => o.okDAB
  | .lsel o => o.i < 16 | .lcmp o => o.i < 8 | .lcap o => o.okDAB
  | .limm o => o.a ≤ 2 && o.b == 0
  | .lmov o => o.b == 0 && o.i < 64 && (o.i % 4 == 3 || o.i < 4)
  | .lacc o => o.okD | .lput o => o.d == 0 && o.okDA
  | .lbump o => o.ok0 | .lend o => o.ok0
  | .denialSoleIssue c => ctxOk c
  | .faultRecordHeldWrite p => p < 64
  | .driverResume p t _ => p < 64 && 0 < t
  | .driverTerminate p t => p < 64 && 0 < t
  | .launch q => q < 128 | .attachedLaunch q => q < 128 | .graphLaunch q => q < 128
  | .graphNodeStep g => g < 64
  | .taskPlacement c => c < 512
  | .preemption t => 0 < t
  | .taskRestart c => ctxOk c
  | .jobSignalWrite j => 0 < j
  | .commandStart c i => ctxOk c && i < 65536
  | .commandRetire c i => ctxOk c && i < 65536
  | .engineFillRetire c i => ctxOk c && i < 65536
  | .hctldWordArrival c i => ctxOk c && i < 65536
  | .transformOpRetire c i => ctxOk c && i < 65536
  | .publishFlip c i => ctxOk c && i < 65536
  | .drainLands c => c < 512
  | .multicastArrival c => c < 32
  | .scaleLoadComplete c => ctxOk c
  | .tlbshComplete c => ctxOk c | .cacheOpComplete c => ctxOk c
  | .waitaWake c => ctxOk c
  | .waitaMonitorLost c _ => c < 32
  | .waitaTimeout c => ctxOk c | .twaitWake c => ctxOk c
  | .barrierOpAtHome c => c < 512
  | .workQueueCycle q _ => q < 256
  | .queueSpillRefill q => q < 1024
  | .notify p s _ => p < 64 && s < 128
  | .userQueueMap q s => 0 < q && s < 128
  | .userQueueUnmap s => s < 128
  | .kvattSlotFill c i => ctxOk c && i < 65536
  | .heatRefresh p => p < 8 | .kvDecayPeriod p => p < 8 | .deferredBlockRelease p => p < 8
  | .droverPageMove d => d < 4
  | .kvNotNearService t => 0 < t
  | .recall p _ _ => p < 8 | .returnMsg p _ => p < 8 | .recallDeadline p => p < 8
  | .groomRequest c => c < 32
  | .budgetPeriodBoundary s => s < 64
  | .rfmIssue _ _ _ => true | .rfmHoldEnd _ _ => true | .periodicRefresh _ _ _ => true
  | .flitReceived _ _ => true | .replayRequest _ _ => true | .linkDown _ => true
  | .inboundRequest _ => true
  | .inboundRouteTimeout c => ctxOk c
  | .remoteResponse c _ => ctxOk c
  | .uncorrectableError _ _ => true
  | .coldReset _ => true
  | .updateBoundary _ _ => true | .alivePost _ _ => true | .watchdogExpiry _ => true
  | .regRead m => m ≤ 64 | .regWrite m => m ≤ 64 | .imageLoad m => m ≤ 64
  | .imageVerify m => m ≤ 64 | .update m => m ≤ 64 | .tfrange m => m ≤ 64
  | .tframeSet m => m ≤ 64 | .tframeClear m => m ≤ 64 | .quote m => m ≤ 64
  | .queueCreate m => m ≤ 64 | .queueDestroy m => m ≤ 64 | .queueQuota m => m ≤ 64
  | .spillSet m => m ≤ 64
  | .registerWrite p _ _ => p ≤ 64
  | .lendMessage p _ => p < 8

end Instr

end Sys2Proof
end

