-- ==== Sys2Proof/Decode.lean ====
section
/-! DEFINITION. Decode and encode: syllables, matrix beats, horizontal control words and logit words.

Decode is total on any bits. A syllable is checked in the order of R30 and rejected by the name of the
fault that the first failing check raises. A horizontal control word is checked in full (R38). The
encoder is written from the same tables and gives the word of a well-formed instruction. -/

namespace Sys2Proof

/-- The issue slots of a bundle that hold syllables or beats (R23). -/
inductive Slot where
  | c | s | e | va | vb | vc | vd | sfu | sc | h16 | x
  deriving DecidableEq, Repr

/-- The decode faults of a bundle (R30, R32, R40). -/
inductive DecErr where
  /-- `ILLEGAL_SYLLABLE`. -/
  | illegalSyllable
  /-- `ILLEGAL_SLOT`. -/
  | illegalSlot
  /-- `RESERVED_FIELD`. -/
  | reservedField
  deriving DecidableEq, Repr

/-- What a word of the instruction set is (R22, R34, R54). -/
inductive WordKind where
  | syllable | beat | scale | sfu | vector | logit
  deriving DecidableEq, Repr

namespace Dec

/-- The fields of a syllable (R24, Table 2). -/
def g (w : Nat) : BitVec 4 := BitVec.ofNat 4 w
def rd (w : Nat) : BitVec 6 := BitVec.ofNat 6 (w / 2 ^ 20)
def rs1 (w : Nat) : BitVec 6 := BitVec.ofNat 6 (w / 2 ^ 14)
def rs2 (w : Nat) : BitVec 6 := BitVec.ofNat 6 (w / 2 ^ 8)
def fn (w : Nat) : Nat := bits w 7 4
def imm16 (w : Nat) : BitVec 16 := BitVec.ofNat 16 (w / 2 ^ 4)
def gop (w : Nat) : GOp := ⟨g w⟩
def jr (w : Nat) : JrOp := ⟨g w, rs1 w⟩
def r2 (w : Nat) : Rs2Op := ⟨g w, rs1 w, rs2 w⟩
def rr (w : Nat) : RROp := ⟨g w, rd w, rs1 w, rs2 w⟩
def run (w : Nat) : RUnOp := ⟨g w, rd w, rs1 w⟩
def ri (w : Nat) : RIOp := ⟨g w, rd w, rs1 w, BitVec.ofNat 10 (w / 2 ^ 4)⟩
def ru (w : Nat) : RUOp := ⟨g w, rd w, imm16 w⟩
def br (w : Nat) : BrOp := ⟨g w, BitVec.ofNat 22 (w / 2 ^ 4)⟩
def brv (w : Nat) : BrvOp := ⟨g w, BitVec.ofNat 4 (w / 2 ^ 20), imm16 w⟩
def sr (w : Nat) : SrOp := ⟨g w, rd w, BitVec.ofNat 12 (w / 2 ^ 4)⟩
def cmp (w : Nat) : CmpOp :=
  ⟨g w, BitVec.ofNat 3 (w / 2 ^ 23), BitVec.ofNat 3 (w / 2 ^ 20), BitVec.ofNat 3 (w / 2 ^ 17),
    BitVec.ofNat 6 (w / 2 ^ 10), BitVec.ofNat 6 (w / 2 ^ 4)⟩
def tbit (w : Nat) : TbitOp :=
  ⟨g w, BitVec.ofNat 3 (w / 2 ^ 23), BitVec.ofNat 3 (w / 2 ^ 20), BitVec.ofNat 1 (w / 2 ^ 17),
    BitVec.ofNat 1 (w / 2 ^ 16), BitVec.ofNat 6 (w / 2 ^ 10), BitVec.ofNat 6 (w / 2 ^ 4)⟩
def rm (w : Nat) : RMOp :=
  ⟨g w, rd w, rs1 w, BitVec.ofNat 3 (w / 2 ^ 11), BitVec.ofNat 7 (w / 2 ^ 4)⟩
def rms (w : Nat) : RMSOp :=
  ⟨g w, rd w, rs1 w, BitVec.ofNat 3 (w / 2 ^ 11), BitVec.ofNat 3 (w / 2 ^ 8)⟩
def vmove (w : Nat) : VMoveOp := ⟨g w, BitVec.ofNat 1 (w / 2 ^ 26), rd w, rs1 w, rs2 w⟩
def mmem (w : Nat) : MMemOp := ⟨g w, BitVec.ofNat 4 (w / 2 ^ 20), rs1 w⟩
def cache (w : Nat) : CacheOp := ⟨g w, BitVec.ofNat 2 (w / 2 ^ 20), rs1 w, rs2 w⟩
def atomic (w : Nat) : AtOp :=
  ⟨g w, rd w, rs1 w, BitVec.ofNat 4 (w / 2 ^ 10), BitVec.ofNat 1 (w / 2 ^ 9),
    BitVec.ofNat 3 (w / 2 ^ 6), BitVec.ofNat 2 (w / 2 ^ 4)⟩
def eng (w : Nat) : EngOp :=
  ⟨g w, rs1 w, rs2 w, BitVec.ofNat 2 (w / 2 ^ 6), BitVec.ofNat 2 (w / 2 ^ 4)⟩
def trig (w : Nat) : TrigOp := ⟨g w, rs1 w, rs2 w, BitVec.ofNat 2 (w / 2 ^ 4)⟩
def ring (w : Nat) : BitVec 4 := BitVec.ofNat 4 (w / 2 ^ 20)
def radv (w : Nat) : RadvOp := ⟨g w, ring w, rs1 w⟩

/-- `bits(w, hi, lo)` is not zero. -/
def nz (w hi lo : Nat) : Bool := bits w hi lo != 0

/-- Step 4 of R30: the instruction unless a reserved or unused field is nonzero. -/
def res (bad : Bool) (i : Instr) : Except DecErr Instr :=
  if bad then .error .reservedField else .ok i

/-- Step 3 of R30: an unassigned sub-code. -/
def ill : Except DecErr Instr := .error .illegalSyllable

/-- Major 0x00 (Table 16) but for `nop`: fn 0 with another field nonzero has a reserved field set. -/
def control (w : Nat) : Except DecErr Instr :=
  match fn w with
  | 0 => .error .reservedField
  | 1 => res (nz w 25 8) (.region (gop w))
  | 2 => res (nz w 25 8) (.commit (gop w))
  | 3 => res (nz w 25 20 || nz w 13 8) (.ret (jr w))
  | 4 => res (nz w 25 8) (.lpop (gop w))
  | 5 => res (nz w 25 8) (.yield (gop w))
  | 6 => res (nz w 25 20 || nz w 13 8) (.jr (jr w))
  | 7 => res (nz w 25 20) (.twait (r2 w))
  | _ => ill

/-- Major 0x06 (R28). -/
def brvs (w : Nat) : Except DecErr Instr :=
  match bits w 25 24 with
  | 0 => .ok (.brv (brv w))
  | 1 => .ok (.brvAny (brv w))
  | 2 => .ok (.brvAll (brv w))
  | _ => ill

/-- Major 0x07. -/
def traps (w : Nat) : Except DecErr Instr :=
  match bits w 25 20 with
  | 0 => .ok (.trap ⟨g w, imm16 w⟩)
  | 1 => .ok (.sys ⟨g w, imm16 w⟩)
  | _ => ill

/-- Major 0x08 (Table 17). -/
def alu (w : Nat) : Except DecErr Instr :=
  match fn w with
  | 0 => .ok (.add (rr w)) | 1 => .ok (.sub (rr w)) | 2 => .ok (.and_ (rr w))
  | 3 => .ok (.or_ (rr w)) | 4 => .ok (.xor (rr w)) | 5 => .ok (.andn (rr w))
  | 6 => .ok (.shl (rr w)) | 7 => .ok (.shr (rr w)) | 8 => .ok (.sra (rr w))
  | 9 => .ok (.rot (rr w)) | 10 => .ok (.min (rr w)) | 11 => .ok (.max (rr w))
  | 12 => .ok (.minu (rr w)) | 13 => .ok (.maxu (rr w))
  | _ => ill

/-- Major 0x09 (Table 17). -/
def muldiv (w : Nat) : Except DecErr Instr :=
  match fn w with
  | 0 => .ok (.mul (rr w)) | 1 => .ok (.mulh (rr w)) | 2 => .ok (.mulhu (rr w))
  | 3 => .ok (.div (rr w)) | 4 => .ok (.divu (rr w)) | 5 => .ok (.rem (rr w))
  | 6 => .ok (.remu (rr w))
  | _ => ill

/-- Major 0x0B (Table 17). -/
def unary (w : Nat) : Except DecErr Instr :=
  match fn w with
  | 0 => res (nz w 13 8) (.clz (run w)) | 1 => res (nz w 13 8) (.ctz (run w))
  | 2 => res (nz w 13 8) (.popc (run w)) | 3 => res (nz w 13 8) (.extB (run w))
  | 4 => res (nz w 13 8) (.extH (run w)) | 5 => res (nz w 13 8) (.extW (run w))
  | 6 => res (nz w 13 8) (.extBu (run w)) | 7 => res (nz w 13 8) (.extHu (run w))
  | 8 => res (nz w 13 8) (.extWu (run w)) | 9 => .ok (.bfx (rr w)) | 10 => .ok (.bfi (rr w))
  | _ => ill

/-- Major 0x18 (Table 18a): i selects the immediate form. -/
def compare (w : Nat) : Except DecErr Instr :=
  if bit w 16 then .ok (.cmpi (cmp w)) else .ok (.cmp (cmp w))

/-- Major 0x19. -/
def tbits (w : Nat) : Except DecErr Instr :=
  if 2 ≤ bits w 19 17 then ill else .ok (.tbit (tbit w))

/-- Major 0x1B (R133). -/
def pmoves (w : Nat) : Except DecErr Instr :=
  match fn w with
  | 0 => res (nz w 25 24 || nz w 19 18 || nz w 13 8)
      (.pmov ⟨g w, BitVec.ofNat 4 (w / 2 ^ 20), BitVec.ofNat 4 (w / 2 ^ 14)⟩)
  | 1 => res (nz w 25 24 || nz w 19 18 || nz w 13 8)
      (.pmovN ⟨g w, BitVec.ofNat 4 (w / 2 ^ 20), BitVec.ofNat 4 (w / 2 ^ 14)⟩)
  | 2 => res (nz w 19 8) (.pmovGet ⟨g w, rd w⟩)
  | 3 => res (nz w 25 20 || nz w 13 8) (.pmovSet ⟨g w, rs1 w⟩)
  | _ => ill

/-- Majors 0x1C and 0x1D (R136): an index absent from Table 7 is unassigned. -/
def sysreg (write : Bool) (w : Nat) : Except DecErr Instr :=
  if !sysIdx (bits w 15 4) then ill
  else res (nz w 19 16) (if write then .mtsr (sr w) else .mfsr (sr w))

/-- Majors 0x35 and 0x36 (R267, R270). -/
def engreg (write : Bool) (w : Nat) : Except DecErr Instr :=
  if !engIdx (bits w 15 4) then ill
  else res (nz w 19 16) (if write then .ewr (sr w) else .erd (sr w))

/-- Major 0x1E. -/
def sfloat (w : Nat) : Except DecErr Instr :=
  match fn w with
  | 0 => .ok (.fadd (rr w)) | 1 => .ok (.fmul (rr w)) | 2 => .ok (.ffma (rr w))
  | _ => ill

/-- Major 0x1F (R135). -/
def fcvts (w : Nat) : Except DecErr Instr :=
  if 11 ≤ bits w 11 8 || 11 ≤ bits w 7 4 then ill
  else res (nz w 13 12)
    (.fcvt ⟨g w, rd w, rs1 w, BitVec.ofNat 4 (w / 2 ^ 8), BitVec.ofNat 4 (w / 2 ^ 4)⟩)

/-- A q access names an even register (R27). -/
def oddQ (w : Nat) : Bool := bits w 13 11 == 4 && bit w 20

/-- Majors 0x20 to 0x23 (R27). -/
def ldst (m w : Nat) : Except DecErr Instr :=
  if 5 ≤ bits w 13 11 then ill
  else match m with
  | 0x20 => res (oddQ w) (.ld (rm w))
  | 0x21 => res (oddQ w || nz w 7 4 || 6 ≤ bits w 10 8) (.ldAcq (rms w))
  | 0x22 => res (oddQ w) (.st (rm w))
  | _ => res (oddQ w || nz w 7 4 || 6 ≤ bits w 10 8) (.stRel (rms w))

/-- Majors 0x24 (device memory) and 0x25 (scratchpad) (Table 18, R162). -/
def vmem (dev : Bool) (w : Nat) : Except DecErr Instr :=
  match fn w with
  | 0 => .ok (if dev then .vldDevice (rr w) else .vldScratchpad (rr w))
  | 1 => .ok (if dev then .vstDevice (rr w) else .vstScratchpad (rr w))
  | 2 => .ok (if dev then .vldsDevice (rr w) else .vldsScratchpad (rr w))
  | 3 => .ok (if dev then .vgatherDevice (rr w) else .vgatherScratchpad (rr w))
  | 4 => .ok (if dev then .vscatterDevice (rr w) else .vscatterScratchpad (rr w))
  | 5 => .ok (.vmvx (vmove w))
  | 6 => .ok (.vmxv (vmove w))
  | 7 => res (nz w 13 8) (.vbx (vmove w))
  | 8 => res (nz w 25 24 || !nz w 23 20 || nz w 13 8)
      (if dev then .mldDevice (mmem w) else .mldScratchpad (mmem w))
  | 9 => res (nz w 25 24 || nz w 13 8)
      (if dev then .mstDevice (mmem w) else .mstScratchpad (mmem w))
  | _ => ill

/-- Major 0x26 (R264). -/
def caches (w : Nat) : Except DecErr Instr :=
  if bits w 21 20 == 3 then ill
  else match fn w with
  | 0 => res (nz w 25 22) (.cfl (cache w))
  | 1 => res (nz w 25 22) (.cinv (cache w))
  | 2 => res (nz w 25 22) (.cpf (cache w))
  | 3 => res (nz w 25 22) (.cwb (cache w))
  | _ => ill

/-- Majors 0x28 to 0x2A (R49). -/
def atomics (m w : Nat) : Except DecErr Instr :=
  if 9 ≤ bits w 13 10 then ill
  else match m with
  | 0x28 => res (6 ≤ bits w 8 6) (.atom (atomic w))
  | 0x29 => res (6 ≤ bits w 8 6) (.atomF (atomic w))
  | _ => res (6 ≤ bits w 8 6 || nz w 13 10 || bit w 20) (.cas (atomic w))

/-- Major 0x2B (R50, R229). -/
def fences (w : Nat) : Except DecErr Instr :=
  match fn w with
  | 0 => res (nz w 20 8 || 6 ≤ bits w 25 23 || bits w 22 21 == 3)
      (.fence ⟨g w, BitVec.ofNat 3 (w / 2 ^ 23), BitVec.ofNat 2 (w / 2 ^ 21)⟩)
  | 1 => .ok (.waita (rr w))
  | 2 =>
    match bits w 25 20 with
    | 0 => .ok (.tlbshRange (r2 w))
    | 1 => res (nz w 19 8) (.tlbshPen (gop w))
    | 2 => res (nz w 19 8) (.tlbshPenG (gop w))
    | _ => ill
  | _ => ill

/-- Major 0x2C (Table 18). -/
def tiles (w : Nat) : Except DecErr Instr :=
  match fn w with
  | 0 => res (nz w 13 8) (.tlook (run w))
  | 1 => res (nz w 25 20) (.tset (r2 w))
  | 2 => .ok (.tread (rr w))
  | 3 => res (nz w 25 20 || nz w 13 8) (.tclr (jr w))
  | _ => ill

/-- Major 0x2D (Table 18): handles have bits [5:4] zero. -/
def rings (w : Nat) : Except DecErr Instr :=
  match fn w with
  | 0 => res (nz w 25 24) (.rdef ⟨g w, ring w, rs1 w, rs2 w⟩)
  | 1 => res (nz w 25 24 || nz w 13 8) (.radv (radv w))
  | 2 => res (nz w 25 24 || nz w 13 8) (.padv (radv w))
  | 3 => res (nz w 19 12) (.rcnt ⟨g w, rd w, BitVec.ofNat 4 (w / 2 ^ 8)⟩)
  | 4 => res (nz w 25 20) (.mcwin (r2 w))
  | _ => ill

/-- ord 3 raises `RESERVED_FIELD` (Table 21). -/
def badOrd (w : Nat) : Bool := bits w 5 4 == 3

/-- Majors 0x30, 0x32, 0x33 and 0x34 (Table 19). -/
def engine (m w : Nat) : Except DecErr Instr :=
  match m, bits w 25 20 with
  | 0x30, 0 => res (badOrd w) (.xfer (eng w))
  | 0x30, 1 => res (badOrd w) (.xferQ1 (eng w))
  | 0x32, 0 => res (badOrd w) (.kvres (eng w))
  | 0x32, 1 => res (badOrd w) (.kvapp (eng w))
  | 0x32, 2 => res (badOrd w) (.kvfork (eng w))
  | 0x32, 3 => res (badOrd w || nz w 13 8) (.kvfree (eng w))
  | 0x32, 4 => res (badOrd w) (.kvcommit (eng w))
  | 0x32, 5 => res (badOrd w) (.kvtrunc (eng w))
  | 0x32, 6 => res (badOrd w) (.kvq (eng w))
  | 0x32, 7 => res (badOrd w) (.kvclass (eng w))
  | 0x32, 8 => res (badOrd w) (.kvatt (eng w))
  | 0x33, 0 => res (badOrd w) (.kvdemote (eng w))
  | 0x33, 1 => res (badOrd w) (.kvpromote (eng w))
  | 0x33, 2 => res (badOrd w) (.kvexport (eng w))
  | 0x33, 3 => res (badOrd w) (.kvimport (eng w))
  | 0x34, 0 => res (badOrd w) (.smpost (eng w))
  | 0x34, 1 => res (badOrd w) (.hctld (eng w))
  | 0x34, 2 => res (badOrd w) (.qpush (eng w))
  | _, _ => ill

/-- The port of a `tmov`: bits [7:6] stand in the pm position (R42). -/
def port (w : Nat) : Nat := bits w 7 6 * 64 + bits w 25 20

/-- Major 0x31 (Table 5 of the engine chapter). -/
def tmovs (w : Nat) : Except DecErr Instr :=
  match port w with
  | 0x40 => res (badOrd w) (.conv (trig w))
  | 0x41 => res (badOrd w) (.qfp8 (trig w))
  | 0x42 => res (badOrd w) (.qmx4 (trig w))
  | 0x43 => res (badOrd w) (.cmpr (trig w))
  | 0x44 => res (badOrd w) (.expd (trig w))
  | 0x45 => res (badOrd w) (.csum (trig w))
  | p => if 7 ≤ p then ill
      else res (badOrd w || nz w 13 8)
        (.tmov ⟨g w, BitVec.ofNat 3 (w / 2 ^ 20), rs1 w, BitVec.ofNat 2 (w / 2 ^ 4)⟩)

/-- Major 0x37. -/
def status (w : Nat) : Except DecErr Instr :=
  match fn w with
  | 0 => res (nz w 13 8) (.xwait (run w))
  | 1 => res (nz w 13 8) (.xpoll (run w))
  | 2 => res (nz w 13 8) (.tget (run w))
  | 3 => res (nz w 13 8) (.publish ⟨g w, rd w, rs1 w⟩)
  | _ => ill

/-- Major 0x38 (Table 20). -/
def barReg (w : Nat) : Except DecErr Instr :=
  match fn w with
  | 0 => res (nz w 25 20) (.barInitReg (r2 w))
  | 1 => res (nz w 25 20 || nz w 13 8) (.barArrReg (jr w))
  | 2 => res (nz w 25 20 || nz w 13 8) (.barWaitReg (jr w))
  | 3 => res (nz w 25 20 || nz w 13 8) (.barSyncReg (jr w))
  | _ => ill

/-- Major 0x39 (Table 20). -/
def barImm (w : Nat) : Except DecErr Instr :=
  match bits w 25 20 with
  | 0 => .ok (.barInitImm ⟨g w, rs1 w, BitVec.ofNat 10 (w / 2 ^ 4)⟩)
  | 1 => res (nz w 19 14) (.barArrImm ⟨g w, BitVec.ofNat 10 (w / 2 ^ 4)⟩)
  | 2 => res (nz w 19 14) (.barWaitImm ⟨g w, BitVec.ofNat 10 (w / 2 ^ 4)⟩)
  | 3 => res (nz w 19 14) (.barSyncImm ⟨g w, BitVec.ofNat 10 (w / 2 ^ 4)⟩)
  | _ => ill

/-- An odd rd, or an rs2 equal to rd or rd + 1 other than 0 (R391). -/
def badPop (w : Nat) : Bool :=
  bit w 20 || (nz w 13 8 && (bits w 13 8 == bits w 25 20 || bits w 13 8 == bits w 25 20 + 1))

/-- Major 0x3A (Table 20). -/
def jobs (w : Nat) : Except DecErr Instr :=
  match fn w with
  | 0 => res (badPop w) (.pop (rr w))
  | 1 => res (badPop w) (.popTry (rr w))
  | 2 => res (nz w 25 20 || nz w 13 8) (.jraise (jr w))
  | 3 => res (nz w 25 8) (.texit (gop w))
  | _ => ill

/-- Steps 3 and 4 of R30 for an assigned major (Table 13). -/
def group (m w : Nat) : Except DecErr Instr :=
  match m with
  | 0x00 => control w
  | 0x01 => .ok (.br (br w))
  | 0x02 => .ok (.call (br w))
  | 0x03 => res (bits w 25 23 == 0 || bits w 25 23 == 7)
      (.brX ⟨g w, BitVec.ofNat 3 (w / 2 ^ 23), BitVec.ofNat 19 (w / 2 ^ 4)⟩)
  | 0x04 => res (!nz w 19 4) (.loop ⟨g w, rd w, imm16 w⟩)
  | 0x05 => res (!nz w 13 4) (.loopi ⟨g w, BitVec.ofNat 12 (w / 2 ^ 14), BitVec.ofNat 10 (w / 2 ^ 4)⟩)
  | 0x06 => brvs w
  | 0x07 => traps w
  | 0x08 => alu w
  | 0x09 => muldiv w
  | 0x0A => .ok (.sel ⟨g w, BitVec.ofNat 4 (w / 2 ^ 4), rd w, rs1 w, rs2 w⟩)
  | 0x0B => unary w
  | 0x0C => .ok (.addi (ri w))
  | 0x0D => .ok (.andi (ri w))
  | 0x0E => .ok (.ori (ri w))
  | 0x0F => .ok (.xori (ri w))
  | 0x10 => res (nz w 13 10) (.shli (ri w))
  | 0x11 => res (nz w 13 10) (.shri (ri w))
  | 0x12 => res (nz w 13 10) (.srai (ri w))
  | 0x13 => .ok (.lui (ru w))
  | 0x14 => .ok (.addpc (ru w))
  | 0x18 => compare w
  | 0x19 => tbits w
  | 0x1A => res (bit w 16) (.fcmp (cmp w))
  | 0x1B => pmoves w
  | 0x1C => sysreg false w
  | 0x1D => sysreg true w
  | 0x1E => sfloat w
  | 0x1F => fcvts w
  | 0x20 => ldst 0x20 w
  | 0x21 => ldst 0x21 w
  | 0x22 => ldst 0x22 w
  | 0x23 => ldst 0x23 w
  | 0x24 => vmem true w
  | 0x25 => vmem false w
  | 0x26 => caches w
  | 0x28 => atomics 0x28 w
  | 0x29 => atomics 0x29 w
  | 0x2A => atomics 0x2A w
  | 0x2B => fences w
  | 0x2C => tiles w
  | 0x2D => rings w
  | 0x30 => engine 0x30 w
  | 0x31 => tmovs w
  | 0x32 => engine 0x32 w
  | 0x33 => engine 0x33 w
  | 0x34 => engine 0x34 w
  | 0x35 => engreg false w
  | 0x36 => engreg true w
  | 0x37 => status w
  | 0x38 => barReg w
  | 0x39 => barImm w
  | 0x3A => jobs w
  | _ => ill

/-- Majors that name an instruction group (R30 step 1, Table 13). -/
def assigned (m : Nat) : Bool :=
  m ≤ 0x14 || (0x18 ≤ m && m ≤ 0x26) || (0x28 ≤ m && m ≤ 0x2D) || (0x30 ≤ m && m ≤ 0x3A)

/-- Majors that a slot admits (Table 6). -/
def admits (k : Slot) (m : Nat) : Bool :=
  match k with
  | .c => m ≤ 0x07 || (0x38 ≤ m && m ≤ 0x3B)
  | .s => 0x08 ≤ m && m ≤ 0x1F
  | .e => 0x08 ≤ m && m ≤ 0x3B
  | _ => false

end Dec

/-- A syllable in slot `k` by the checks of R30 in their order. A syllable with bits [31:4] zero is
`nop` in every slot and leaves its slot free (R23, R29): nothing is decoded from it. -/
def decodeSyllable (k : Slot) (w : Nat) : Except DecErr (Option Instr) :=
  let m := bits w 31 26
  if !Dec.assigned m then .error .illegalSyllable
  else if bits w 31 4 == 0 then .ok none
  else if !Dec.admits k m then .error .illegalSlot
  else match Dec.group m w with
  | .ok i => .ok (some i)
  | .error f => .error f

/-- X16 (R40, Table 12): no beat, a beat, or `RESERVED_FIELD`. -/
def decodeBeat (w : Nat) : Except DecErr (Option Instr) :=
  let beat : BeatOp :=
    ⟨BitVec.ofNat 2 (w / 2 ^ 12), BitVec.ofNat 4 (w / 2 ^ 8), BitVec.ofNat 3 (w / 2), BitVec.ofNat 1 w⟩
  match bits w 15 14 with
  | 0 => if Dec.nz w 13 0 then .error .reservedField else .ok none
  | 1 =>
    if Dec.nz w 13 8 then .error .reservedField
    else .ok (some (.push { beat with ring := BitVec.ofNat 4 (w / 2 ^ 4) }))
  | 2 => if Dec.nz w 7 4 then .error .reservedField else .ok (some (.mac beat))
  | _ =>
    if Dec.nz w 7 4 then .error .reservedField
    else if bits w 11 8 == 15 then
      if bit w 0 then .error .reservedField else .ok (some (.drainDiscard ⟨beat.bank, beat.mft⟩))
    else .ok (some (.drain beat))

/-- The operation that op9 names (Table 14, R51); `vsmax` takes its form from mod3 (R345). -/
def vecOp (op : Nat) (o : VOp) : Option Instr :=
  match op with
  | 0x001 => some (.vadd o)
  | 0x002 => some (.vsub o)
  | 0x003 => some (.vmul o)
  | 0x004 => some (.vmulh o)
  | 0x005 => some (.vmin o)
  | 0x006 => some (.vmax o)
  | 0x007 => some (.vabs o)
  | 0x008 => some (.vand o)
  | 0x009 => some (.vor o)
  | 0x00A => some (.vxor o)
  | 0x00B => some (.vandn o)
  | 0x00C => some (.vshl o)
  | 0x00D => some (.vshr o)
  | 0x00E => some (.vsra o)
  | 0x00F => some (.vclz o)
  | 0x010 => some (.vpopc o)
  | 0x011 => some (.vnarrow o)
  | 0x012 => some (.vwiden o)
  | 0x013 => some (.vcmp o)
  | 0x014 => some (.vsel o)
  | 0x015 => some (.vmov o)
  | 0x016 => some (.vimm o)
  | 0x080 => some (.vfadd o)
  | 0x081 => some (.vfsub o)
  | 0x082 => some (.vfmul o)
  | 0x083 => some (.vfma o)
  | 0x084 => some (.vfms o)
  | 0x085 => some (.vfnma o)
  | 0x086 => some (.vfmin o)
  | 0x087 => some (.vfmax o)
  | 0x088 => some (.vfabs o)
  | 0x089 => some (.vfneg o)
  | 0x08A => some (.vfcmp o)
  | 0x08B => some (.vfclass o)
  | 0x08C => some (.vround o)
  | 0x08D => some (.vcvt o)
  | 0x08E => some (.vscale o)
  | 0x100 => some (.vbcast o)
  | 0x101 => some (.vperm o)
  | 0x102 => some (.vslide o)
  | 0x103 => some (.vzip o)
  | 0x104 => some (.vunzip o)
  | 0x105 => some (.vcompress o)
  | 0x106 => some (.vexpand o)
  | 0x107 => some (.viota o)
  | 0x140 => some (.vredsum o)
  | 0x141 => some (.vredmax o)
  | 0x142 => some (.vredmin o)
  | 0x143 => some (.vargmax o)
  | 0x144 => some (.vargmin o)
  | 0x145 => some (.vredand o)
  | 0x146 => some (.vredor o)
  | 0x180 => some (.mand o)
  | 0x181 => some (.mor o)
  | 0x182 => some (.mxor o)
  | 0x183 => some (.mnot o)
  | 0x184 => some (.mrange o)
  | 0x1A1 => some (.vmass o)
  | 0x1A2 => some (.vsfin o)
  | 0x1C0 => some (.vseedexp o)
  | 0x1C1 => some (.vseedscore o)
  | 0x1C2 => some (.vseedfit o)
  | 0x1C3 => some (.vgen o)
  | 0x1A0 =>
    match o.mod.toNat with
    | 0 => some (.vsmax o)
    | 1 => some (.vsmaxInit o)
    | 2 => some (.vsmaxE o)
    | 3 => some (.vsmaxD o)
    | _ => none
  | _ => none

/-- The function that func6 names (Table 15, R53). -/
def sfuOp (fn : Nat) (o : SfuOp) : Option Instr :=
  match fn with
  | 1 => some (.sfuExp2 o)
  | 2 => some (.sfuLog2 o)
  | 3 => some (.sfuRcp o)
  | 4 => some (.sfuRsqrt o)
  | 5 => some (.sfuSqrt o)
  | 6 => some (.sfuSin o)
  | 7 => some (.sfuCos o)
  | 8 => some (.sfuTanh o)
  | 9 => some (.sfuSigm o)
  | 10 => some (.sfuSilu o)
  | 11 => some (.sfuGelu o)
  | 12 => some (.sfuErf o)
  | 13 => some (.sfuSexp o)
  | _ => none

/-- The word that op6 names (Table 23, R54). -/
noncomputable def logitOp (op : Nat) (o : LOp) : Option Instr :=
  match op with
  | 0x01 => some (.lld o)
  | 0x02 => some (.lbias o)
  | 0x03 => some (.lcnt o)
  | 0x04 => some (.lpen o)
  | 0x05 => some (.ltemp o)
  | 0x06 => some (.lmask o)
  | 0x07 => some (.lnoise o)
  | 0x08 => some (.lamax o)
  | 0x09 => some (.lmerge o)
  | 0x0A => some (.ladd o)
  | 0x0B => some (.lsub o)
  | 0x0C => some (.lmul o)
  | 0x0D => some (.lfma o)
  | 0x0E => some (.lmin o)
  | 0x0F => some (.lmax o)
  | 0x10 => some (.lsel o)
  | 0x11 => some (.lcmp o)
  | 0x12 => some (.lcap o)
  | 0x13 => some (.limm o)
  | 0x14 => some (.lmov o)
  | 0x15 => some (.lacc o)
  | 0x16 => some (.lput o)
  | 0x17 => some (.lbump o)
  | 0x18 => some (.lend o)
  | _ => none

/-- Keeps an instruction only if its fields are within their limits (R38). -/
def keepWf (i : Option Instr) : Option Instr :=
  match i with
  | some i => if i.WellFormed then some i else none
  | none => none

/-- The fields of a vector slot (R35, Table 8). -/
def vecFields (w : Nat) : VOp :=
  ⟨BitVec.ofNat 4 (w / 2 ^ 35), BitVec.ofNat 6 (w / 2 ^ 29), BitVec.ofNat 7 (w / 2 ^ 22),
    BitVec.ofNat 7 (w / 2 ^ 15), BitVec.ofNat 7 (w / 2 ^ 8), BitVec.ofNat 4 (w / 2 ^ 4),
    BitVec.ofNat 1 (w / 2 ^ 3), BitVec.ofNat 3 w⟩

/-- A vector slot that is not empty, checked under R38 and R145. -/
def decodeVector (w : Nat) : Option Instr := keepWf (vecOp (bits w 47 39) (vecFields w))

/-- An SFU slot that is not empty (R36, R38). -/
def decodeSfu (w : Nat) : Option Instr :=
  if Dec.nz w 5 0 then none
  else keepWf (sfuOp (bits w 31 26)
    ⟨BitVec.ofNat 6 (w / 2 ^ 20), BitVec.ofNat 7 (w / 2 ^ 13), BitVec.ofNat 4 (w / 2 ^ 9),
      BitVec.ofNat 3 (w / 2 ^ 6)⟩)

/-- An SC slot that is not empty (R37, R38). -/
def decodeScale (w : Nat) : Option Instr :=
  let o : SclOp := ⟨BitVec.ofNat 4 (w / 2 ^ 16), BitVec.ofNat 4 (w / 2 ^ 12), BitVec.ofNat 10 (w / 2 ^ 2)⟩
  if Dec.nz w 1 0 then none
  else match bits w 23 20 with
  | 1 => some (.scl o)
  | 2 => some (.sclTile o)
  | _ => none

/-- The fields of a logit word (R54). -/
def logitFields (w : Nat) : LOp :=
  ⟨BitVec.ofNat 4 (w / 2 ^ 22), BitVec.ofNat 4 (w / 2 ^ 18), BitVec.ofNat 4 (w / 2 ^ 14),
    BitVec.ofNat 14 w⟩

/-- The field limits of the logit word with code `op` (R371, Table 4); codes 0x00 and 0x19 to 0x3F are
no words. -/
def logitOk (op : Nat) (o : LOp) : Bool :=
  match op with
  | 0x01 | 0x03 | 0x15 => o.okD
  | 0x02 | 0x06 | 0x07 => o.okDA
  | 0x04 => o.i < 256
  | 0x05 | 0x0A | 0x0B | 0x0C | 0x0D | 0x0E | 0x0F | 0x12 => o.okDAB
  | 0x08 => o.okDA && o.d % 2 == 0
  | 0x09 => o.okDA && o.d % 2 == 0 && o.a % 2 == 0
  | 0x10 => o.i < 16
  | 0x11 => o.i < 8
  | 0x13 => o.a ≤ 2 && o.b == 0
  | 0x14 => o.b == 0 && o.i < 64 && (o.i % 4 == 3 || o.i < 4)
  | 0x16 => o.d == 0 && o.okDA
  | 0x17 | 0x18 => o.ok0
  | _ => false

/-- A logit word; `none` where the groom raises `LOGIT_FAULT` at its fetch (R54, R364). -/
noncomputable def decodeLogit (w : Nat) : Option Instr :=
  if logitOk (bits w 31 26) (logitFields w) then logitOp (bits w 31 26) (logitFields w) else none

/-- A decoded horizontal control word; an empty slot holds nothing (R23, R34). -/
structure Hcw where
  va : Option Instr
  vb : Option Instr
  vc : Option Instr
  vd : Option Instr
  sfu : Option Instr
  sc : Option Instr
  deriving DecidableEq, Repr

/-- A slot of an HCW: empty, decoded, or rejected (R38). -/
def hcwSlot (dec : Nat → Option Instr) (w : Nat) : Option (Option Instr) :=
  if w == 0 then some none
  else match dec w with
  | some i => some (some i)
  | none => none

/-- The checks of R38 in full; `none` is `HCT_INVALID`. -/
def decodeHcw (w : HWord) : Option Hcw :=
  let n := w.toNat
  if Dec.nz n 255 248 then none
  else match hcwSlot decodeVector (bits n 47 0), hcwSlot decodeVector (bits n 95 48),
      hcwSlot decodeVector (bits n 143 96), hcwSlot decodeVector (bits n 191 144),
      hcwSlot decodeSfu (bits n 223 192), hcwSlot decodeScale (bits n 247 224) with
  | some va, some vb, some vc, some vd, some sfu, some sc => some ⟨va, vb, vc, vd, sfu, sc⟩
  | _, _, _, _, _, _ => none

/-- A decoded bundle (R22, R32): the three syllables but for `nop`, the HCT index where H16 is valid, the wide
guard, and the beat. -/
structure Bundle where
  c : Option Instr
  s : Option Instr
  e : Option Instr
  hct : Option Nat
  guard : BitVec 4
  beat : Option Instr
  deriving DecidableEq, Repr

/-- A bundle's 128 bits, checked in the order C, S, E, H16, X16 (R31, R32). -/
def decodeBundle (b : Nat) : Except (Slot × DecErr) Bundle :=
  let h := bits b 111 96
  match decodeSyllable .c (bits b 31 0) with
  | .error f => .error (.c, f)
  | .ok c =>
    match decodeSyllable .s (bits b 63 32) with
    | .error f => .error (.s, f)
    | .ok s1 =>
      match decodeSyllable .e (bits b 95 64) with
      | .error f => .error (.e, f)
      | .ok e =>
        if Dec.nz h 1 0 || (!bit h 15 && Dec.nz h 14 6) then .error (.h16, .reservedField)
        else match decodeBeat (bits b 127 112) with
        | .error f => .error (.x, f)
        | .ok beat =>
          .ok ⟨c, s1, e, if bit h 15 then some (bits h 14 6) else none, BitVec.ofNat 4 (h / 4), beat⟩

/-! ### The encoder -/

namespace Enc

/-- RR: major, rd, rs1, rs2, fn, guard (Table 2). -/
def rr (m : Nat) (d a b : BitVec 6) (f : Nat) (g : BitVec 4) : Nat :=
  m * 2 ^ 26 + d.toNat * 2 ^ 20 + a.toNat * 2 ^ 14 + b.toNat * 2 ^ 8 + f * 2 ^ 4 + g.toNat

def gop (m d f : Nat) (o : GOp) : Nat := m * 2 ^ 26 + d * 2 ^ 20 + f * 2 ^ 4 + o.g.toNat
def jr (m f : Nat) (o : JrOp) : Nat := rr m 0 o.rs1 0 f o.g
def r2 (m f : Nat) (o : Rs2Op) : Nat := rr m 0 o.rs1 o.rs2 f o.g
def r3 (m f : Nat) (o : RROp) : Nat := rr m o.rd o.rs1 o.rs2 f o.g
def run (m f : Nat) (o : RUnOp) : Nat := rr m o.rd o.rs1 0 f o.g
def ri (m : Nat) (o : RIOp) : Nat :=
  m * 2 ^ 26 + o.rd.toNat * 2 ^ 20 + o.rs1.toNat * 2 ^ 14 + o.imm.toNat * 2 ^ 4 + o.g.toNat
def ru (m : Nat) (o : RUOp) : Nat :=
  m * 2 ^ 26 + o.rd.toNat * 2 ^ 20 + o.imm.toNat * 2 ^ 4 + o.g.toNat
def br (m : Nat) (o : BrOp) : Nat := m * 2 ^ 26 + o.off.toNat * 2 ^ 4 + o.g.toNat
def brv (k : Nat) (o : BrvOp) : Nat :=
  0x06 * 2 ^ 26 + k * 2 ^ 24 + o.m.toNat * 2 ^ 20 + o.off.toNat * 2 ^ 4 + o.g.toNat
def trap (k : Nat) (o : TrapOp) : Nat :=
  0x07 * 2 ^ 26 + k * 2 ^ 20 + o.code.toNat * 2 ^ 4 + o.g.toNat
def cmp (m i : Nat) (o : CmpOp) : Nat :=
  m * 2 ^ 26 + o.pair.toNat * 2 ^ 23 + o.ct.toNat * 2 ^ 20 + o.cc.toNat * 2 ^ 17 + i * 2 ^ 16 +
    o.rs1.toNat * 2 ^ 10 + o.r.toNat * 2 ^ 4 + o.g.toNat
def tbit (o : TbitOp) : Nat :=
  0x19 * 2 ^ 26 + o.pair.toNat * 2 ^ 23 + o.ct.toNat * 2 ^ 20 + o.c.toNat * 2 ^ 17 +
    o.i.toNat * 2 ^ 16 + o.rs1.toNat * 2 ^ 10 + o.r.toNat * 2 ^ 4 + o.g.toNat
def pmov (f : Nat) (o : PmovOp) : Nat :=
  0x1B * 2 ^ 26 + o.pd.toNat * 2 ^ 20 + o.ps.toNat * 2 ^ 14 + f * 2 ^ 4 + o.g.toNat
def sr (m : Nat) (o : SrOp) : Nat :=
  m * 2 ^ 26 + o.rd.toNat * 2 ^ 20 + o.idx.toNat * 2 ^ 4 + o.g.toNat
def fcvt (o : FcvtOp) : Nat :=
  0x1F * 2 ^ 26 + o.rd.toNat * 2 ^ 20 + o.rs1.toNat * 2 ^ 14 + o.dst.toNat * 2 ^ 8 +
    o.src.toNat * 2 ^ 4 + o.g.toNat
def rm (m : Nat) (o : RMOp) : Nat :=
  m * 2 ^ 26 + o.rd.toNat * 2 ^ 20 + o.rs1.toNat * 2 ^ 14 + o.size.toNat * 2 ^ 11 +
    o.imm.toNat * 2 ^ 4 + o.g.toNat
def rms (m : Nat) (o : RMSOp) : Nat :=
  m * 2 ^ 26 + o.rd.toNat * 2 ^ 20 + o.rs1.toNat * 2 ^ 14 + o.size.toNat * 2 ^ 11 +
    o.scope.toNat * 2 ^ 8 + o.g.toNat
def vmove (f : Nat) (o : VMoveOp) : Nat := rr (0x24 + o.alt.toNat) o.rd o.rs1 o.rs2 f o.g
def mmem (m f : Nat) (o : MMemOp) : Nat :=
  m * 2 ^ 26 + o.m.toNat * 2 ^ 20 + o.rs1.toNat * 2 ^ 14 + f * 2 ^ 4 + o.g.toNat
def cache (f : Nat) (o : CacheOp) : Nat :=
  0x26 * 2 ^ 26 + o.level.toNat * 2 ^ 20 + o.rs1.toNat * 2 ^ 14 + o.rs2.toNat * 2 ^ 8 + f * 2 ^ 4 +
    o.g.toNat
def atomic (m : Nat) (o : AtOp) : Nat :=
  m * 2 ^ 26 + o.rd.toNat * 2 ^ 20 + o.rs1.toNat * 2 ^ 14 + o.op.toNat * 2 ^ 10 +
    o.size.toNat * 2 ^ 9 + o.scope.toNat * 2 ^ 6 + o.order.toNat * 2 ^ 4 + o.g.toNat
def fence (o : FenceOp) : Nat :=
  0x2B * 2 ^ 26 + o.scope.toNat * 2 ^ 23 + o.kind.toNat * 2 ^ 21 + o.g.toNat
def radv (f : Nat) (o : RadvOp) : Nat :=
  0x2D * 2 ^ 26 + o.h.toNat * 2 ^ 20 + o.rs1.toNat * 2 ^ 14 + f * 2 ^ 4 + o.g.toNat
def rdef (o : RdefOp) : Nat :=
  0x2D * 2 ^ 26 + o.h.toNat * 2 ^ 20 + o.rs1.toNat * 2 ^ 14 + o.rs2.toNat * 2 ^ 8 + o.g.toNat
def rcnt (o : RcntOp) : Nat :=
  0x2D * 2 ^ 26 + o.rd.toNat * 2 ^ 20 + o.h.toNat * 2 ^ 8 + 3 * 2 ^ 4 + o.g.toNat
def eng (m op : Nat) (o : EngOp) : Nat :=
  m * 2 ^ 26 + op * 2 ^ 20 + o.rs1.toNat * 2 ^ 14 + o.rs2.toNat * 2 ^ 8 + o.pm.toNat * 2 ^ 6 +
    o.ord.toNat * 2 ^ 4 + o.g.toNat
def tmov (o : TmovOp) : Nat :=
  0x31 * 2 ^ 26 + o.port.toNat * 2 ^ 20 + o.rs1.toNat * 2 ^ 14 + o.ord.toNat * 2 ^ 4 + o.g.toNat
def trig (p : Nat) (o : TrigOp) : Nat :=
  0x31 * 2 ^ 26 + p * 2 ^ 20 + o.rs1.toNat * 2 ^ 14 + o.rs2.toNat * 2 ^ 8 + 1 * 2 ^ 6 +
    o.ord.toNat * 2 ^ 4 + o.g.toNat
def barInit (o : BarInitOp) : Nat :=
  0x39 * 2 ^ 26 + o.rs1.toNat * 2 ^ 14 + o.b.toNat * 2 ^ 4 + o.g.toNat
def bar (k : Nat) (o : BarOp) : Nat :=
  0x39 * 2 ^ 26 + k * 2 ^ 20 + o.b.toNat * 2 ^ 4 + o.g.toNat

/-- A vector slot (Table 8). -/
def vec (op : Nat) (o : VOp) : Nat :=
  op * 2 ^ 39 + o.fmt.toNat * 2 ^ 35 + o.vd.toNat * 2 ^ 29 + o.sa.toNat * 2 ^ 22 +
    o.sb.toNat * 2 ^ 15 + o.sc.toNat * 2 ^ 8 + o.mask.toNat * 2 ^ 4 + o.mm.toNat * 2 ^ 3 + o.mod.toNat

/-- An SFU slot (Table 9). -/
def sfu (op : Nat) (o : SfuOp) : Nat :=
  op * 2 ^ 26 + o.vd.toNat * 2 ^ 20 + o.sa.toNat * 2 ^ 13 + o.mask.toNat * 2 ^ 9 + o.fmt.toNat * 2 ^ 6

/-- An SC slot (Table 10). -/
def scale (op : Nat) (o : SclOp) : Nat :=
  op * 2 ^ 20 + o.e.toNat * 2 ^ 16 + o.h.toNat * 2 ^ 12 + o.off.toNat * 2 ^ 2

/-- A logit word (R54). -/
def logit (op : Nat) (o : LOp) : Nat :=
  op * 2 ^ 26 + o.wd.toNat * 2 ^ 22 + o.wa.toNat * 2 ^ 18 + o.wb.toNat * 2 ^ 14 + o.imm.toNat

/-- A MAC or DRAIN beat (Table 11). -/
def beat (op : Nat) (o : BeatOp) : Nat :=
  op * 2 ^ 14 + o.bank.toNat * 2 ^ 12 + o.ring.toNat * 2 ^ 8 + o.mft.toNat * 2 + o.adv.toNat

/-- A PUSH beat: the ring is the B ring (Table 12). -/
def push (o : BeatOp) : Nat :=
  1 * 2 ^ 14 + o.bank.toNat * 2 ^ 12 + o.ring.toNat * 2 ^ 4 + o.mft.toNat * 2 + o.adv.toNat

/-- A DRAIN to h15 (R193). -/
def discard (o : DiscardOp) : Nat :=
  3 * 2 ^ 14 + o.bank.toNat * 2 ^ 12 + 15 * 2 ^ 8 + o.mft.toNat * 2

end Enc

/-- A syllable's word. -/
def encS (w : Nat) : Option (WordKind × Nat) := some (.syllable, w)
def encV (op : Nat) (o : VOp) : Option (WordKind × Nat) := some (.vector, Enc.vec op o)
def encSfu (op : Nat) (o : SfuOp) : Option (WordKind × Nat) := some (.sfu, Enc.sfu op o)
def encL (op : Nat) (o : LOp) : Option (WordKind × Nat) := some (.logit, Enc.logit op o)

/-- The word of an instruction, and what kind of word it is; the steps that engines, controllers and
links take on their own have no encoding (R435). -/
def encode (i : Instr) : Option (WordKind × Nat) :=
  match i with
  | .nop o => encS (Enc.gop 0 0 0 o)
  | .region o => encS (Enc.gop 0 0 1 o)
  | .commit o => encS (Enc.gop 0 0 2 o)
  | .ret o => encS (Enc.jr 0 3 o)
  | .lpop o => encS (Enc.gop 0 0 4 o)
  | .yield o => encS (Enc.gop 0 0 5 o)
  | .jr o => encS (Enc.jr 0 6 o)
  | .twait o => encS (Enc.r2 0 7 o)
  | .br o => encS (Enc.br 0x01 o)
  | .call o => encS (Enc.br 0x02 o)
  | .brX o => encS (0x03 * 2 ^ 26 + o.n.toNat * 2 ^ 23 + o.off.toNat * 2 ^ 4 + o.g.toNat)
  | .loop o => encS (0x04 * 2 ^ 26 + o.rd.toNat * 2 ^ 20 + o.off.toNat * 2 ^ 4 + o.g.toNat)
  | .loopi o => encS (0x05 * 2 ^ 26 + o.count.toNat * 2 ^ 14 + o.off.toNat * 2 ^ 4 + o.g.toNat)
  | .brv o => encS (Enc.brv 0 o)
  | .brvAny o => encS (Enc.brv 1 o)
  | .brvAll o => encS (Enc.brv 2 o)
  | .trap o => encS (Enc.trap 0 o)
  | .sys o => encS (Enc.trap 1 o)
  | .add o => encS (Enc.r3 0x08 0 o)
  | .sub o => encS (Enc.r3 0x08 1 o)
  | .and_ o => encS (Enc.r3 0x08 2 o)
  | .or_ o => encS (Enc.r3 0x08 3 o)
  | .xor o => encS (Enc.r3 0x08 4 o)
  | .andn o => encS (Enc.r3 0x08 5 o)
  | .shl o => encS (Enc.r3 0x08 6 o)
  | .shr o => encS (Enc.r3 0x08 7 o)
  | .sra o => encS (Enc.r3 0x08 8 o)
  | .rot o => encS (Enc.r3 0x08 9 o)
  | .min o => encS (Enc.r3 0x08 10 o)
  | .max o => encS (Enc.r3 0x08 11 o)
  | .minu o => encS (Enc.r3 0x08 12 o)
  | .maxu o => encS (Enc.r3 0x08 13 o)
  | .mul o => encS (Enc.r3 0x09 0 o)
  | .mulh o => encS (Enc.r3 0x09 1 o)
  | .mulhu o => encS (Enc.r3 0x09 2 o)
  | .div o => encS (Enc.r3 0x09 3 o)
  | .divu o => encS (Enc.r3 0x09 4 o)
  | .rem o => encS (Enc.r3 0x09 5 o)
  | .remu o => encS (Enc.r3 0x09 6 o)
  | .sel o => encS (Enc.rr 0x0A o.rd o.rs1 o.rs2 o.p.toNat o.g)
  | .clz o => encS (Enc.run 0x0B 0 o)
  | .ctz o => encS (Enc.run 0x0B 1 o)
  | .popc o => encS (Enc.run 0x0B 2 o)
  | .extB o => encS (Enc.run 0x0B 3 o)
  | .extH o => encS (Enc.run 0x0B 4 o)
  | .extW o => encS (Enc.run 0x0B 5 o)
  | .extBu o => encS (Enc.run 0x0B 6 o)
  | .extHu o => encS (Enc.run 0x0B 7 o)
  | .extWu o => encS (Enc.run 0x0B 8 o)
  | .bfx o => encS (Enc.r3 0x0B 9 o)
  | .bfi o => encS (Enc.r3 0x0B 10 o)
  | .addi o => encS (Enc.ri 0x0C o)
  | .andi o => encS (Enc.ri 0x0D o)
  | .ori o => encS (Enc.ri 0x0E o)
  | .xori o => encS (Enc.ri 0x0F o)
  | .shli o => encS (Enc.ri 0x10 o)
  | .shri o => encS (Enc.ri 0x11 o)
  | .srai o => encS (Enc.ri 0x12 o)
  | .lui o => encS (Enc.ru 0x13 o)
  | .addpc o => encS (Enc.ru 0x14 o)
  | .cmp o => encS (Enc.cmp 0x18 0 o)
  | .cmpi o => encS (Enc.cmp 0x18 1 o)
  | .tbit o => encS (Enc.tbit o)
  | .fcmp o => encS (Enc.cmp 0x1A 0 o)
  | .pmov o => encS (Enc.pmov 0 o)
  | .pmovN o => encS (Enc.pmov 1 o)
  | .pmovGet o => encS (Enc.rr 0x1B o.r 0 0 2 o.g)
  | .pmovSet o => encS (Enc.rr 0x1B 0 o.r 0 3 o.g)
  | .mfsr o => encS (Enc.sr 0x1C o)
  | .mtsr o => encS (Enc.sr 0x1D o)
  | .fadd o => encS (Enc.r3 0x1E 0 o)
  | .fmul o => encS (Enc.r3 0x1E 1 o)
  | .ffma o => encS (Enc.r3 0x1E 2 o)
  | .fcvt o => encS (Enc.fcvt o)
  | .ld o => encS (Enc.rm 0x20 o)
  | .ldAcq o => encS (Enc.rms 0x21 o)
  | .st o => encS (Enc.rm 0x22 o)
  | .stRel o => encS (Enc.rms 0x23 o)
  | .vldDevice o => encS (Enc.r3 0x24 0 o)
  | .vldScratchpad o => encS (Enc.r3 0x25 0 o)
  | .vstDevice o => encS (Enc.r3 0x24 1 o)
  | .vstScratchpad o => encS (Enc.r3 0x25 1 o)
  | .vldsDevice o => encS (Enc.r3 0x24 2 o)
  | .vldsScratchpad o => encS (Enc.r3 0x25 2 o)
  | .vgatherDevice o => encS (Enc.r3 0x24 3 o)
  | .vgatherScratchpad o => encS (Enc.r3 0x25 3 o)
  | .vscatterDevice o => encS (Enc.r3 0x24 4 o)
  | .vscatterScratchpad o => encS (Enc.r3 0x25 4 o)
  | .vmvx o => encS (Enc.vmove 5 o)
  | .vmxv o => encS (Enc.vmove 6 o)
  | .vbx o => encS (Enc.vmove 7 o)
  | .mldDevice o => encS (Enc.mmem 0x24 8 o)
  | .mldScratchpad o => encS (Enc.mmem 0x25 8 o)
  | .mstDevice o => encS (Enc.mmem 0x24 9 o)
  | .mstScratchpad o => encS (Enc.mmem 0x25 9 o)
  | .cfl o => encS (Enc.cache 0 o)
  | .cinv o => encS (Enc.cache 1 o)
  | .cpf o => encS (Enc.cache 2 o)
  | .cwb o => encS (Enc.cache 3 o)
  | .atom o => encS (Enc.atomic 0x28 o)
  | .atomF o => encS (Enc.atomic 0x29 o)
  | .cas o => encS (Enc.atomic 0x2A o)
  | .fence o => encS (Enc.fence o)
  | .waita o => encS (Enc.r3 0x2B 1 o)
  | .tlbshRange o => encS (Enc.r2 0x2B 2 o)
  | .tlbshPen o => encS (Enc.gop 0x2B 1 2 o)
  | .tlbshPenG o => encS (Enc.gop 0x2B 2 2 o)
  | .tlook o => encS (Enc.run 0x2C 0 o)
  | .tset o => encS (Enc.r2 0x2C 1 o)
  | .tread o => encS (Enc.r3 0x2C 2 o)
  | .tclr o => encS (Enc.jr 0x2C 3 o)
  | .rdef o => encS (Enc.rdef o)
  | .radv o => encS (Enc.radv 1 o)
  | .padv o => encS (Enc.radv 2 o)
  | .rcnt o => encS (Enc.rcnt o)
  | .mcwin o => encS (Enc.r2 0x2D 4 o)
  | .xfer o => encS (Enc.eng 0x30 0 o)
  | .xferQ1 o => encS (Enc.eng 0x30 1 o)
  | .tmov o => encS (Enc.tmov o)
  | .conv o => encS (Enc.trig 0 o)
  | .qfp8 o => encS (Enc.trig 1 o)
  | .qmx4 o => encS (Enc.trig 2 o)
  | .cmpr o => encS (Enc.trig 3 o)
  | .expd o => encS (Enc.trig 4 o)
  | .csum o => encS (Enc.trig 5 o)
  | .kvres o => encS (Enc.eng 0x32 0 o)
  | .kvapp o => encS (Enc.eng 0x32 1 o)
  | .kvfork o => encS (Enc.eng 0x32 2 o)
  | .kvfree o => encS (Enc.eng 0x32 3 o)
  | .kvcommit o => encS (Enc.eng 0x32 4 o)
  | .kvtrunc o => encS (Enc.eng 0x32 5 o)
  | .kvq o => encS (Enc.eng 0x32 6 o)
  | .kvclass o => encS (Enc.eng 0x32 7 o)
  | .kvatt o => encS (Enc.eng 0x32 8 o)
  | .kvdemote o => encS (Enc.eng 0x33 0 o)
  | .kvpromote o => encS (Enc.eng 0x33 1 o)
  | .kvexport o => encS (Enc.eng 0x33 2 o)
  | .kvimport o => encS (Enc.eng 0x33 3 o)
  | .smpost o => encS (Enc.eng 0x34 0 o)
  | .hctld o => encS (Enc.eng 0x34 1 o)
  | .qpush o => encS (Enc.eng 0x34 2 o)
  | .erd o => encS (Enc.sr 0x35 o)
  | .ewr o => encS (Enc.sr 0x36 o)
  | .xwait o => encS (Enc.run 0x37 0 o)
  | .xpoll o => encS (Enc.run 0x37 1 o)
  | .tget o => encS (Enc.run 0x37 2 o)
  | .publish o => encS (Enc.rr 0x37 o.scope o.rs1 0 3 o.g)
  | .barInitReg o => encS (Enc.r2 0x38 0 o)
  | .barArrReg o => encS (Enc.jr 0x38 1 o)
  | .barWaitReg o => encS (Enc.jr 0x38 2 o)
  | .barSyncReg o => encS (Enc.jr 0x38 3 o)
  | .barInitImm o => encS (Enc.barInit o)
  | .barArrImm o => encS (Enc.bar 1 o)
  | .barWaitImm o => encS (Enc.bar 2 o)
  | .barSyncImm o => encS (Enc.bar 3 o)
  | .pop o => encS (Enc.r3 0x3A 0 o)
  | .popTry o => encS (Enc.r3 0x3A 1 o)
  | .jraise o => encS (Enc.jr 0x3A 2 o)
  | .texit o => encS (Enc.gop 0x3A 0 3 o)
  | .push o => some (.beat, Enc.push o)
  | .mac o => some (.beat, Enc.beat 2 o)
  | .drain o => some (.beat, Enc.beat 3 o)
  | .drainDiscard o => some (.beat, Enc.discard o)
  | .scl o => some (.scale, Enc.scale 1 o)
  | .sclTile o => some (.scale, Enc.scale 2 o)
  | .vadd o => encV 0x001 o
  | .vsub o => encV 0x002 o
  | .vmul o => encV 0x003 o
  | .vmulh o => encV 0x004 o
  | .vmin o => encV 0x005 o
  | .vmax o => encV 0x006 o
  | .vabs o => encV 0x007 o
  | .vand o => encV 0x008 o
  | .vor o => encV 0x009 o
  | .vxor o => encV 0x00A o
  | .vandn o => encV 0x00B o
  | .vshl o => encV 0x00C o
  | .vshr o => encV 0x00D o
  | .vsra o => encV 0x00E o
  | .vclz o => encV 0x00F o
  | .vpopc o => encV 0x010 o
  | .vnarrow o => encV 0x011 o
  | .vwiden o => encV 0x012 o
  | .vcmp o => encV 0x013 o
  | .vsel o => encV 0x014 o
  | .vmov o => encV 0x015 o
  | .vimm o => encV 0x016 o
  | .vfadd o => encV 0x080 o
  | .vfsub o => encV 0x081 o
  | .vfmul o => encV 0x082 o
  | .vfma o => encV 0x083 o
  | .vfms o => encV 0x084 o
  | .vfnma o => encV 0x085 o
  | .vfmin o => encV 0x086 o
  | .vfmax o => encV 0x087 o
  | .vfabs o => encV 0x088 o
  | .vfneg o => encV 0x089 o
  | .vfcmp o => encV 0x08A o
  | .vfclass o => encV 0x08B o
  | .vround o => encV 0x08C o
  | .vcvt o => encV 0x08D o
  | .vscale o => encV 0x08E o
  | .vmass o => encV 0x1A1 o
  | .vsfin o => encV 0x1A2 o
  | .vseedexp o => encV 0x1C0 o
  | .vseedscore o => encV 0x1C1 o
  | .vseedfit o => encV 0x1C2 o
  | .vgen o => encV 0x1C3 o
  | .vbcast o => encV 0x100 o
  | .vperm o => encV 0x101 o
  | .vslide o => encV 0x102 o
  | .vzip o => encV 0x103 o
  | .vunzip o => encV 0x104 o
  | .vcompress o => encV 0x105 o
  | .vexpand o => encV 0x106 o
  | .viota o => encV 0x107 o
  | .vredsum o => encV 0x140 o
  | .vredmax o => encV 0x141 o
  | .vredmin o => encV 0x142 o
  | .vargmax o => encV 0x143 o
  | .vargmin o => encV 0x144 o
  | .vredand o => encV 0x145 o
  | .vredor o => encV 0x146 o
  | .mand o => encV 0x180 o
  | .mor o => encV 0x181 o
  | .mxor o => encV 0x182 o
  | .mnot o => encV 0x183 o
  | .mrange o => encV 0x184 o
  | .vsmax o => encV 0x1A0 o
  | .vsmaxInit o => encV 0x1A0 o
  | .vsmaxE o => encV 0x1A0 o
  | .vsmaxD o => encV 0x1A0 o
  | .sfuExp2 o => encSfu 1 o
  | .sfuLog2 o => encSfu 2 o
  | .sfuRcp o => encSfu 3 o
  | .sfuRsqrt o => encSfu 4 o
  | .sfuSqrt o => encSfu 5 o
  | .sfuSin o => encSfu 6 o
  | .sfuCos o => encSfu 7 o
  | .sfuTanh o => encSfu 8 o
  | .sfuSigm o => encSfu 9 o
  | .sfuSilu o => encSfu 10 o
  | .sfuGelu o => encSfu 11 o
  | .sfuErf o => encSfu 12 o
  | .sfuSexp o => encSfu 13 o
  | .lld o => encL 0x01 o
  | .lbias o => encL 0x02 o
  | .lcnt o => encL 0x03 o
  | .lpen o => encL 0x04 o
  | .ltemp o => encL 0x05 o
  | .lmask o => encL 0x06 o
  | .lnoise o => encL 0x07 o
  | .lamax o => encL 0x08 o
  | .lmerge o => encL 0x09 o
  | .ladd o => encL 0x0A o
  | .lsub o => encL 0x0B o
  | .lmul o => encL 0x0C o
  | .lfma o => encL 0x0D o
  | .lmin o => encL 0x0E o
  | .lmax o => encL 0x0F o
  | .lsel o => encL 0x10 o
  | .lcmp o => encL 0x11 o
  | .lcap o => encL 0x12 o
  | .limm o => encL 0x13 o
  | .lmov o => encL 0x14 o
  | .lacc o => encL 0x15 o
  | .lput o => encL 0x16 o
  | .lbump o => encL 0x17 o
  | .lend o => encL 0x18 o
  | .denialSoleIssue _
  | .faultRecordHeldWrite _
  | .driverResume _ _ _
  | .driverTerminate _ _
  | .launch _
  | .attachedLaunch _
  | .graphLaunch _
  | .graphNodeStep _
  | .taskPlacement _
  | .preemption _
  | .taskRestart _
  | .jobSignalWrite _
  | .commandStart _ _
  | .commandRetire _ _
  | .engineFillRetire _ _
  | .hctldWordArrival _ _
  | .transformOpRetire _ _
  | .publishFlip _ _
  | .drainLands _
  | .multicastArrival _
  | .scaleLoadComplete _
  | .tlbshComplete _
  | .cacheOpComplete _
  | .waitaWake _
  | .waitaMonitorLost _ _
  | .waitaTimeout _
  | .twaitWake _
  | .barrierOpAtHome _
  | .workQueueCycle _ _
  | .queueSpillRefill _
  | .notify _ _ _
  | .userQueueMap _ _
  | .userQueueUnmap _
  | .kvattSlotFill _ _
  | .heatRefresh _
  | .kvDecayPeriod _
  | .deferredBlockRelease _
  | .droverPageMove _
  | .kvNotNearService _
  | .recall _ _ _
  | .returnMsg _ _
  | .recallDeadline _
  | .groomRequest _
  | .budgetPeriodBoundary _
  | .rfmIssue _ _ _
  | .rfmHoldEnd _ _
  | .periodicRefresh _ _ _
  | .flitReceived _ _
  | .replayRequest _ _
  | .linkDown _
  | .inboundRequest _
  | .inboundRouteTimeout _
  | .remoteResponse _ _
  | .uncorrectableError _ _
  | .coldReset _
  | .updateBoundary _ _
  | .alivePost _ _
  | .watchdogExpiry _
  | .regRead _
  | .regWrite _
  | .imageLoad _
  | .imageVerify _
  | .update _
  | .tfrange _
  | .tframeSet _
  | .tframeClear _
  | .quote _
  | .queueCreate _
  | .queueDestroy _
  | .queueQuota _
  | .spillSet _
  | .registerWrite _ _ _
  | .lendMessage _ _ => none

/-- The slot that a syllable of this major is decoded in: C where C admits it, else E. -/
def homeSlot (w : Nat) : Slot := if Dec.admits .c (bits w 31 26) then .c else .e

/-- Decode a word of a stated kind, a syllable in its home slot. -/
noncomputable def decodeAs (k : WordKind) (w : Nat) : Option Instr :=
  match k with
  | .syllable =>
    match decodeSyllable (homeSlot w) w with
    | .ok (some i) => some i
    | .ok none => some (.nop (Dec.gop w))
    | .error _ => none
  | .beat =>
    match decodeBeat w with
    | .ok b => b
    | .error _ => none
  | .scale => decodeScale w
  | .sfu => decodeSfu w
  | .vector => decodeVector w
  | .logit => decodeLogit w

/-- The instruction that a word of the opcode table's width stands for: 16 bits a beat, 24 an SC slot,
48 a vector slot. A 32-bit word may be a syllable, an SFU slot or a logit word, whose codes overlap:
it is read as the first of these that accepts it (assumption log 2). -/
noncomputable def decodeTableWord (nbits w : Nat) : Option Instr :=
  match nbits with
  | 16 => decodeAs .beat w
  | 24 => decodeAs .scale w
  | 48 => decodeAs .vector w
  | 32 =>
    match decodeAs .syllable w with
    | some i => some i
    | none =>
      match decodeAs .sfu w with
      | some i => some i
      | none => decodeAs .logit w
  | _ => none

end Sys2Proof
end

