-- ==== Sys2Proof/Machine/State.lean ====
section
/-! DEFINITION. The state of the Nexel 9400, as plain data, and the state right after reset.

Every piece of state the spec names has its field here. Tables of numbered things (contexts, cores,
clusters, pens, pools, registers, memory) are sparse maps in canonical form (`Sparse.lean`). Fields
marked "model" are the model's own. -/

namespace Sys2Proof.Machine

/-- Why a step stops with no next state. -/
inductive Fault where
  /-- Raised by nothing in the spec's own flow: an access of a controller to a physical address
  outside every range of R217. Safe: the hardware would go on. -/
  | unpopulated (pa : Nat)
  deriving DecidableEq, Repr

/-- Why a step is refused. -/
inductive Refusal where
  /-- Raised by an arm of `exec` for an instruction that has no meaning yet. Safe: nothing is claimed
  of it. -/
  | notModelled (mnemonic : String)
  deriving DecidableEq, Repr

/-- The shared fault codes (R11, Table 4). -/
inductive Code where
  | illegalSyllable | illegalSlot | reservedField | hctInvalid | nonuniformBranch | loopOverflow
  | loopUnderflow | regionFull | privilege | softTrap
  | bankConflict | tileNotArmed | layoutMismatch | ringMisuse | formatMismatch | genWrite | sparseMeta
  | notPresent | permission | engineMask | orderKind | misaligned | tableStructure
  | kvNotNear | kvStale | kvExtent | yardFull | kvRecalled
  | queueQuota | barrierMisuse | jobRaise | sampleParam | logitFault | machineCheck
  deriving DecidableEq, Repr

/-! ### Contexts -/

/-- An entry of the loop stack (R97). -/
structure LoopEnt where
  start : BitVec 60
  fin : BitVec 60
  rem : BitVec 32
  idx : BitVec 32
  deriving DecidableEq, Repr

/-- A ring descriptor (R210): `n` slots from `first`; `n` 0 is undefined. -/
structure Ring where
  first : Nat
  n : Nat
  pc : BitVec 32
  cc : BitVec 32
  deriving DecidableEq, Repr

def Ring.none : Ring := ⟨0, 0, 0, 0⟩

/-- The states of a tile slot (R204). -/
inductive TState where
  | empty | filling | ready | draining
  deriving DecidableEq, Repr

/-- What an engine command is (R271, Tables 19 and 21a). -/
inductive CmdKind where
  | xfer (queue : Nat)
  | trig (port : Nat)
  | publish
  | hctld
  | qpush
  | smpost
  | kv (op : Nat)
  | tier (op : Nat)
  deriving DecidableEq, Repr

/-- Where a command stands (R273). -/
inductive CmdSt where
  | held | waiting | running
  deriving DecidableEq, Repr

/-- An access that a step makes (R394): the activity that it is a step of, beside HBM bandwidth (2 for a descriptor or stall
entry, 1 for a block or stream, else 0), whether a page-table walk makes it, its pen, address and bytes. -/
structure Touch where
  act : Nat
  ptw : Bool
  pen : Nat
  pa : Nat
  n : Nat
  deriving DecidableEq, Repr

/-- A kvatt stream's own state (R315 to R320): whether it has resolved its handle, the (plane, page) pair it fills
next counted in stream order, which of the K, V and header slots of that pair (0 to 2), and for each ring the
first pair whose slot a reissued stream fills; then the pool and extents it has resolved (base, count, stride), the
stall number and entry of the current pair, the stalls resolved so far and its sequence stamp (R298, R304). A tier command keeps
the pool, the pages changed (`pos`) and, in `cur`, the index of its descriptor and the last page (R339). -/
structure Stream where
  started : Bool
  pos : Nat
  ix : Nat
  skips : List Nat
  pool : Nat
  ext : List (Nat × Nat × Int)
  cur : Option (Nat × Nat)
  seen : List Nat
  seq : Nat
  deriving DecidableEq, Repr

def Stream.none : Stream := ⟨false, 0, 0, [0, 0, 0], 0, [], Option.none, [], 0⟩

/-- Where a command failed (R231, R232): code, address word, elements not done, and the distinct 64 KiB pages that
faulted. -/
structure FailAt where
  code : Nat
  addr : Nat
  extent : Nat
  merged : Nat
  deriving DecidableEq, Repr

/-- An engine command that has been accepted and has not retired (R271 to R277). It holds the
registers it copied at issue (R268). -/
structure Cmd where
  ctx : Nat
  task : Nat
  cid : BitVec 16
  kind : CmdKind
  st : CmdSt
  deferred : Bool
  /-- Issued inside the region that is open. -/
  inRegion : Bool
  /-- Its region was aborted (R104 step 3). -/
  aborted : Bool
  preds : List (BitVec 16)
  ord : Nat
  r1 : Word
  r2 : Word
  regs : List (Nat × Word)
  ports : List (Nat × Word)
  scope : Nat
  pc : BitVec 60
  pen : Nat
  wid : Word
  job : Nat
  core : Nat
  /-- Word 7 of its fault record: the loop counters at its issue (R231). -/
  loops : Nat
  /-- The tile slot that a ring fill armed. -/
  slot : Option Nat
  /-- How far the command has come: HCT entries received, 1 for a send whose flits are not acknowledged; and
  its first failure. -/
  pos : Nat
  fail : Option FailAt
  /-- What it has done before a budget held it (R396): elements moved or outputs written, and the elements that a bit-field
  transfer has read; and how many accesses of its next step have been admitted. -/
  done : Nat
  got : List Nat
  paid : Nat
  /-- Its place in the order of release, and the cycle of its cluster in which it arrived where it acts, plus one; 0 where it
  has not (R304, R308). -/
  rel : Nat
  at_ : Nat
  stream : Stream
  deriving DecidableEq, Repr

/-- A tile entry (R204, Table 2), the command and pattern of the fill that armed it (R104, R108),
and the DRAINs written into it that have not landed (R205). -/
structure TileEnt where
  tag : BitVec 48
  fcode : BitVec 8
  faulted : Bool
  inflight : Bool
  relpend : Bool
  state : TState
  persist : Bool
  layout : BitVec 3
  fmt : BitVec 4
  group : BitVec 1
  lines : BitVec 13
  base : BitVec 13
  stall : BitVec 32
  mass : BitVec 32
  /-- Mass added inside the open region (R349). -/
  pend : Option (BitVec 32)
  cid : BitVec 16
  fill : Option Cmd
  drains : Nat
  deriving DecidableEq, Repr

/-- The reset values of Table 2 (R204). -/
def TileEnt.reset : TileEnt :=
  ⟨0, 0, false, false, false, .empty, false, 0, 0, 0, 0, 0, 0xFFFFFFFF, 0, none, 0, none, 0⟩

/-- The region snapshot (R100, Table 3). -/
structure Snapshot where
  loops : List LoopEnt
  acc : List (Nat × VWord)
  rings : List (Nat × Ring)
  tiles : List (Nat × TileEnt)
  mpc : BitVec 60
  deriving DecidableEq, Repr

/-- What a buffered entry of a region does at release (R101, R247); a sealed block takes no merges, as
it was opened before a `fence` or is a `st.rel` of its own, or its page is SO and it is not the
newest. -/
inductive SKind where
  /-- Stores into one aligned 256-byte physical block: the bytes written. -/
  | block (pa : Nat) (bytes : List (Nat × Byte)) (sealed : Bool) (so : Bool)
  /-- A non-returning atomic (R255). -/
  | atom (pa : Nat) (op : Nat) (n : Nat) (a : Nat)
  deriving DecidableEq, Repr

/-- An entry of the region store buffer: the virtual pages its bytes were translated through (R230), the cache policy
and eviction priority of its page (R219), whether it performs only once no acknowledgement of a remote store is
awaited (R246, R406), what its performance orders (R239, R241: 0 nothing, 1 what follows it waits, 2 the core's RC lines
leave the L1 too), the stores of an SO entry in program order: address, bytes and value (R246), and how many of its HBM
requests budgets have admitted (R396). -/
structure SEnt where
  kind : SKind
  vpages : List Nat
  cpol : Nat
  evp : Nat
  gate : Bool
  acq : Nat
  log : List (Nat × Nat × Nat)
  paid : Nat
  deriving DecidableEq, Repr

/-- An open region (R99 to R105); `gate` is given to the next entry that its buffer opens (R243, R247). -/
structure Region where
  restart : BitVec 60
  snap : Snapshot
  sbuf : List SEnt
  gate : Bool
  deriving DecidableEq, Repr

/-- An HCT entry (R33, `hctld`): unloaded with the code recorded for it (0 for none), loading, or
loaded. -/
inductive HctEnt where
  | unloaded (code : Nat)
  | loading
  | loaded (w : HWord)
  deriving DecidableEq, Repr

/-- The B latch (R177, R187): the dense bytes of 8 columns, the positions kept under sparsity, the
format and sparsity marks, and when a MAC may use it (R184). -/
structure Latch where
  cols : List Nat
  kept : List Nat
  bfmt : Nat
  sp : Nat
  deriving DecidableEq, Repr

/-- What a PARKED context waits for (R95). -/
inductive Park where
  /-- `waita` (R257): destination, L2 slice and 64-byte physical line of its monitor, cycle of the park, and
  the reason of a wake that has happened. -/
  | waita (rd : BitVec 6) (slice line : Nat) (since : Nat) (wake : Option Nat)
  /-- `twait` (R361): physical address of the board entry, and the iteration wanted. -/
  | twait (pa : Nat) (want : Nat)
  /-- `bar.wait` or `bar.sync` (R390). -/
  | bar (b : Nat)
  /-- Waiting for the drover's promotion on its own context (R111). -/
  | near (handle : Nat) (page : Nat)
  /-- Waiting for its rings to be re-armed before it restarts (R108). -/
  | rearm
  deriving DecidableEq, Repr

/-- The states of a context (R95); SAVED tasks hold no context. -/
inductive CtxSt where
  | idle | ready
  | parked (p : Park)
  | stopped
  deriving DecidableEq, Repr

/-- An arrival record of a context (R388), and its clear-pending mark inside a region (R390). -/
structure Arrival where
  valid : Bool
  b : Nat
  phase : BitVec 32
  pend : Bool
  deriving DecidableEq, Repr

/-- A remote access of a bundle that is out on the links (R402, R406): physical address, bytes, what is
asked of the owner (the operation of an atomic, its operand and comparand), the cycle in which it left, and the answer. -/
structure Remote where
  pa : Nat
  n : Nat
  op : Option Nat
  a : Nat
  c : Nat
  sent : Nat
  ans : Option Nat
  fail : Option Code
  deriving DecidableEq, Repr

/-- What a bundle that waits has been answered, to be used when it issues again (model): the reason that ended a
`waita` (R257), and whether the barrier operation of its C or E slot has applied at the gang's home, or failed
there (R390). -/
structure Ans where
  wake : Option Nat
  barC : Option Bool
  barE : Option Bool
  deriving DecidableEq, Repr

def Ans.none : Ans := ⟨Option.none, Option.none, Option.none⟩

/-- A context whose task is being pre-empted and has not left (R109): whether its B latch is saved, whether its immediate
commands retire first, and for a task that is requeued after `KV_NOT_NEAR` the page it waits for (R106). -/
structure Leave where
  latch : Bool
  wait : Bool
  near : Option (Nat × Nat)
  deriving DecidableEq, Repr

/-- An element that the gather port of the scratchpad has still to read (R161): the cycle in which it does, the register and
the place in it, and the address and size. -/
structure PortRead where
  due : Nat
  vd : BitVec 6
  ix : Nat
  addr : Nat
  n : Nat
  deriving DecidableEq, Repr

/-- The state of one hardware context (R95, R96, R109). -/
structure Ctx where
  st : CtxSt
  /-- The number of the task that holds the context, 0 for none (model). -/
  task : Nat
  pc : BitVec 60
  xs : List (Nat × Word)
  ps : BitVec 16
  vs : List (Nat × VWord)
  ms : List (Nat × BitVec 64)
  es : List (Nat × BitVec 512)
  acc : List (Nat × VWord)
  latch : Option Latch
  fpflags : BitVec 64
  fprec : BitVec 64
  loops : List LoopEnt
  region : Option Region
  hct : List (Nat × HctEnt)
  wid : Word
  pen : BitVec 6
  prio : BitVec 3
  mpc : BitVec 60
  waitlim : BitVec 32
  mft : List (Nat × Word)
  nextcid : BitVec 16
  rings : List (Nat × Ring)
  mcbase : Word
  mcmask : BitVec 16
  eng : List (Nat × Word)
  ports : List (Nat × Word)
  status : List (Nat × Word)
  arrivals : List (Nat × Arrival)
  /-- Deferred commands held by the open region, oldest first, stand in `State.cmds`; denial count and
  the offer marks of R114. -/
  denial : Nat
  sole : Bool
  yielded : Bool
  /-- Cycle at which each interlocked register's result is available (R119, R143, R184). -/
  sb : List (Nat × Nat)
  /-- Cycle at which the divider is free (R120), and in which the context's last SFU operation writes (R166). -/
  divFree : Nat
  sfuDue : Nat
  /-- Scale loads in flight: cycle after which the bytes stand in the register (R215). -/
  scl : List (Nat × Nat × BitVec 512)
  gath : List PortRead
  /-- A shoot-down, or cache operations, that have not completed (R230, R265). -/
  tlbshBusy : Bool
  cacheBusy : Bool
  ans : Ans
  /-- Remote accesses of the bundle that has not issued yet, and remote stores not acknowledged. -/
  remote : List Remote
  acks : Nat
  /-- Entries of released regions that have not performed (R101, R246), oldest first; what the memory accesses of
  later bundles wait for after a fence or an acquire (R241, R256): 1 these entries, 2 the acknowledgements too; and the
  lines that leave the core's L1 once that has come (R260): 1 those of RC pages, 2 those of UN pages too. -/
  drain : List SEnt
  fence : Nat
  fdrop : Nat
  /-- HBM requests of the bundle at pc that budgets have admitted while it waits for others (R396). -/
  paid : Nat
  leave : Option Leave
  /-- The fill that the fault record which stopped the task names as its cause (R108). -/
  cause : Option (BitVec 16)
  /-- What R108 re-arms before the task restarts: streams and slots still to be reissued, and what has to come of the commands
  reissued: for a stream one more than each slot that it has to refill, or 0 for a fill that has to retire. -/
  halted : List Cmd
  todo : List Nat
  rearm : List (BitVec 16 × Nat)
  deriving DecidableEq, Repr

/-- A context with no task; the values a task starts with are those of R96. -/
def Ctx.idle : Ctx :=
  { st := .idle, task := 0, pc := 0, xs := [], ps := 1, vs := [], ms := [], es := [], acc := [],
    latch := none, fpflags := 0, fprec := 0, loops := [], region := none, hct := [], wid := 0,
    pen := 0, prio := 0, mpc := 0, waitlim := 0, mft := [], nextcid := 0, rings := [], mcbase := 0,
    mcmask := 0, eng := [], ports := [], status := [], arrivals := [], denial := 0, sole := false,
    yielded := false, sb := [], divFree := 0, sfuDue := 0, scl := [], gath := [], tlbshBusy := false,
    cacheBusy := false, ans := Ans.none, remote := [], acks := 0, drain := [], fence := 0, fdrop := 0, paid := 0, leave := none,
    cause := none, halted := [], todo := [], rearm := [] }

/-! ### Cores and clusters -/

/-- A cached leaf translation (R227): pen, first virtual address and size of the page, the entry as
read and where it stands. -/
structure TlbEnt where
  pen : Nat
  base : Nat
  size : Nat
  pte : Word
  ptePa : Nat
  deriving DecidableEq, Repr

/-- A cached pointer entry (R227): the node that a prefix of the address leads to. -/
structure WalkEnt where
  pen : Nat
  level : Nat
  key : Nat
  node : Nat
  deriving DecidableEq, Repr

/-- An L1 line (R259, R260): its physical address, the ordering kind of the page it was filled from,
when it was last used, and its bytes, which may be stale. -/
structure L1Line where
  pa : Nat
  kind : Nat
  stamp : Nat
  data : Nat
  deriving DecidableEq, Repr

/-- An L2 line (R259 to R263): where it resides, its pen tag, eviction priority, use, and for its dirty
bytes what memory holds behind them, by address. -/
structure L2Line where
  slice : Nat
  set : Nat
  way : Nat
  pa : Nat
  pen : Nat
  evp : Nat
  stamp : Nat
  dirty : List (Nat × Byte)
  deriving DecidableEq, Repr

/-- A scratchpad write in flight (R158, R184, R214): the last cycle in which the old bytes are read,
its place in that cycle's order (0 local, 1 + source core for a multicast), address, size and bytes,
and the slot that a DRAIN updates. -/
structure SpWrite where
  due : Nat
  order : Nat
  addr : Nat
  n : Nat
  data : Nat
  drain : Option Nat
  deriving DecidableEq, Repr

/-- A core (R12): scratchpad, tile table, L1, TLB, merge stage and the units its contexts share. -/
structure Core where
  tiles0 : Nat
  tiles : List (Nat × TileEnt)
  scratch : List (Nat × Byte)
  l1 : List L1Line
  tlb : List TlbEnt
  writes : List SpWrite
  /-- Cycle at which vector slots 0 to 3 are free (R196). -/
  vBusy : List (Nat × Nat)
  /-- Cycle at which the SFU is free, and which context it passed over (R163, R164). -/
  sfuFree : Nat
  sfuPassed : List (Nat × Bool)
  /-- Cycle at which the gather port is free, and of a `vscatter` that holds it the cycle of issue and the lines that it
  writes (R161). -/
  portFree : Nat
  portAt : Nat
  portLines : List Nat
  deriving DecidableEq, Repr

def Core.reset : Core :=
  { tiles0 := 128, tiles := [], scratch := [], l1 := [], tlb := [], writes := [], vBusy := [],
    sfuFree := 0, sfuPassed := [], portFree := 0, portAt := 0, portLines := [] }

/-- A `waita` monitor tag in an L2 slice (R258): the 64-byte line and the context it wakes. -/
structure Mon where
  slice : Nat
  line : Nat
  ctx : Nat
  deriving DecidableEq, Repr

/-- A cluster (R12): its cycle count and what its cores and engines share. -/
structure Cluster where
  cycle : Nat
  /-- The cluster TLB (R227): leaves of 64 KiB pages, and of larger pages. -/
  tlb : List TlbEnt
  tlbBig : List TlbEnt
  walk : List WalkEnt
  l2 : List L2Line
  mons : List Mon
  /-- Engine TLBs (R227), by the emask bit of the unit (R219). -/
  etlb : List (Nat × List TlbEnt)
  deriving DecidableEq, Repr

def Cluster.reset : Cluster :=
  { cycle := 0, tlb := [], tlbBig := [], walk := [], l2 := [], mons := [], etlb := [] }

/-! ### Pens -/

/-- A swap window (R284). -/
structure Win where
  va : Nat
  size : Nat
  front : Bool
  enable : Bool
  h0 : Nat
  h1 : Nat
  deriving DecidableEq, Repr

def Win.reset : Win := ⟨0, 0, false, false, 0, 0⟩

/-- The registers of a pen (R225, R235, R111, R299, R358, R284) and what the hardware keeps for it. -/
structure Pen where
  root : Word
  fqBase : Word
  fqCtl : Word
  fqHead : BitVec 32
  fqTail : BitVec 32
  fqLost : BitVec 32
  kvsBase : Word
  kvsLsize : Word
  tbBase : Word
  tbLsize : Word
  svBase : Word
  svCtl : Word
  wins : List (Nat × Win)
  /-- Busy save frames (R111). -/
  frames : List Nat
  /-- Fault records held for want of space (R233), oldest first. -/
  held : List (List Word)
  /-- The table-frame range of TFRANGE (R421) and the user-queue slot quota (R292). -/
  tfFirst : Nat
  tfCount : Nat
  uqQuota : Nat
  deriving DecidableEq, Repr

def Pen.reset : Pen :=
  { root := 0, fqBase := 0, fqCtl := 0, fqHead := 0, fqTail := 0, fqLost := 0, kvsBase := 0,
    kvsLsize := 0, tbBase := 0, tbLsize := 0, svBase := 0, svCtl := 0, wins := [], frames := [],
    held := [], tfFirst := 0, tfCount := 0, uqQuota := 0 }

/-! ### The bundle being issued (model) -/

/-- A fault as the operation that meets it knows it (R231): code, address word, source where it is not
that of the slot, the command id of a fill reported at its consumption, and whether the address word
holds a handle and page. -/
structure FaultInfo where
  code : Code
  addr : Nat
  slot : Slot
  source : Option Nat
  cid : Option (BitVec 16)
  kv : Bool
  extent : Nat
  merged : Nat
  deriving DecidableEq, Repr

/-- What has become of the bundle so far. -/
inductive BStat where
  | ok
  /-- Some operand or condition is not available: the bundle is not ready (R113). -/
  | stall
  | fault (f : FaultInfo)
  deriving DecidableEq, Repr

/-- What a bundle that is not ready leaves behind: it parks its context, or its request waits at the
home of a barrier or a queue (R95, R386, R388). -/
inductive Post where
  | park (p : Park)
  | bar (op : Nat) (b : Nat) (c : Nat)
  | pop (q : Nat)
  | remote (l : List Remote)
  /-- A budget holds HBM requests that the bundle needs: those not admitted yet (R396). -/
  | hold (l : List Touch)
  /-- The word of a `waita` equals the value wanted: it is read again, under the policy and priority of its page, as the context
  parks (R257). -/
  | await (p : Park) (pa want cpol evp : Nat)
  /-- The access waits until earlier accesses of its context have performed (R239, R241, R246). -/
  | order
  /-- The bundle closes the open region, which is released while the bundle waits (R99, R102). -/
  | release
  deriving DecidableEq, Repr

/-- The bundle being issued: context, slot, pc, the registers and tiles from before it (R118), the scratchpad lines that an
earlier `vscatter` is still to write (R161), the branch its control syllable takes, the lines it has read (R202), and its
outcome. -/
structure Issue where
  ctx : Nat
  slot : Slot
  pc : BitVec 60
  pre : Ctx
  preTiles : List (Nat × TileEnt)
  portLines : List Nat
  branch : Option (BitVec 60)
  lines : List Nat
  status : BStat
  post : Option Post
  /-- Predicates and masks already written by accumulating compares of the bundle (R131, R142). -/
  accP : BitVec 16
  accM : BitVec 16
  deriving DecidableEq, Repr

def Issue.none : Issue :=
  { ctx := 0, slot := .c, pc := 0, pre := Ctx.idle, preTiles := [], portLines := [], branch := Option.none, lines := [],
    status := .ok, post := Option.none, accP := 0, accM := 0 }

/-! ### Jobs and tasks (chapters 04 and 18) -/

/-- One WID level (R89, R92). -/
structure Level where
  width : Nat
  extent : Nat
  scope : Nat
  deriving DecidableEq, Repr

/-- A launch header, decoded (R92). -/
structure Header where
  tiles0 : Nat
  gang : Nat
  prio : Nat
  entry : Nat
  hctimg : Nat
  hctbase : Nat
  hctcount : Nat
  metaPc : Nat
  expected : Nat
  signal : Nat
  args : Nat
  levels : List Level
  init : Nat
  deriving DecidableEq, Repr

/-- An accepted launch (R378): its job, header, the images read at acceptance, and how many of its
tasks, in ascending WID, have left the unplaced order. -/
structure Launch where
  job : Nat
  hdr : Header
  hct : List HWord
  init : List Nat
  next : Nat
  total : Nat
  /-- Units that groups have been given (R90): level, group, unit. -/
  units : List (Nat × Nat × Nat)
  deriving DecidableEq, Repr

/-- The state of a job (R379). -/
inductive JobSt where
  | rejected | running | done | failed
  deriving DecidableEq, Repr

/-- A job (R378 to R380): the JCB's fields, where the JCB stands, and what the job sequencer keeps. -/
structure Job where
  pen : Nat
  prio : Nat
  /-- Package sequence number of acceptance (R381). -/
  seq : Nat
  jcb : Nat
  expected : Nat
  completed : Nat
  ended : Nat
  tasks : Nat
  st : JobSt
  code : Nat
  fseq : Nat
  late : Nat
  signal : Nat
  queues : List Nat
  signalled : Bool
  /-- Sequence number of the completion that made it DONE (R19), which the JCB has no field for. -/
  dseq : Nat
  deriving DecidableEq, Repr

/-- Where a task that has left the unplaced order stands (R95, R106). -/
inductive TaskSt where
  /-- On a context. -/
  | on (ctx : Nat)
  /-- SAVED, placeable again (R110). -/
  | saved
  /-- SAVED until the drover has promoted the page it faulted on: sequence handle and page (R106). -/
  | near (handle : Nat) (page : Nat)
  /-- STOPPED, its state in a frame (R106, R111). -/
  | stopped
  deriving DecidableEq, Repr

/-- What pre-emption saves beyond the context itself (R109, Table 5). -/
structure Saved where
  ctx : Ctx
  tiles : List (Nat × TileEnt)
  lines : List (Nat × Byte)
  deriving DecidableEq, Repr

/-- A task that has been placed and has not ended. -/
structure Task where
  job : Nat
  launch : Nat
  ord : Nat
  wid : Word
  st : TaskSt
  /-- The context it left, whose index k it keeps (R110). -/
  last : Nat
  gang : Nat
  saved : Option Saved
  frame : Option Nat
  /-- Code of the fault that stopped it (R380). -/
  stopCode : Nat
  stopSeq : Nat
  /-- The drover has made the pressure move of its `KV_NOT_NEAR` service (R334). -/
  relief : Bool
  deriving DecidableEq, Repr

/-- A named barrier (R388). -/
structure Barrier where
  n : Nat
  a : Nat
  p : BitVec 32
  deriving DecidableEq, Repr

/-- A barrier operation on its way to the gang's home (R388): context, slot, operation, barrier, count, the cycle of
arrival, and, for an arrival that the home has found well, that it waits until what its context stored before has
performed (model). -/
structure BarReq where
  ctx : Nat
  slot : Slot
  op : Nat
  b : Nat
  c : Nat
  due : Nat
  held : Bool
  deriving DecidableEq, Repr

/-- A live gang (R91, R387). -/
structure Gang where
  job : Nat
  home : Nat
  size : Nat
  /-- Launch and group of the gang. -/
  launch : Nat
  group : Nat
  barriers : List (Nat × Barrier)
  deriving DecidableEq, Repr

/-- A work queue (R289, R384 to R386): its binding job (0 none), entries in hardware, count of entries
in its spill ring, closed mark, arrivals not yet applied with the context or engine they come from and
the command to retire, contexts that wait in `pop`, and entries given to contexts whose `pop` has not issued
again (model). -/
structure WorkQ where
  job : Nat
  hw : List (BitVec 128)
  closed : Bool
  arrivals : List (Nat × Option (BitVec 16) × BitVec 128)
  waiters : List Nat
  granted : List (Nat × BitVec 128)
  /-- Spill descriptor (R290): base, quota, lsize, pen, tail and head. -/
  base : Nat
  quota : Nat
  lsize : Nat
  pen : Nat
  tail : Nat
  head : Nat
  deriving DecidableEq, Repr

def WorkQ.reset : WorkQ := ⟨0, [], false, [], [], [], 0, 0, 0, 0, 0, 0⟩

/-! ### Key-value pools (chapters 14 and 15) -/

/-- A stall number, block or scale area that waits until earlier readers have retired (R298): the sequence stamp
of the release, the stall it belonged to, what becomes of it (0 the number is free, 1 the address is pushed on stack
`stack`: 0 to 5 free stacks, 6 the scale stack, 7 the agisted stack; 2 it returns to lender `stack`), and the address. -/
structure Defer where
  seq : Nat
  stall : Nat
  kind : Nat
  stack : Nat
  val : Nat
  deriving DecidableEq, Repr

/-- Why a drover moves a page (R330 to R336). -/
inductive MoveWhy where
  /-- A tier command, with its context and id. -/
  | cmd (ctx : Nat) (cid : BitVec 16)
  | pressure
  | near (task : Nat)
  | recall
  deriving DecidableEq, Repr

/-- A page move that a drover has begun (R332): its die, stall, target block, scale area, form and tier. -/
structure PageMove where
  die : Nat
  stall : Nat
  why : MoveWhy
  block : Nat
  area : Nat
  form : Nat
  tier : Nat
  /-- Its package sequence number, and the accesses of it that its drover's budget has admitted (R298, R331, R396). -/
  seq : Nat
  paid : Nat
  deriving DecidableEq, Repr

/-- A block that is lent (R335): the borrower, its address in the remote range, and where it is being recalled the deadline,
in ns of `State.time` (R336). -/
structure Lent where
  dst : Nat
  block : Nat
  recalled : Option Nat
  deriving DecidableEq, Repr

/-- A pool (R294, R326) and what the hardware keeps for it. -/
structure Pool where
  cfg : Word
  pstride : Word
  stab : Word
  fsBase : List (Nat × Word)
  fsCnt : List (Nat × Word)
  resv : Nat
  decay : Word
  period : Nat
  stale : Nat
  tpol : Word
  scsBase : Word
  scsCnt : Word
  sstr : Nat
  agstBase : Word
  agstCnt : Word
  recalled : Nat
  pmoves : Nat
  /-- Free runs of the buddy allocator (R297): order and base. -/
  runs : List (Nat × Nat)
  defers : List Defer
  /-- Moves begun and not ended: their stalls are busy (R332). -/
  moves : List PageMove
  /-- Pressure moves are on (R333). -/
  pressing : Bool
  /-- RECALLs whose deadline runs: the deadline in ns of `State.time`, and the named blocks that have not gone back (R336). -/
  recalls : List (Nat × List Nat)
  /-- Blocks that this package has lent from the pool and that have not come back (R335 to R337). -/
  lent : List Lent
  /-- The next stall the heat refresh visits (R321). -/
  sweep : Nat
  deriving DecidableEq, Repr

def Pool.reset : Pool :=
  { cfg := 0, pstride := 0, stab := 0, fsBase := [], fsCnt := [], resv := 0, decay := 0, period := 0,
    stale := 0, tpol := 0, scsBase := 0, scsCnt := 0, sstr := 0, agstBase := 0, agstCnt := 0,
    recalled := 0, pmoves := 0, runs := [], defers := [], moves := [], pressing := false,
    recalls := [], lent := [], sweep := 0 }

/-! ### The control plane, links and the management plane -/

/-- A registered user queue (R292): its pen, the address of its descriptor, and its slot. -/
structure UserQ where
  id : Nat
  pen : Nat
  desc : Nat
  slot : Option Nat
  deriving DecidableEq, Repr

/-- A mapped slot of the user-queue mapping table (R17, R292). -/
structure UqSlot where
  id : Nat
  ring : Nat
  lsize : Nat
  head : Nat
  tail : Nat
  deriving DecidableEq, Repr

/-- A resident graph (R382, R383): the node it acts on next, and the job its launch node waits for. -/
structure Graph where
  pen : Nat
  table : Nat
  n : Nat
  node : Nat
  signal : Nat
  job : Option Nat
  deriving DecidableEq, Repr

/-- A spill descriptor (R290). -/
structure Spill where
  base : Nat
  quota : Nat
  lsize : Nat
  pen : Nat
  tail : Nat
  head : Nat
  deriving DecidableEq, Repr

def Spill.reset : Spill := ⟨0, 0, 0, 0, 0, 0⟩

/-- Where a request stands (R362): it runs its chunk section, waits for its merge, or has run its completion pass and waits
until the writes of that pass have performed (R360). -/
inductive GPhase where
  | chunk | merge | release
  deriving DecidableEq, Repr

/-- A token-board entry (R359, Table 3). -/
structure BoardEnt where
  need : Nat
  got : Nat
  code : Nat
  newM1 : Nat
  accepted : Nat
  nposM1 : Nat
  lost : Bool
  failed : Bool
  iter : Nat
  /-- Best pairs of positions 0 to 3: value and index. -/
  pairs : List (Nat × Nat)
  drafts : List Nat
  user : Nat
  witer : Nat
  deriving DecidableEq, Repr

def BoardEnt.empty : BoardEnt := ⟨0, 0, 0, 0, 0, 0, false, false, 0, [], [], 0, 0⟩

/-- A request that a groom runs (R362): its command, the pointers read from the descriptor, the board entry's address,
the words fetched, the phase, the word and the chunk that come next, the board entry while the completion section
runs, and a failure with the program counter of its record. -/
structure GroomRun where
  cmd : Cmd
  prog : Nat
  cnt : Nat
  bias : Nat
  gram : Nat
  board : Nat
  words : List Nat
  phase : GPhase
  ix : Nat
  chunk : Nat
  entry : Option BoardEnt
  fail : Option (Code × Nat)
  deriving DecidableEq, Repr

/-- A groom (R355, R362): its registers, its mode, the request it runs, and the requests that have arrived, oldest first,
by task and command id. -/
structure Groom where
  w : List (Nat × BitVec 512)
  k : List (Nat × BitVec 32)
  greedy : Bool
  run : Option GroomRun
  queue : List (Nat × BitVec 16)
  deriving DecidableEq, Repr

def Groom.reset : Groom := { w := [], k := [], greedy := false, run := none, queue := [] }

/-- An activity slot of the budget governor (R394), with the values that wait for its next boundary and
whether it has held a step in this period. -/
structure Budget where
  enable : Bool
  kind : Nat
  sel : Nat
  period : Nat
  amount : Nat
  used : Nat
  held : Nat
  heldNow : Bool
  nextSel : Nat
  nextPeriod : Nat
  nextAmount : Nat
  deriving DecidableEq, Repr

def Budget.reset : Budget := ⟨false, 0, 0, 0, 0, 0, 0, false, 0, 0, 0⟩

/-- A bank of an HBM stack (R398, R399): the open row, activation counts, rows whose refresh management
is due when they close, whether the bank is held, and the rows of the requests that wait meanwhile, oldest first. -/
structure Bank where
  row : Option Nat
  counts : List (Nat × Nat)
  due : List Nat
  hold : Bool
  queue : List Nat
  deriving DecidableEq, Repr

def Bank.reset : Bank := ⟨none, [], [], false, []⟩

/-- `hbm.rfm` of a stack (R398). -/
structure Rfm where
  thr : Nat
  alerts : Nat
  deriving DecidableEq, Repr

def Rfm.reset : Rfm := ⟨2048, 0⟩

/-- A message that leaves the package: where it comes from (a context, or the task and id of a command), its
destination package and contents (R405, R406, R335). -/
inductive Outbound where
  | store (ctx dst pa : Nat) (data : List Byte)
  | load (ctx dst pa n : Nat)
  | atomic (ctx dst pa op n a c : Nat)
  | response (dst data code : Nat)
  /-- Bytes that an engine writes: `bulk` for those of a transfer unit's send, which travel in class 2, else a remote store
  (R405, R407). -/
  | send (bulk : Bool) (task : Nat) (cid : BitVec 16) (dst pa : Nat) (data : List Byte)
  | giveBack (dst : Nat) (blocks : List Nat)
  /-- Blocks lent to another package, with the lender's deadline for a RECALL (R335). -/
  | lend (dst pool : Nat) (blocks : List Nat)
  | recall (dst : Nat) (blocks : List Nat) (deadline : Nat)
  /-- A record of the event log forwarded to another package (R405). -/
  | event (dst : Nat) (words : List Word)
  /-- A payload that is on its way through this package, with the direction in which it travels (R401, R404). -/
  | transit (cls dst travel : Nat) (payload : List Byte)
  deriving DecidableEq, Repr

/-- A flit that waits for its acknowledgement (R404): its number, its 256 bytes, and the message that it carries. -/
structure Flit where
  seq : Nat
  data : List Byte
  msg : Option Outbound
  deriving DecidableEq, Repr

/-- One torus link (R401 to R405): whether it is up, the next number it sends and expects, the flits not
acknowledged with their failed replays, flits to send again, messages that the sibling link has left to go before any new
one, and credits to spend and to return, by class. -/
structure Link where
  up : Bool
  txSeq : Nat
  rxSeq : Nat
  replay : List Flit
  tries : Nat
  resend : List (List Byte)
  moved : List Outbound
  credits : List (Nat × Nat)
  owed : List (Nat × Nat)
  /-- A replay request that the receiver owes, and whether it has gone out and has not been satisfied. -/
  asked : Option Nat
  askSent : Bool
  deriving DecidableEq, Repr

def Link.reset : Link := ⟨true, 0, 0, [], 0, [], [], [], [], none, false⟩

/-- An inbound window (R409). -/
structure IoWin where
  map : Word
  src : Word
  deriving DecidableEq, Repr

def IoWin.reset : IoWin := ⟨0, 0⟩

/-- Messages of an engine command that a receiver has not acknowledged (R250, R407): context, task, id and job of the
command, those left, and among them those that the first link has acknowledged on their way to a package farther off; whether
they are a send; and what the record of one that is refused says of the command (R408). A unit that acts for no command has
context 0x3FF, task 0, and its pen as id. -/
structure Sent where
  ctx : Nat
  task : Nat
  cid : BitVec 16
  job : Nat
  left : Nat
  linked : Nat
  bulk : Bool
  pen : Nat
  wid : Word
  pc : Nat
  loops : Nat
  deriving DecidableEq, Repr

/-- A controller instance (R411, R415, R418). -/
structure Fw where
  vera : Nat
  verb : Nat
  state : Nat
  fail : Bool
  active : Bool
  minver : Nat
  alive : Nat
  hoa : Word
  slotA : List (Nat × Byte)
  slotB : List (Nat × Byte)
  /-- UPDATE has been ordered, and the running image has not reached its boundary (R418). -/
  asked : Bool
  /-- Writes and messages of a new image, held in the hand-over buffer, oldest first (R418). -/
  heldWrites : List (Nat × Word)
  heldMsgs : List Outbound
  deriving DecidableEq, Repr

def Fw.reset : Fw := ⟨0, 0, 0, false, false, 0, 0, 0, [], [], false, [], []⟩

/-- The event log (R420): its registers and the records that wait for a ring. -/
structure EvLog where
  base : Word
  ctl : Word
  head : BitVec 32
  tail : BitVec 32
  lost : BitVec 32
  held : List (List Word)
  deriving DecidableEq, Repr

def EvLog.reset : EvLog := ⟨0, 0, 0, 0, 0, []⟩

/-- A mailbox (R424). -/
structure Mbx where
  cmd : BitVec 16
  busy : Bool
  status : BitVec 16
  args : List (Nat × Word)
  data : List (Nat × Byte)
  deriving DecidableEq, Repr

def Mbx.reset : Mbx := ⟨0, false, 0, [], []⟩

/-- What moves next where the spec leaves the order or the duration open (R435) (model): a step of the
opcode table, a cycle of a cluster, or an error that ECC corrects. -/
inductive Move where
  | event (i : Instr)
  | cycle (cluster : Nat)
  /-- A single-bit error in a word is corrected (R410). -/
  | correct
  deriving DecidableEq, Repr

/-- What a task that has left its context still has under way (R250, R406): its context, task, pen, WID, pc and job,
the acknowledgements that its stores await, and the entries of its released regions that have not performed. -/
structure Late where
  ctx : Nat
  task : Nat
  pen : Nat
  wid : Word
  pc : Nat
  job : Nat
  loops : Nat
  acks : Nat
  ents : List SEnt
  deriving DecidableEq, Repr

/-- A write of the control plane that a budget of its pen holds (R396): pen, address, bytes and value. -/
structure Posted where
  pen : Nat
  pa : Nat
  n : Nat
  v : Nat
  deriving DecidableEq, Repr

/-- The state of the part. -/
structure State where
  /-- Agents' next moves (model): the steps that happen next, in order; see `Machine/Auto.lean`. -/
  plan : List Move
  /-- The cluster whose cycle comes next when nothing is planned, and the count of steps so taken, by which the planes
  take turns (R16) (model). -/
  turn : Nat
  round : Nat
  /-- Count of free values used (model). -/
  free : Nat
  /-- The accesses of a step that budgets have to admit before it is done, newest first, while it is run (model). -/
  tally : Option (List Touch)
  /-- Accesses that budgets have admitted of a unit's next step, which waits for more (R396) (model): 0 to 63 the inbound agent
  for a pen, 64 to 127 the placement of a task of a pen, 128 to 159 the groom of a cluster, 160 to 163 the drover of a die, 164 to 167
  its service of a task, 256 to 383 a slot of the queue table, 512 to 575 a graph, from 1024 on a registered queue (even) or
  the signal of a job (odd). -/
  paidBy : List (Nat × Nat)
  /-- Heat that slots have released and that an ostler has still to add (R321, R396), oldest first: its cluster, the stall
  field of the slot and its mass. -/
  heats : List (Nat × Nat × Nat)
  /-- Writes of the control plane that wait for a budget of their pen (R396), oldest first. -/
  posts : List Posted
  issue : Issue
  /-- The cluster whose groom runs a word (model). -/
  groomNow : Nat
  /-- The data plane has been released from reset (R413). -/
  booted : Bool
  /-- Package sequence counter (R18). -/
  seq : Nat
  mem : List (Nat × Byte)
  ctxs : List (Nat × Ctx)
  cores : List (Nat × Core)
  clusters : List (Nat × Cluster)
  pens : List (Nat × Pen)
  /-- Use counter of the caches' least-recently-used order (model). -/
  use : Nat
  /-- `l2.fmask` (R261), by (cluster × 64 + slice) × 64 + pen. -/
  fmask : List (Nat × BitVec 16)
  /-- TLBs of the units of the I/O die and of the drovers (R227), by the number of the unit. -/
  dieTlb : List (Nat × List TlbEnt)
  /-- The table-frame map (R223): marked 64 KiB frames of the near range. -/
  tframes : List Nat
  /-- This package's number, `lnk.id` (R400). -/
  pkg : Nat
  cmds : List Cmd
  /-- Accepted launches, jobs, tasks and gangs by number, and the next numbers (R378). -/
  launches : List (Nat × Launch)
  jobs : List (Nat × Job)
  tasks : List (Nat × Task)
  gangs : List (Nat × Gang)
  nextLaunch : Nat
  nextJob : Nat
  nextTask : Nat
  nextGang : Nat
  /-- Barrier operations in flight, by home core (R388). -/
  barReqs : List (Nat × List BarReq)
  queues : List (Nat × WorkQ)
  pools : List (Nat × Pool)
  userQs : List UserQ
  uqSlots : List (Nat × UqSlot)
  /-- Resident graphs, and accepted kind 2 entries that wait for the walker: pen and descriptor. -/
  graphs : List (Nat × Graph)
  graphWait : List (Nat × Nat)
  /-- Spill descriptors of engine queues (unit number of SPILL_SET) and of groom request queues
  (256 + cluster) (R290, R424). -/
  spills : List (Nat × Spill)
  grooms : List (Nat × Groom)
  budgets : List (Nat × Budget)
  /-- Banks, by stack × 2^16 + bank, and the register of each stack. -/
  banks : List (Nat × Bank)
  rfms : List (Nat × Rfm)
  links : List (Nat × Link)
  ioWins : List (Nat × IoWin)
  outbox : List Outbound
  /-- Admitted inbound requests that a budget holds, oldest first (R396, R408). -/
  inq : List Inbound
  /-- The engine command whose step this is (model), and the messages of commands that await acknowledgement. -/
  engNow : Option Sent
  sents : List Sent
  /-- What tasks that have left their contexts still have under way, oldest first (R250, R406). -/
  lates : List Late
  fws : List (Nat × Fw)
  /-- The part is in the safe state (R414). -/
  safe : Bool
  evl : EvLog
  /-- Mailboxes: 0 the system's, 1 + p that of pen p. -/
  mbxs : List (Nat × Mbx)
  /-- The mailbox that the management controller looks at next (R424). -/
  mbxNext : Nat
  /-- Writes of a pen's translation registers that wait while the management controller is updated (R411), oldest first: pen,
  offset and value. -/
  penQ : List (Nat × Nat × Word)
  /-- Single-bit errors that ECC has corrected, as telemetry counts them (R410). -/
  corrected : Nat
  /-- Leaves of the attestation key used (R422), held in fuses. -/
  leaf : Nat
  deriving DecidableEq, Repr

/-- The part right after a cold reset and before the first step of bring-up (R413): the data plane is in
reset, every register holds the value of its table, and memory lists nothing (assumption log 1). -/
def State.reset : State :=
  { plan := [], turn := 0, round := 0, free := 0, tally := none, paidBy := [], heats := [], posts := [],
    issue := Issue.none, groomNow := 0, booted := false, seq := 0, mem := [],
    ctxs := [], cores := [], clusters := [], pens := [], use := 0, fmask := [], dieTlb := [], tframes := [], pkg := 0,
    cmds := [], launches := [], jobs := [], tasks := [], gangs := [], nextLaunch := 1, nextJob := 1,
    nextTask := 1, nextGang := 1, barReqs := [], queues := [], pools := [], userQs := [],
    uqSlots := [], graphs := [], graphWait := [], spills := [], grooms := [], budgets := [],
    banks := [], rfms := [], links := [], ioWins := [], outbox := [], inq := [], engNow := none, sents := [],
    lates := [], fws := [], safe := false,
    evl := EvLog.reset, mbxs := [], mbxNext := 0, penQ := [], corrected := 0, leaf := 0 }

end Sys2Proof.Machine
end

