-- ==== Sys2Proof/Machine/Access.lean ====
section
/-! DEFINITION. Reads and writes of registers and of the tables of the state.

Every register has one home; the fixed registers x0, p0 and m0 live here (R117, R139). -/

namespace Sys2Proof.Machine

/-- The number of a fault code (R11, Table 4). -/
def Code.num : Code → Nat
  | .illegalSyllable => 0x01 | .illegalSlot => 0x02 | .reservedField => 0x03 | .hctInvalid => 0x04
  | .nonuniformBranch => 0x05 | .loopOverflow => 0x06 | .loopUnderflow => 0x07
  | .regionFull => 0x08 | .privilege => 0x09 | .softTrap => 0x0A
  | .bankConflict => 0x10 | .tileNotArmed => 0x11 | .layoutMismatch => 0x12 | .ringMisuse => 0x13
  | .formatMismatch => 0x14 | .genWrite => 0x15 | .sparseMeta => 0x16
  | .notPresent => 0x20 | .permission => 0x21 | .engineMask => 0x22 | .orderKind => 0x23
  | .misaligned => 0x24 | .tableStructure => 0x25
  | .kvNotNear => 0x30 | .kvStale => 0x31 | .kvExtent => 0x32 | .yardFull => 0x33
  | .kvRecalled => 0x34 | .queueQuota => 0x38 | .barrierMisuse => 0x39 | .jobRaise => 0x3A
  | .sampleParam => 0x40 | .logitFault => 0x41 | .machineCheck => 0x70

/-- The code that a number names; `MACHINE_CHECK` for a number outside Table 4, which the part never
produces. -/
def Code.ofNum (n : Nat) : Code :=
  match n with
  | 0x01 => .illegalSyllable | 0x02 => .illegalSlot | 0x03 => .reservedField | 0x04 => .hctInvalid
  | 0x05 => .nonuniformBranch | 0x06 => .loopOverflow | 0x07 => .loopUnderflow
  | 0x08 => .regionFull | 0x09 => .privilege | 0x0A => .softTrap
  | 0x10 => .bankConflict | 0x11 => .tileNotArmed | 0x12 => .layoutMismatch | 0x13 => .ringMisuse
  | 0x14 => .formatMismatch | 0x15 => .genWrite | 0x16 => .sparseMeta
  | 0x20 => .notPresent | 0x21 => .permission | 0x22 => .engineMask | 0x23 => .orderKind
  | 0x24 => .misaligned | 0x25 => .tableStructure
  | 0x30 => .kvNotNear | 0x31 => .kvStale | 0x32 => .kvExtent | 0x33 => .yardFull
  | 0x34 => .kvRecalled | 0x38 => .queueQuota | 0x39 => .barrierMisuse | 0x3A => .jobRaise
  | 0x40 => .sampleParam | 0x41 => .logitFault
  | _ => .machineCheck

/-! ### Registers of a context -/

/-- x0 reads as zero (R117). -/
def Ctx.x (c : Ctx) (i : BitVec 6) : Word := if i = 0 then 0 else sget 0 c.xs i.toNat

/-- A write to x0 is discarded (R117). -/
def Ctx.setX (c : Ctx) (i : BitVec 6) (v : Word) : Ctx :=
  if i = 0 then c else { c with xs := sput 0 c.xs i.toNat v }

/-- p0 reads as true (R117). -/
def Ctx.p (c : Ctx) (i : BitVec 4) : Bool := i = 0 || c.ps.getLsbD i.toNat

/-- `ps` with predicate `i` set to `v`; a write to p0 is discarded (R117). -/
def setPred (ps : BitVec 16) (i : BitVec 4) (v : Bool) : BitVec 16 :=
  if i = 0 then ps
  else if v then ps ||| (1#16 <<< i.toNat) else ps &&& ~~~(1#16 <<< i.toNat)

def Ctx.setP (c : Ctx) (i : BitVec 4) (v : Bool) : Ctx := { c with ps := setPred c.ps i v }

def Ctx.v (c : Ctx) (i : BitVec 6) : VWord := sget 0 c.vs i.toNat
/-- A write of v[i]; what the gather port was still to bring into it is overwritten (R161). -/
def Ctx.setV (c : Ctx) (i : BitVec 6) (v : VWord) : Ctx :=
  { c with vs := sput 0 c.vs i.toNat v, gath := c.gath.filter (fun r => r.vd != i) }

/-- m0 reads as all ones (R139). -/
def Ctx.m (c : Ctx) (i : BitVec 4) : BitVec 64 :=
  if i = 0 then BitVec.allOnes 64 else sget 0 c.ms i.toNat

/-- A write to m0 is discarded (R139). -/
def Ctx.setM (c : Ctx) (i : BitVec 4) (v : BitVec 64) : Ctx :=
  if i = 0 then c else { c with ms := sput 0 c.ms i.toNat v }

def Ctx.e (c : Ctx) (i : BitVec 4) : BitVec 512 := sget 0 c.es i.toNat
def Ctx.setE (c : Ctx) (i : BitVec 4) (v : BitVec 512) : Ctx := { c with es := sput 0 c.es i.toNat v }

def Ctx.bank (c : Ctx) (i : BitVec 2) : VWord := sget 0 c.acc i.toNat
def Ctx.setBank (c : Ctx) (i : BitVec 2) (v : VWord) : Ctx :=
  { c with acc := sput 0 c.acc i.toNat v }

def Ctx.ring (c : Ctx) (h : BitVec 4) : Ring := sget Ring.none c.rings h.toNat
def Ctx.setRing (c : Ctx) (h : BitVec 4) (r : Ring) : Ctx :=
  { c with rings := sput Ring.none c.rings h.toNat r }

/-- The beat format entry `mftN` (R178). -/
def Ctx.fmtEnt (c : Ctx) (n : BitVec 3) : Word := sget 0 c.mft n.toNat

/-- An engine register (R267). -/
def Ctx.engReg (c : Ctx) (i : Nat) : Word := sget 0 c.eng i

/-- A status entry (R272, R273). -/
def Ctx.stat (c : Ctx) (id : BitVec 16) : Word := sget 0 c.status (id.toNat % 64)
def Ctx.setStat (c : Ctx) (id : BitVec 16) (w : Word) : Ctx :=
  { c with status := sput 0 c.status (id.toNat % 64) w }

/-- The entry of an HCT index (R33). -/
def Ctx.hctAt (c : Ctx) (i : Nat) : HctEnt := sget (.unloaded 0) c.hct i
def Ctx.setHct (c : Ctx) (i : Nat) (e : HctEnt) : Ctx :=
  { c with hct := sput (.unloaded 0) c.hct i e }

/-! ### Tables of the state -/

/-- Core and cluster of a context (R12). -/
def coreOf (ctx : Nat) : Nat := ctx / 2
def clusterOf (ctx : Nat) : Nat := ctx / 32
def clusterOfCore (core : Nat) : Nat := core / 16

def State.ctx (s : State) (c : Nat) : Ctx := sget Ctx.idle s.ctxs c
def State.setCtx (s : State) (c : Nat) (v : Ctx) : State := { s with ctxs := sput Ctx.idle s.ctxs c v }
def State.updCtx (s : State) (c : Nat) (f : Ctx → Ctx) : State := s.setCtx c (f (s.ctx c))

def State.core (s : State) (c : Nat) : Core := sget Core.reset s.cores c
def State.setCore (s : State) (c : Nat) (v : Core) : State :=
  { s with cores := sput Core.reset s.cores c v }
def State.updCore (s : State) (c : Nat) (f : Core → Core) : State := s.setCore c (f (s.core c))

def State.cluster (s : State) (c : Nat) : Cluster := sget Cluster.reset s.clusters c
def State.setCluster (s : State) (c : Nat) (v : Cluster) : State :=
  { s with clusters := sput Cluster.reset s.clusters c v }
def State.updCluster (s : State) (c : Nat) (f : Cluster → Cluster) : State :=
  s.setCluster c (f (s.cluster c))

def State.pen (s : State) (p : Nat) : Pen := sget Pen.reset s.pens p
def State.setPen (s : State) (p : Nat) (v : Pen) : State := { s with pens := sput Pen.reset s.pens p v }
def State.updPen (s : State) (p : Nat) (f : Pen → Pen) : State := s.setPen p (f (s.pen p))

def Core.tile (c : Core) (i : Nat) : TileEnt := sget TileEnt.reset c.tiles i
def Core.setTile (c : Core) (i : Nat) (t : TileEnt) : Core :=
  { c with tiles := sput TileEnt.reset c.tiles i t }

/-- The context that is issuing, as the bundle so far has left it. -/
def State.cur (s : State) : Ctx := s.ctx s.issue.ctx

/-- Change the issuing context. -/
def State.updCur (s : State) (f : Ctx → Ctx) : State := s.updCtx s.issue.ctx f

/-- The core that is issuing. -/
def State.curCore (s : State) : Core := s.core (coreOf s.issue.ctx)
def State.updCurCore (s : State) (f : Core → Core) : State := s.updCore (coreOf s.issue.ctx) f

/-- The cluster's cycle count as the context sees it (R13). -/
def State.now (s : State) (ctx : Nat) : Nat := (s.cluster (clusterOf ctx)).cycle

/-- Context k of a core owns tile slots by the partition (R94). -/
def State.owns (s : State) (ctx slot : Nat) : Bool :=
  let t0 := (s.core (coreOf ctx)).tiles0
  if ctx % 2 = 0 then decide (slot < t0) else decide (t0 ≤ slot) && decide (slot < 256)

/-- A controller whose work is held: it hands over, or it has been reverted or stopped (Table 1 of R411, R418, R419). -/
def State.updating (s : State) (inst : Nat) : Bool := decide (2 ≤ (sget Fw.reset s.fws inst).state)

end Sys2Proof.Machine
end

