-- ==== Sys2Proof/Machine/Hbm.lean ====
section
/-! DEFINITION. What every unit that reaches the HBM meets: budgets (R394 to R397) and row activation
(R398). -/

namespace Sys2Proof.Machine

/-! ### Budgets (R396, R397) -/

/-- The slot is in force for an activity. -/
def Budget.covers (b : Budget) (kind sel : Nat) : Bool := b.enable && b.kind == kind && b.sel == sel

/-- A step of the activity cannot start: some slot it belongs to has used < amount false (R396). -/
def State.budgetBlocked (s : State) (kind sel : Nat) : Bool :=
  s.budgets.any (fun kb => kb.2.covers kind sel && decide (kb.2.amount ≤ kb.2.used))

/-- The step waits: each slot that blocks it counts the first hold of its period (R396). -/
def State.budgetHold (s : State) (kind sel : Nat) : State :=
  { s with budgets := s.budgets.map (fun (kb : Nat × Budget) =>
      if kb.2.covers kind sel && decide (kb.2.amount ≤ kb.2.used) && !kb.2.heldNow then
        (kb.1, { kb.2 with held := Nat.min (kb.2.held + 1) (2 ^ 32 - 1), heldNow := true })
      else kb) }

/-- The step adds its whole charge to each slot it belongs to (R396). -/
def State.budgetCharge (s : State) (kind sel charge : Nat) : State :=
  { s with budgets := s.budgets.map (fun (kb : Nat × Budget) =>
      if kb.2.covers kind sel then
        (kb.1, { kb.2 with used := Nat.min (kb.2.used + charge) (2 ^ 32 - 1) })
      else kb) }

/-! ### Rows (R398, R399; the map is Config's, assumption log 9) -/

/-- Key of a bank in `State.banks`. -/
def bankKey (stack bank : Nat) : Nat := stack * 2 ^ 16 + bank

/-- The open row closes (R398): where its refresh management is due, that is issued: its count is 0, and the bank is
held. -/
def Bank.close (b : Bank) : Bank :=
  match b.row with
  | none => b
  | some r =>
    if b.due.contains r then
      { b with row := none, counts := sput 0 b.counts r 0, due := b.due.erase r, hold := true }
    else { b with row := none }

/-- A row opens in a bank with none open (R398): its count increments, and at the threshold it returns to 0, an alert is
raised and refresh management is due when the row closes. -/
def Bank.activate (b : Bank) (row thr : Nat) : Bank × Bool :=
  let n := sget 0 b.counts row + 1
  if thr ≤ n then
    ({ b with row := some row, counts := sput 0 b.counts row 0, due := b.due ++ [row] }, true)
  else ({ b with row := some row, counts := sput 0 b.counts row n }, false)

/-- A request for a row (R398, R399): a held bank queues it, the open row serves it, and another row opens once the open
one has closed. The Bool is the alert. -/
def Bank.request (b : Bank) (row thr : Nat) : Bank × Bool :=
  if b.hold then ({ b with queue := b.queue ++ [row] }, false)
  else if b.row = some row then (b, false)
  else
    let c := b.close
    if c.hold then ({ c with queue := c.queue ++ [row] }, false) else c.activate row thr

/-- The requests that have waited reach the bank in order (R399), with the alerts they raise. -/
def Bank.serve (b : Bank) (thr : Nat) : List Nat → Bank × Nat
  | [] => (b, 0)
  | row :: r =>
    let (b, a) := b.request row thr
    let (b, n) := b.serve thr r
    (b, n + if a then 1 else 0)

/-- The hold of a bank ends (R399). -/
def Bank.resume (b : Bank) (thr : Nat) : Bank × Nat := { b with hold := false, queue := [] }.serve thr b.queue

/-- `hbm.rfm` counts alerts. -/
def Rfm.raise (r : Rfm) (n : Nat) : Rfm := { r with alerts := Nat.min (r.alerts + n) (2 ^ 32 - 1) }

def State.rfm (s : State) (stack : Nat) : Rfm := sget Rfm.reset s.rfms stack

/-- A request for the row of a near address reaches its bank. -/
def State.openRow (s : State) (pa : Nat) : State :=
  let stack := (Config.hbmStack pa).toNat
  let key := bankKey stack (Config.hbmBank pa).toNat
  let r := s.rfm stack
  let (b, alert) := (sget Bank.reset s.banks key).request (Config.hbmRow pa) r.thr
  { s with
    banks := sput Bank.reset s.banks key b
    rfms := if alert then sput Rfm.reset s.rfms stack (r.raise 1) else s.rfms }

/-- The 64-byte pieces that `n` bytes from `pa` meet. -/
def piecesOf (pa n : Nat) : List Nat :=
  (List.range ((pa + n + 63) / 64 - pa / 64)).map (fun i => 64 * (pa / 64 + i))

/-- One HBM request of a pen (kind 3 of R394) is made: charged by 64 bytes, and every piece of it reaches its row. A pen that
is none of the 64 is charged nowhere. -/
def State.hbmServe (s : State) (pen pa n : Nat) : State :=
  if pa < 2 ^ 39 then (piecesOf pa n).foldl State.openRow (s.budgetCharge 3 pen ((n + 63) / 64)) else s

/-- The controller of the memory that holds an address serves nothing now (R411, R419): a stack's that has been stopped, or a far
port's that is updated or has been stopped. -/
def State.portHeld (s : State) (pa : Nat) : Bool :=
  if pa < 2 ^ 39 then decide ((sget Fw.reset s.fws (14 + (Config.hbmStack pa).toNat)).state = 5)
  else decide (2 ^ 43 ≤ pa) && decide (pa < 2 ^ 44) && s.updating (22 + (Config.farPort (pa / 2 ^ 12 % 4)).toNat)

/-! ### Steps that budgets admit access by access (R396, R397) -/

/-- An access: noted, while a step is run for what it has to pay; else made. -/
def State.note (s : State) (t : Touch) : State :=
  match s.tally with
  | none => s.hbmServe t.pen t.pa t.n
  | some l => { s with tally := some (t :: l) }

/-- An HBM request that is no part of an activity of its own. -/
def State.hbmRequest (s : State) (pen pa n : Nat) : State := s.note ⟨0, false, pen, pa, n⟩

/-- A request for a pen is made now: no budget of the pen holds it, nor earlier writes of the control plane for the pen; or it is
a part of a step that is admitted as a whole (R396). -/
def State.mayAsk (s : State) (pen pa : Nat) : Bool :=
  s.tally.isSome || !(s.budgetBlocked 3 pen || s.portHeld pa || s.posts.any (fun w => w.pen == pen))

/-- What an access is charged to an activity (Table 2 of R394): 1 for kind 2, an ostler's walk; its 64-byte units for kind 1,
a drover's traffic. -/
def Touch.charge (t : Touch) (kind : Nat) : Nat :=
  if kind = 0 ∨ t.act ≠ kind then 0 else if kind = 2 then 1 else (t.n + 63) / 64

/-- Accesses are made one after another as budgets admit them: those of the activity, and of the pen's HBM bandwidth; `bound`
is false for a recall move, which no budget holds (R331). None is made while the port of its memory serves nothing. Answers how
many have been made. -/
def State.pay (kind sel : Nat) (bound : Bool) : List Touch → Nat → State → Nat × State
  | [], n, s => (n, s)
  | t :: r, n, s =>
    if bound && !t.ptw && t.charge kind != 0 && s.budgetBlocked kind sel then (n, s.budgetHold kind sel)
    else if bound && !t.ptw && decide (t.pa < 2 ^ 39) && s.budgetBlocked 3 t.pen then (n, s.budgetHold 3 t.pen)
    else if s.portHeld t.pa then (n, s)
    else
      let s := if t.charge kind = 0 then s else s.budgetCharge kind sel (t.charge kind)
      State.pay kind sel bound r (n + 1) (s.hbmServe t.pen t.pa t.n)

/-- The accesses that a step has noted, oldest first. -/
def State.noted (s : State) : List Touch := (s.tally.getD []).reverse

/-- A step is done once budgets have admitted every access that it makes, one after another, of which `paid` have been
admitted before (R396): its answer and the state after it; or how many have been admitted by now, and the state with
nothing else done. Within a step that is itself admitted so, it is a part of that step. -/
def State.metered {α : Type} (s : State) (kind sel : Nat) (bound : Bool) (paid : Nat) (f : State → α × State) :
    Except Nat α × State :=
  match s.tally with
  | some _ => let r := f s; (.ok r.1, r.2)
  | none =>
    let r := f { s with tally := some [] }
    let l := r.2.noted
    let held := State.pay kind sel bound (l.drop paid) paid s
    if held.1 < l.length then (.error held.1, held.2)
    else (.ok r.1, (State.pay kind sel bound (l.drop paid) paid { r.2 with tally := none }).2)

/-- The next step of unit `u` of `State.paidBy`, done once budgets admit it. -/
def State.meterUnit (s : State) (u kind sel : Nat) (f : State → State) : State :=
  match s.metered kind sel true (sget 0 s.paidBy u) (fun s => ((), f s)) with
  | (.error n, s) => { s with paidBy := sput 0 s.paidBy u n }
  | (.ok _, s) => { s with paidBy := sput 0 s.paidBy u 0 }

end Sys2Proof.Machine
end

