-- ==== Sys2Proof/Machine/Memory.lean ====
section
/-! DEFINITION. Physical memory, translation, the caches, and the accesses of cores and engines
(chapters 10, 11 and 12).

`State.mem` holds the bytes that the coherent levels (the L2s and what lies behind them) agree on. An
L1 line may hold older bytes (R240, R260). A store performs when it leaves the core (assumption
log 5). -/

namespace Sys2Proof.Machine

/-! ### Physical addresses (R217) -/

/-- The tier code of the range that holds a physical address, or none for a hole. -/
def tierOf (pa : Nat) : Option Nat :=
  if pa < 2 ^ 39 then some 0
  else if 2 ^ 43 ≤ pa ∧ pa < 2 ^ 44 then some 1
  else if 2 ^ 48 ≤ pa ∧ pa < 2 ^ 49 then some 3
  else if 2 ^ 51 ≤ pa ∧ pa < 2 ^ 51 + 64 * 2 ^ 40 ∧ pa % 2 ^ 40 < 2 ^ 39 then some 2
  else none

/-- A remote address that names this package is its near address (R217). -/
def State.home (s : State) (pa : Nat) : Nat :=
  if tierOf pa = some 2 ∧ (pa - 2 ^ 51) / 2 ^ 40 = s.pkg then pa % 2 ^ 40 else pa

/-- `n` coherent bytes from `pa`, as a number (R2). -/
def State.physRead (s : State) (pa n : Nat) : Nat := cellsRead s.mem 52 (s.home pa) n

/-- One aligned 8-byte word. -/
def State.phys64 (s : State) (pa : Nat) : Word := BitVec.ofNat 64 (s.physRead pa 8)

/-! ### L2 (R259 to R263) -/

/-- Where a line may reside under its policy (Table 1): slice and set. -/
def l2Place (cpol pa : Nat) : Nat × Nat :=
  if cpol = 2 ∨ cpol = 3 then (bits pa 21 16, bits pa 12 7)
  else
    (bits pa 12 7 ^^^ bits pa 18 13 ^^^ bits pa 24 19 ^^^ bits pa 30 25 ^^^ bits pa 36 31 ^^^
      bits pa 42 37 ^^^ bits pa 48 43 ^^^ bits pa 51 49, bits pa 18 13)

/-- `l2.fmask` of a cluster, slice and pen (R261): reset 0xFFFF. -/
def State.fillMask (s : State) (cluster slice pen : Nat) : BitVec 16 :=
  sget 0xFFFF s.fmask ((cluster * 64 + slice) * 64 + pen)

/-- `l2.occ` (R261, R263): valid lines of a slice whose tag is the pen. -/
def Cluster.occ (c : Cluster) (slice pen : Nat) : Nat :=
  (c.l2.filter (fun l => l.slice == slice && l.pen == pen)).length

/-- The way of the mask whose line leaves first (R262): an invalid way, else the largest eviction
priority, else the least recently used. -/
def victimWay (lines : List L2Line) (mask : BitVec 16) : Option Nat :=
  let ways := (List.range 16).filter (fun w => mask.getLsbD w)
  match ways.find? (fun w => !(lines.any (fun l => l.way == w))) with
  | some w => some w
  | none =>
    let cand := lines.filter (fun l => mask.getLsbD l.way)
    match cand with
    | [] => none
    | l :: r =>
      some (r.foldl (fun b x =>
        if b.evp < x.evp || (b.evp == x.evp && x.stamp < b.stamp) then x else b) l).way

/-- Mark the monitors of a physical 128-byte line lost (R258): their contexts wake with reason 2. -/
def wakeCtx (why : Nat) (c : Ctx) : Ctx :=
  match c.st with
  | .parked (.waita rd slice line since none) => { c with st := .parked (.waita rd slice line since (some why)) }
  | _ => c

def State.loseMons (s : State) (cluster : Nat) (ms : List Mon) : State :=
  ms.foldl (fun s m => (s.updCtx m.ctx (wakeCtx 2)).updCluster cluster
    (fun c => { c with mons := c.mons.filter (· != m) })) s

/-- Remove a line from a cluster's L2, as an eviction does; monitors of the line are lost (R258). -/
def State.evictL2 (s : State) (cluster : Nat) (l : L2Line) : State :=
  let s := if l.dirty.isEmpty then s else s.hbmRequest l.pen l.pa 128
  let s := s.updCluster cluster (fun c => { c with l2 := c.l2.filter (· != l) })
  s.loseMons cluster ((s.cluster cluster).mons.filter (fun m => m.line / 128 == l.pa / 128))

/-- A line of a cluster's L2. -/
def State.l2Line (s : State) (cluster line : Nat) : Option L2Line :=
  (s.cluster cluster).l2.find? (fun l => l.pa == line)

/-- An access that misses the L2 allocates nothing there: its policy bypasses it, or the pen's mask is 0 (R226, R262). -/
def State.unfilled (s : State) (cluster pen cpol line : Nat) : Bool :=
  cpol == 5 || ((s.l2Line cluster line).isNone && s.fillMask cluster (l2Place cpol line).1 pen == 0)

/-- One access of a cluster to `n` bytes at `pa`, within one line, of the L2 (R261 to R263): says whether it hit. A line hits
wherever in the cluster it stands, also where the access would place it elsewhere (assumption log 100). A miss fills under the
pen's mask; one that allocates nothing is served as cpol 5 accesses are. -/
def State.touchL2 (s : State) (cluster pen cpol evp pa n : Nat) : Bool × State :=
  let line := pa / 128 * 128
  let (slice, set) := l2Place cpol line
  if s.unfilled cluster pen cpol line then (false, s.hbmRequest pen pa n)
  else
    let s := { s with use := s.use + 1 }
    let c := s.cluster cluster
    match c.l2.find? (fun l => l.pa == line) with
    | some l =>
      (true, s.setCluster cluster { c with l2 := c.l2.map (fun k => if k == l then { k with stamp := s.use } else k) })
    | none =>
      let here := c.l2.filter (fun l => l.slice == slice && l.set == set)
      let s := s.hbmRequest pen line 128
      match victimWay here (s.fillMask cluster slice pen) with
      | none => (false, s)
      | some w =>
        let s := match here.find? (fun l => l.way == w) with
          | some old => s.evictL2 cluster old
          | none => s
        (false, s.updCluster cluster (fun c => { c with
          l2 := ⟨slice, set, w, line, pen, evp, s.use, []⟩ :: c.l2 }))

/-- The pieces of `n` bytes from `pa` that lie each in one 128-byte line, lowest first; `f` is fuel. -/
def linePieces : Nat → Nat → Nat → List (Nat × Nat)
  | 0, _, _ => []
  | f + 1, pa, n =>
    if n = 0 then []
    else
      let m := Nat.min n (128 - pa % 128)
      (pa, m) :: linePieces f (pa + m) (n - m)

/-- Those pieces. -/
def linesOf (pa n : Nat) : List (Nat × Nat) := linePieces (n / 128 + 2) pa n

/-- Every line that `n` bytes from `pa` meet is accessed in a cluster's L2. -/
def State.touchLines (s : State) (cluster pen cpol evp pa n : Nat) : State :=
  (linesOf pa n).foldl (fun s p => (s.touchL2 cluster pen cpol evp p.1 p.2).2) s

/-- A byte of a line becomes dirty: what memory holds behind it is `old`, unless it was dirty before. -/
def soil (d : List (Nat × Byte)) (a : Nat) (old : Byte) : List (Nat × Byte) :=
  match sfind d a with
  | some _ => d
  | none => sset d a old

/-- A write of `n` bytes within a line: written back later, the bytes keep what memory holds behind them, so that `cinv`
can discard the write (R264); written through (cpol 4), they are clean. -/
def State.dirtyL2 (s : State) (cluster cpol pa n : Nat) : State :=
  let line := pa / 128 * 128
  let l := (List.range n).map (pa + ·)
  s.updCluster cluster (fun c => { c with l2 := c.l2.map (fun x =>
    if x.pa != line then x
    else if cpol = 4 ∨ cpol = 5 then { x with dirty := x.dirty.filter (fun b => !l.contains b.1) }
    else { x with dirty := l.foldl (fun d a => soil d a (BitVec.ofNat 8 (s.physRead a 1))) x.dirty }) })

/-- Copies of a line in the other clusters' L2s are invalidated before a write performs (R260). -/
def State.invalidateLine (s : State) (cluster : Option Nat) (line : Nat) : State :=
  s.clusters.foldl (fun s kc =>
    if some kc.1 = cluster then s
    else match (s.cluster kc.1).l2.find? (fun l => l.pa == line) with
      | some l => s.updCluster kc.1 (fun c => { c with l2 := c.l2.filter (· != l) })
      | none => s) s

/-- The same for every line that `n` bytes from `pa` meet. -/
def State.invalidateOthers (s : State) (cluster : Option Nat) (pa n : Nat) : State :=
  (linesOf pa n).foldl (fun s p => s.invalidateLine cluster (p.1 / 128 * 128)) s

/-- A write to a line wakes the contexts that monitor it (R258). -/
def State.wakeMons (s : State) (pa n : Nat) : State :=
  s.clusters.foldl (fun s kc =>
    ((s.cluster kc.1).mons.filter (fun m =>
      decide (pa / 64 ≤ m.line / 64) && decide (m.line / 64 ≤ (pa + n - 1) / 64))).foldl
      (fun s m => (s.updCtx m.ctx (wakeCtx 1)).updCluster kc.1
        (fun c => { c with mons := c.mons.filter (· != m) })) s) s

/-- `n` coherent bytes are written at `pa` from a cluster, or from the I/O die. -/
def State.physWrite (s : State) (cluster : Option Nat) (pa n v : Nat) : State :=
  if n = 0 then s
  else
    let pa := s.home pa
    let s := s.invalidateOthers cluster pa n
    let s := { s with mem := cellsWrite s.mem 52 pa n v }
    s.wakeMons pa n

/-- A write of the control plane that is made (R394). -/
def State.putPosted (s : State) (w : Posted) : State := (s.hbmRequest w.pen w.pa w.n).physWrite none w.pa w.n w.v

/-- A write of the control plane for a pen: made line by line, or behind those of the pen that a budget holds (R394, R396;
assumption log 94). -/
def State.ctlPut (s : State) (pen pa n v : Nat) : State :=
  (linesOf pa n).foldl (fun s p =>
    let w : Posted := ⟨pen, p.1, p.2, v / 2 ^ (8 * (p.1 - pa)) % 2 ^ (8 * p.2)⟩
    if s.posts.any (fun x => x.pen == pen) then { s with posts := s.posts ++ [w] }
    else if s.mayAsk pen p.1 then s.putPosted w
    else { s.budgetHold 3 pen with posts := s.posts ++ [w] }) s

/-- Writes of the control plane that have waited are made as budgets admit them, those of one pen in order (R396). -/
def State.postStep (s : State) : State :=
  let (kept, s) := s.posts.foldl (fun (acc : List Posted × State) w =>
    if acc.1.any (fun x => x.pen == w.pen) then (acc.1 ++ [w], acc.2)
    else if acc.2.portHeld w.pa then (acc.1 ++ [w], acc.2)
    else if acc.2.budgetBlocked 3 w.pen then (acc.1 ++ [w], acc.2.budgetHold 3 w.pen)
    else (acc.1, acc.2.putPosted w)) ([], s)
  { s with posts := kept }

/-- A write of `n` bytes through a cluster's L2 under a page's policy (R226, R260). -/
def State.l2Store (s : State) (cluster pen cpol evp pa n v : Nat) : State :=
  let s := (linesOf pa n).foldl (fun s p =>
    let through := cpol == 4 && !s.unfilled cluster pen cpol (p.1 / 128 * 128)
    let s := (s.touchL2 cluster pen cpol evp p.1 p.2).2
    (if through then s.hbmRequest pen p.1 p.2 else s).dirtyL2 cluster cpol p.1 p.2) s
  s.physWrite (some cluster) pa n v

/-- The cluster whose L2 serves an access of a unit that belongs to no cluster (assumption log 72). -/
def inCluster (pa : Nat) : Nat := pa / 128 % 32

/-- Accesses that no budget holds (R397). -/
def State.unheld (f : State → State) (s : State) : State :=
  match s.tally with
  | none => f s
  | some l =>
    let t := f { s with tally := some [] }
    { t with tally := some ((t.tally.getD []).map (fun a => { a with ptw := true }) ++ l) }

/-! ### Translation (R218 to R228) -/

/-- Who makes an access and what it needs (R222). -/
structure Access where
  pen : Nat
  r : Bool
  w : Bool
  x : Bool
  /-- emask bit of an engine (R219); none for a core. -/
  unit : Option Nat
  /-- The cluster of the unit; none for a unit of a compute die or of the I/O die. -/
  cluster : Option Nat
  /-- The core whose TLB serves it; of a unit of no cluster, the number of its own TLB in `State.dieTlb`. -/
  core : Option Nat
  deriving DecidableEq, Repr

/-- A translated access: physical address and the attributes of the page (R219). -/
structure Xlat where
  pa : Nat
  kind : Nat
  cpol : Nat
  evp : Nat
  tier : Nat
  base : Nat
  size : Nat
  deriving DecidableEq, Repr

/-- A node may be walked: near, and marked as a table frame (R222, R223). -/
def State.nodeOk (s : State) (node : Nat) : Bool :=
  decide (node < 2 ^ 39) && s.tframes.contains (node / 2 ^ 16)

/-- A pointer entry is well formed (R220). -/
def ptrOk (e : Nat) : Bool := bits e 63 54 == 0 && bits e 15 1 == 0

/-- The next node of a pointer entry (R220). -/
def ptrNode (e : Nat) : Nat := bits e 51 16 * 2 ^ 16 + bits e 53 52 * 2 ^ 14

/-- First virtual bit of a level's index (Table 2). -/
def levelShift (l : Nat) : Nat := 16 + 11 * l

/-- The page of a level-0 entry (R221): size and physical address, or none where malformed. -/
def leafPage (e : Nat) : Option (Nat × Nat) :=
  let frame := bits e 51 16
  if bit e 1 then some (2 ^ 16, frame * 2 ^ 16)
  else if frame % 2 ^ 5 = 0x10 then some (2 ^ 21, frame / 2 ^ 5 * 2 ^ 5 * 2 ^ 16)
  else if frame % 2 ^ 14 = 0x2000 then some (2 ^ 30, frame / 2 ^ 14 * 2 ^ 14 * 2 ^ 16)
  else none

/-- The structural checks of a leaf entry (R222, third row). -/
def leafOk (e : Nat) : Bool :=
  match leafPage e with
  | none => false
  | some (size, pa) =>
    bits e 53 52 != 3 && !bit e 63 && decide (bits e 56 54 < 6) &&
      (tierOf pa == some (bits e 62 61)) && (tierOf (pa + size - 1) == some (bits e 62 61))

/-- Address of the entry of a node for an address (R218). -/
def entryAt (node va l : Nat) : Nat := node + 8 * (va / 2 ^ levelShift l % 2048)

/-- Reads pointer entries from level `l` at `node` down to level 1 (R222); answers the level-0 node and
the pointers met. -/
def State.walkDown (s : State) (pen va : Nat) : Nat → Nat → List WalkEnt → Except Code (Nat × List WalkEnt)
  | 0, node, seen => .ok (node, seen)
  | l + 1, node, seen =>
    let e := s.physRead (entryAt node va (l + 1)) 8
    if !bit e 0 then .error .notPresent
    else if !ptrOk e || !s.nodeOk (ptrNode e) then .error .tableStructure
    else s.walkDown pen va l (ptrNode e) (⟨pen, l + 1, va / 2 ^ levelShift (l + 1), ptrNode e⟩ :: seen)

/-- The deepest node that the walk cache gives for an address: levels below which it still walks. -/
def walkHit (w : List WalkEnt) (pen va : Nat) : Nat → Option (Nat × Nat)
  | 0 => none
  | l + 1 =>
    -- levels are tried from 1 upward: the deepest pointer first
    match walkHit w pen va l with
    | some h => some h
    | none =>
      match w.find? (fun e => e.pen == pen && e.level == l + 1 && e.key == va / 2 ^ levelShift (l + 1)) with
      | some e => some (l, e.node)
      | none => none

/-- A walk of the tables (R222): the level-0 entry read, its address, and the pointers used. -/
def State.walk (s : State) (wc : List WalkEnt) (pen va : Nat) : Except Code (Nat × Nat × List WalkEnt) :=
  let root := (s.pen pen).root.toNat
  if !bit root 0 then .error .notPresent
  else
    let start : Except Code (Nat × Nat) :=
      match walkHit wc pen va 3 with
      | some h => .ok h
      | none =>
        let n := bits root 51 14 * 2 ^ 14
        if s.nodeOk n then .ok (3, n) else .error .tableStructure
    match start with
    | .error c => .error c
    | .ok (l, n) =>
      match s.walkDown pen va l n [] with
      | .error c => .error c
      | .ok (node, seen) =>
        let at_ := entryAt node va 0
        let e := s.physRead at_ 8
        if !bit e 0 then .error .notPresent
        else if !leafOk e then .error .tableStructure
        else .ok (e, at_, seen)

/-- Addresses of the entries that a walk reads from level `l` at `node`: the last is the one it stops at (R222). -/
def State.walkReads (s : State) (va : Nat) : Nat → Nat → List Nat
  | 0, node => [entryAt node va 0]
  | l + 1, node =>
    let at_ := entryAt node va (l + 1)
    let e := s.physRead at_ 8
    at_ :: (if !bit e 0 || !ptrOk e || !s.nodeOk (ptrNode e) then [] else s.walkReads va l (ptrNode e))

/-- The cluster whose L2 an access of a page table goes through (R227; assumption log 72). -/
def Access.tableL2 (a : Access) (pa : Nat) : Nat := a.cluster.getD (inCluster pa)

/-- A walk goes through the L2, one read for each level that the walk cache does not hold (R227). -/
def State.touchWalk (s : State) (a : Access) (va : Nat) : State :=
  let root := (s.pen a.pen).root.toNat
  let n := bits root 51 14 * 2 ^ 14
  let start := match a.cluster.bind (fun c => walkHit (s.cluster c).walk a.pen va 3) with
    | some h => h
    | none => (3, n)
  if !bit root 0 || !s.nodeOk start.2 then s
  else
    (s.walkReads va start.1 start.2).foldl (fun s at_ =>
      s.unheld (fun s => (s.touchL2 (a.tableL2 at_) a.pen 0 0 at_ 8).2)) s

/-- The hardware writes a level-0 entry (R224). -/
def State.putEntry (s : State) (a : Access) (at_ v : Nat) : State :=
  s.unheld (fun s => s.l2Store (a.tableL2 at_) a.pen 0 0 at_ 8 v)

/-- A TLB's entry for an address (R227): a lookup matches only its own pen. -/
def tlbHit (t : List TlbEnt) (pen va : Nat) : Option TlbEnt :=
  t.find? (fun e => e.pen == pen && decide (e.base ≤ va) && decide (va < e.base + e.size))

/-- Keep the newest `n` entries of a translation cache. -/
def keepNew {α : Type} (n : Nat) (l : List α) : List α := l.take n

/-- `t` without the entry of a page of a pen. -/
def dropPage (e : TlbEnt) (t : List TlbEnt) : List TlbEnt := t.filter (fun o => !(o.pen == e.pen && o.base == e.base))

/-- Set of the cluster TLB that holds a 64 KiB page: 512 sets of 8 ways (R227; assumption log 72). -/
def TlbEnt.set (e : TlbEnt) : Nat := e.base / 2 ^ 16 % 512

/-- An entry joins a fully associative cache of `n` entries, newest first. -/
def fillFull (n : Nat) (e : TlbEnt) (t : List TlbEnt) : List TlbEnt := keepNew n (e :: dropPage e t)

/-- An entry joins a cache of 8 ways, newest first. -/
def fillSet (e : TlbEnt) (t : List TlbEnt) : List TlbEnt :=
  let t := dropPage e t
  e :: keepNew 7 (t.filter (fun o => o.set == e.set)) ++ t.filter (fun o => o.set != e.set)

/-- The TLB that serves an access first: a core's, an engine's, or a drover's (Table 6), which `core` then numbers. -/
def State.nearTlb (s : State) (a : Access) : List TlbEnt :=
  match a.core, a.cluster, a.unit with
  | some c, _, none => (s.core c).tlb
  | _, some cl, some u => sget [] (s.cluster cl).etlb u
  | some d, none, some _ => sget [] s.dieTlb d
  | _, _, _ => []

/-- Change that TLB. -/
def State.updNearTlb (s : State) (a : Access) (f : List TlbEnt → List TlbEnt) : State :=
  match a.core, a.cluster, a.unit with
  | some c, _, none => s.updCore c (fun k => { k with tlb := f k.tlb })
  | _, some cl, some u => s.updCluster cl (fun k => { k with etlb := supd [] k.etlb u f })
  | some d, none, some _ => { s with dieTlb := supd [] s.dieTlb d f }
  | _, _, _ => s

/-- Entries of the TLB that serves an access first. -/
def Access.tlbSize (a : Access) : Nat := if a.unit.isNone then 128 else 32

/-- Fill the translation caches with a leaf entry (R227). -/
def State.fillTlb (s : State) (a : Access) (e : TlbEnt) : State :=
  let s := s.updNearTlb a (fillFull a.tlbSize e)
  match a.cluster with
  | some cl => s.updCluster cl (fun k =>
      if e.size = 2 ^ 16 then { k with tlb := fillSet e k.tlb } else { k with tlbBig := fillFull 256 e k.tlbBig })
  | none => s

/-- The leaves that a cluster's TLB holds. -/
def Cluster.leaves (c : Cluster) : List TlbEnt := c.tlb ++ c.tlbBig

/-- A leaf entry for an address: from a cache, or by a walk that sets `a` (R224). -/
def State.leafFor (s : State) (a : Access) (va : Nat) : Except Code TlbEnt × State :=
  let cl := match a.cluster with
    | some c => s.cluster c
    | none => Cluster.reset
  match tlbHit (s.nearTlb a) a.pen va with
  | some e => (.ok e, s)
  | none =>
    match tlbHit cl.leaves a.pen va with
    | some e => (.ok e, s.fillTlb a e)
    | none =>
      let r := s.walk cl.walk a.pen va
      let s := s.touchWalk a va
      match r with
      | .error c => (.error c, s)
      | .ok (e, at_, seen) =>
        let size := match leafPage e with
          | some (z, _) => z
          | none => 2 ^ 16
        let e' := e / 16 * 16 + (e % 16 ||| 8)
        let s := if bit e 3 then s else s.putEntry a at_ e'
        let s := match a.cluster with
          | some c => s.updCluster c (fun k => { k with walk := keepNew 512 (seen ++ k.walk) })
          | none => s
        let ent : TlbEnt := ⟨a.pen, va / size * size, size, BitVec.ofNat 64 e', at_⟩
        (.ok ent, s.fillTlb a ent)

/-- The permission checks of R222, in their order. -/
def permit (a : Access) (pte : Nat) : Option Code :=
  if a.w && bit pte 60 then some .genWrite
  else match a.unit with
    | none =>
      if (a.r && !bit pte 5) || (a.w && !bit pte 6) || (a.x && !bit pte 7) then some .permission
      else none
    | some u =>
      if !bit pte u then some .engineMask
      else if (a.r && !bit pte 5) || (a.w && !bit pte 6) then some .permission
      else none

/-- The swap window of a pen that holds an address (R284). -/
def Pen.winAt (p : Pen) (va : Nat) : Option Win :=
  (p.wins.map Prod.snd).find? (fun w => w.enable && decide (w.va ≤ va) && decide (va < w.va + w.size * 2 ^ 16))

/-- The frame half that an access of a window uses (R284, R249): the shadow for engine writes. -/
def Win.half (w : Win) (shadow : Bool) : Nat := if w.front != shadow then w.h1 else w.h0

/-- The physical address of an access through a translation, with swap windows (R221, R284). -/
def State.physOf (s : State) (a : Access) (e : TlbEnt) (va : Nat) : Nat :=
  match (s.pen a.pen).winAt va with
  | some w => w.half (a.w && a.unit.isSome) + (va - w.va)
  | none =>
    match leafPage e.pte.toNat with
    | some (size, pa) => pa + va % size
    | none => 0

/-- Sets `d` before a write performs: a compare-and-swap of the whole entry (R224). The Bool says that
the entry was as the translation has it. -/
def State.setDirty (s : State) (a : Access) (e : TlbEnt) : Bool × State :=
  if bit e.pte.toNat 4 then (true, s)
  else if s.phys64 e.ptePa = e.pte then
    let p := e.pte ||| 0x10
    ((true, (s.putEntry a e.ptePa p.toNat).fillTlb a { e with pte := p }))
  else (false, s)

/-- Drop an entry from every cache that serves an access, so that the next lookup walks. -/
def State.dropLeaf (s : State) (a : Access) (e : TlbEnt) : State :=
  let s := s.updNearTlb a (dropPage e)
  match a.cluster with
  | some cl => s.updCluster cl (fun k => { k with tlb := dropPage e k.tlb, tlbBig := dropPage e k.tlbBig })
  | none => s

/-- Translation of an access with every check of R222 but alignment and `ORDER_KIND`. -/
def State.xlate (s : State) (a : Access) (va : Nat) : Except Code Xlat × State :=
  let va := va % 2 ^ 60
  if !bit (s.pen a.pen).root.toNat 0 then (.error .notPresent, s)
  else
    let (r, s) := s.leafFor a va
    match r with
    | .error c => (.error c, s)
    | .ok e =>
      match permit a e.pte.toNat with
      | some c => (.error c, s)
      | none =>
        let (ok, s) := if a.w then s.setDirty a e else (true, s)
        let (r, s) := if ok then (Except.ok e, s)
          else
            -- the entry has changed: the walk restarts (R224)
            let (r, s) := (s.dropLeaf a e).leafFor a va
            match r with
            | .error c => (Except.error c, s)
            | .ok e =>
              match permit a e.pte.toNat with
              | some c => (Except.error c, s)
              | none => (Except.ok e, (s.setDirty a e).2)
        match r with
        | .error c => (.error c, s)
        | .ok e =>
          let p := e.pte.toNat
          (.ok ⟨s.physOf a e va, bits p 53 52, bits p 56 54, bits p 59 58, bits p 62 61, e.base, e.size⟩, s)

/-- The access of a context's core (R222). -/
def State.coreAccess (s : State) (ctx : Nat) (r w x : Bool) : Access :=
  ⟨(s.ctx ctx).pen.toNat, r, w, x, none, some (clusterOf ctx), some (coreOf ctx)⟩

/-- A page that stands on this package or in the far tier can be monitored (R257, R217). -/
def State.isRemote (s : State) (t : Xlat) : Bool :=
  t.tier == 3 || (t.tier == 2 && s.home t.pa == t.pa)

/-! ### The region store buffer (R101, R247) -/

/-- The bytes of a buffered block that cover `pa`, newest entry first. -/
def sbufByte (b : List SEnt) (pa : Nat) : Option Byte :=
  b.reverse.findSome? (fun e => match e.kind with
    | .block base bytes _ _ => if base = pa / 256 * 256 then bytes.lookup pa else none
    | .atom _ _ _ _ => none)

/-- `n` bytes from `pa` as the context sees them: its buffered bytes over `v` (R101). -/
def forward (b : List SEnt) (pa : Nat) : Nat → Nat → Nat
  | 0, _ => 0
  | n + 1, v =>
    let low := match sbufByte b pa with
      | some x => x.toNat
      | none => v % 256
    low + 256 * forward b (pa + 1) n (v / 256)

/-- What a context has buffered: entries of released regions that have not performed, then the open region's (R101). -/
def Ctx.sbuf (c : Ctx) : List SEnt :=
  c.drain ++ (match c.region with
    | some r => r.sbuf
    | none => [])

/-- The bytes `v` laid over a block's bytes. -/
def layBytes (m : List (Nat × Byte)) (pa : Nat) : Nat → Nat → List (Nat × Byte)
  | 0, _ => m
  | n + 1, v => layBytes (sins (sdel m pa) pa (BitVec.ofNat 8 v)) (pa + 1) n (v / 256)

/-- The newest entry of a block that starts at `base`. -/
def sbufNewest (b : List SEnt) (base : Nat) : Option Nat :=
  (List.range b.length).reverse.find? (fun i => b[i]?.any (fun e => match e.kind with
    | .block k _ _ _ => k == base
    | .atom _ _ _ _ => false))

/-- The entry takes no later merge (R247). -/
def SEnt.seal (e : SEnt) : SEnt :=
  match e.kind with
  | .block k bytes _ so => { e with kind := .block k bytes true so }
  | .atom _ _ _ _ => e

/-- A fence, a `st.rel`, and an access that acts as an acquire close every entry to later merges (R243, R247). -/
def sbufSeal (b : List SEnt) : List SEnt := b.map SEnt.seal

/-- A store takes the entry's bytes. -/
def SEnt.merge (e : SEnt) (pa n v : Nat) (t : Xlat) : SEnt :=
  match e.kind with
  | .block k bytes sealed so =>
    { e with
      kind := .block k (layBytes bytes pa n v) sealed so, cpol := t.cpol, evp := t.evp,
      log := if so then e.log ++ [(pa, n, v)] else e.log
      vpages := if e.vpages.contains t.base then e.vpages else t.base :: e.vpages }
  | .atom _ _ _ _ => e

/-- Puts a store of `n` bytes that lie in one block into a region's buffer; none where a 97th entry is needed. A store
to an SO page merges only into the newest entry; a releasing one (`rel`), which waits for acknowledgements where
`wide`, takes an entry of its own (R247). An SO entry, which acts as an acquire and a release at `.sys`, closes the
entries before it (R239, R243). -/
def sbufStore (r : Region) (pa n v : Nat) (rel wide : Bool) (t : Xlat) : Option Region :=
  let so := t.kind == 0
  let b := r.sbuf
  let base := pa / 256 * 256
  let takes (e : SEnt) : Bool := match e.kind with
    | .block _ _ sealed o => !sealed && (!so || o)
    | .atom _ _ _ _ => false
  let open_ := match sbufNewest b base with
    | some i => if b[i]?.any takes && (!so || i == b.length - 1) then some i else none
    | none => none
  match (if rel then none else open_) with
  | some i => some { r with sbuf := b.mapIdx (fun j e => if j = i then e.merge pa n v t else e) }
  | none =>
    if 96 ≤ b.length then none
    else some { r with
      sbuf := (if rel || so then sbufSeal b else b) ++
        [⟨.block base (layBytes [] pa n v) rel so, [t.base], t.cpol, t.evp, so || r.gate || (rel && wide),
          if so then 2 else 0, if so then [(pa, n, v)] else [], 0⟩]
      gate := so }

/-! ### L1 (R259, R260) -/

/-- Invalidate the L1 lines that an acquire or a fence drops: RC lines, and UN lines too for
`fence.sys.all`. -/
def Core.dropL1 (c : Core) (un : Bool) : Core :=
  { c with l1 := c.l1.filter (fun l => !(l.kind == 1 || (un && l.kind == 2))) }

/-- The number `data` with `n` bytes of `v` at byte `o`. -/
def layOver (data o n v : Nat) : Nat :=
  data % 2 ^ (8 * o) + v % 2 ^ (8 * n) * 2 ^ (8 * o) + data / 2 ^ (8 * (o + n)) * 2 ^ (8 * (o + n))

/-- The L1 of a core writes a store through to the L2 and keeps its own copies current. -/
def Core.updL1 (c : Core) (pa n v : Nat) : Core :=
  { c with l1 := c.l1.map (fun l =>
      let lo := Nat.max pa l.pa
      let hi := Nat.min (pa + n) (l.pa + 128)
      if lo < hi then { l with data := layOver l.data (lo - l.pa) (hi - lo) (v / 2 ^ (8 * (lo - pa))) } else l) }

/-- Fill an L1 line: 12 ways to a set, the least recently used leaves (R259). -/
def Core.fillL1 (c : Core) (line : L1Line) : Core :=
  let set (l : L1Line) : Nat := bits l.pa 14 7
  let here := c.l1.filter (fun l => set l == set line && l.pa != line.pa)
  let rest := c.l1.filter (fun l => !(set l == set line))
  let kept := if here.length < 12 then here
    else match here with
      | [] => []
      | l :: r =>
        let old := r.foldl (fun b x => if x.stamp < b.stamp then x else b) l
        here.filter (· != old)
  { c with l1 := line :: kept ++ rest }

/-- How a load treats the L1. -/
inductive LoadKind where
  /-- Plain, or an annotation of scope `.ctx` or `.core`: may read the L1 (R240). -/
  | plain
  /-- An acquire at `.clu` or wider: the L1's RC lines are invalidated first (R241). -/
  | acquire
  /-- Served at the L2 or beyond (`waita`, R257). -/
  | l2
  deriving DecidableEq, Repr

/-- `n` bytes, within one 128-byte line, of a core's load: the bytes, the latency class (R251), and the
caches after it. -/
def State.lineLoad (s : State) (ctx : Nat) (k : LoadKind) (t : Xlat) (n : Nat) : Nat × Nat × State :=
  let core := coreOf ctx
  let cl := clusterOf ctx
  let pa := s.home t.pa
  let pen := (s.ctx ctx).pen.toNat
  let useL1 : Bool := t.kind != 0 && k != .l2 && (t.cpol == 0 || t.cpol == 2 || t.cpol == 4)
  let hit := if useL1 then (s.core core).l1.find? (fun l => l.pa == pa / 128 * 128) else none
  match hit with
  | some l =>
    let s := { s with use := s.use + 1 }
    let s := s.updCore core (fun c => { c with l1 := c.l1.map (fun x => if x == l then { x with stamp := s.use } else x) })
    (l.data / 2 ^ (8 * (pa - l.pa)) % 2 ^ (8 * n), 8, s)
  | none =>
    let v := s.physRead pa n
    let fills := useL1 && !s.unfilled cl pen t.cpol (pa / 128 * 128)
    let (h, s) := s.touchL2 cl pen t.cpol t.evp pa n
    let s := if fills then
        s.updCore core (fun c => c.fillL1 ⟨pa / 128 * 128, t.kind, s.use, s.physRead (pa / 128 * 128) 128⟩)
      else s
    (v, if h then 40 else 400, s)

/-- `n` bytes over consecutive lines: pieces of at most 128 bytes, lowest first. -/
def State.spanLoad (s : State) (ctx : Nat) (k : LoadKind) (t : Xlat) : Nat → Nat → Nat × Nat × State
  | 0, _ => (0, 0, s)
  | f + 1, n =>
    if n = 0 then (0, 0, s)
    else
      let m := Nat.min n (128 - t.pa % 128)
      let (v, l, s) := s.lineLoad ctx k t m
      let (v', l', s) := s.spanLoad ctx k { t with pa := t.pa + m } f (n - m)
      (v + v' * 2 ^ (8 * m), Nat.max l l', s)

/-- A core load of `n` bytes at a translated address, with the context's own buffered bytes (R251,
R101). -/
def State.loadAt (s : State) (ctx : Nat) (k : LoadKind) (t : Xlat) (n : Nat) : Nat × Nat × State :=
  let s := if k = .acquire && t.kind != 2 then s.updCore (coreOf ctx) (fun c => c.dropL1 false) else s
  let (v, lat, s) := s.spanLoad ctx k t (n / 128 + 2) n
  (forward (s.ctx ctx).sbuf (s.home t.pa) n v, lat, s)

/-- A core store that performs (R251): through its L1 to the L2, for a pen. -/
def State.coreStore (s : State) (ctx pen cpol evp pa n v : Nat) : State :=
  (s.updCore (coreOf ctx) (fun c => c.updL1 pa n v)).l2Store (clusterOf ctx) pen cpol evp pa n v

/-- The same, at a translated address. -/
def State.storeAt (s : State) (ctx : Nat) (t : Xlat) (n v : Nat) : State :=
  s.coreStore ctx (s.ctx ctx).pen.toNat t.cpol t.evp (s.home t.pa) n v

/-- The function of an atomic operation on `n`-byte values (R253, Table 3). -/
def atomFn (op n old a : Nat) : Nat :=
  let w := 8 * n
  match op with
  | 0 => (old + a) % 2 ^ w
  | 1 => old &&& a
  | 2 => old ||| a
  | 3 => old ^^^ a
  | 4 => if sextInt a w < sextInt old w then a else old
  | 5 => if sextInt old w < sextInt a w then a else old
  | 6 => if a < old then a else old
  | 7 => if old < a then a else old
  | _ => a

/-- One indivisible read-modify-write at its point of coherence (R253); answers the old value. -/
def State.rmwAt (s : State) (ctx : Nat) (t : Xlat) (n : Nat) (f : Nat → Option Nat) : Nat × State :=
  let pa := s.home t.pa
  let old := s.physRead pa n
  match f old with
  | some v => (old, s.storeAt ctx t n v)
  | none => (old, (s.touchL2 (clusterOf ctx) (s.ctx ctx).pen.toNat t.cpol t.evp pa n).2)

/-- A physical address of another package of the domain (R217). -/
def State.elsewhere (s : State) (pa : Nat) : Bool := decide (tierOf pa = some 2) && s.home pa == pa

/-- Package of a remote address. -/
def pkgOf (pa : Nat) : Nat := (pa - 2 ^ 51) / 2 ^ 40

/-- Hops between two packages (R401): the sum of the ring distances. -/
def hopCount (a b : Nat) : Nat :=
  let d (sh : Nat) : Nat := (b / sh % 4 + 4 - a / sh % 4) % 4
  let ring (sh : Nat) : Nat := Nat.min (d sh) (4 - d sh)
  ring 1 + ring 4 + ring 16

/-- Cycles of 1.25 ns from the issue of an unloaded access to a package to its result: 420 + 45(h - 1) ns, rounded up
(R402). -/
def remoteCycles (hops : Nat) : Nat := ((420 + 45 * (hops - 1)) * 4 + 4) / 5

/-- A message leaves the package. -/
def State.send (s : State) (m : Outbound) : State := { s with outbox := s.outbox ++ [m] }

/-- A remote store leaves in class 0, one message for each line, and its acknowledgements are awaited (R406). -/
def State.sendStore (s : State) (ctx pa n v : Nat) : State :=
  let l := linesOf pa n
  l.foldl (fun s p => s.send (.store ctx (pkgOf pa) p.1 (bytesOf p.2 (v / 2 ^ (8 * (p.1 - pa))))))
    (s.updCtx ctx (fun c => { c with acks := c.acks + l.length }))

/-- A remote atomic that returns nothing (R406). -/
def State.sendAtomic (s : State) (ctx pa op n a : Nat) : State :=
  (s.updCtx ctx (fun c => { c with acks := c.acks + 1 })).send (.atomic ctx (pkgOf pa) pa op n a 0)

/-! ### Released entries perform (R246, R247; assumption log 73) -/

/-- The bytes of a block as runs of consecutive bytes, each in one 128-byte line. -/
def runsOf : List (Nat × Byte) → List (Nat × List Byte)
  | [] => []
  | (a, b) :: r =>
    match runsOf r with
    | [] => [(a, [b])]
    | (c, l) :: t => if c = a + 1 ∧ c % 128 ≠ 0 then (a, b :: l) :: t else (a, [b]) :: (c, l) :: t

/-- The stores that a block makes as it performs, each in one line: the stores to SO pages in program order (R246), others
by address. -/
def SEnt.stores (e : SEnt) (bytes : List (Nat × Byte)) (so : Bool) : List (Nat × List Byte) :=
  if so then
    e.log.flatMap (fun w => (linesOf w.1 w.2.1).map (fun p => (p.1, bytesOf p.2 (w.2.2 / 2 ^ (8 * (p.1 - w.1))))))
  else runsOf bytes

/-- The accesses of an entry: address and size. -/
def SEnt.spans (e : SEnt) : List (Nat × Nat) :=
  match e.kind with
  | .block _ bytes _ so => (e.stores bytes so).map (fun r => (r.1, r.2.length))
  | .atom pa _ n _ => [(pa, n)]

/-- An entry performs for a pen, through the core of the context it came from; answers the acknowledgements that it
awaits. -/
def State.drainEnt (s : State) (ctx pen : Nat) (e : SEnt) : Nat × State :=
  match e.kind with
  | .block _ bytes _ so =>
    (e.stores bytes so).foldl (fun (p : Nat × State) (r : Nat × List Byte) =>
      if p.2.elsewhere r.1 then (p.1 + 1, p.2.send (.store ctx (pkgOf r.1) r.1 r.2))
      else (p.1, p.2.coreStore ctx pen e.cpol e.evp r.1 r.2.length (ofBytes r.2))) (0, s)
  | .atom pa op n a =>
    if s.elsewhere pa then (1, s.send (.atomic ctx (pkgOf pa) pa op n a 0))
    else (0, s.coreStore ctx pen e.cpol e.evp pa n (atomFn op n (s.physRead pa n) a))

/-- Entries perform in order as far as they can: one with a gate waits until no acknowledgement of an earlier store is
awaited, and each until budgets have admitted its HBM requests (R396). Answers the acknowledgements awaited and the entries
that are left. -/
def State.drainList (ctx pen : Nat) : Nat → List SEnt → State → Nat × List SEnt × State
  | acks, [], s => (acks, [], s)
  | acks, e :: r, s =>
    if e.gate && acks != 0 then (acks, e :: r, s)
    else
      match s.metered 0 0 true e.paid (fun s => s.drainEnt ctx pen e) with
      | (.error n, s) => (acks, { e with paid := n } :: r, s)
      | (.ok k, s) => State.drainList ctx pen (acks + k) r s

/-- Acknowledgements that earlier stores of the task on a context await, those of before it was moved among them. -/
def State.owed (s : State) (ctx : Nat) : Nat :=
  let c := s.ctx ctx
  (s.lates.filter (fun l => l.task == c.task)).foldl (fun a l => a + l.acks) c.acks

/-- Stores and atomics of a task, past any open region, have not all performed (R275, R388): entries or acknowledgements
are left, on its context or behind it. -/
def State.storesLeft (s : State) (task : Nat) : Bool :=
  s.lates.any (fun l => l.task == task) ||
    s.ctxs.any (fun kc => kc.2.task == task && (!kc.2.drain.isEmpty || kc.2.acks != 0))

/-- What a fence or an acquire made later accesses wait for has come (R241, R256); the lines that it names leave the L1
(R260). -/
def State.settleFence (s : State) (ctx : Nat) : State :=
  let c := s.ctx ctx
  if c.fence = 0 ∨ (c.drain.isEmpty && (c.fence == 1 || s.owed ctx == 0)) then
    let s := if c.fdrop = 0 then s else s.updCore (coreOf ctx) (fun k => k.dropL1 (c.fdrop == 2))
    s.updCtx ctx (fun c => { c with fence := 0, fdrop := 0 })
  else s

/-- The released entries of a context perform as far as they can. -/
def State.drainCtx (s : State) (ctx : Nat) : State :=
  let c := s.ctx ctx
  if c.drain.isEmpty then s.settleFence ctx
  else
    let owed := s.owed ctx
    let (acks, rest, s) := State.drainList ctx c.pen.toNat owed c.drain s
    (s.updCtx ctx (fun c => { c with drain := rest, acks := c.acks + (acks - owed) })).settleFence ctx

/-- The same for what tasks have left behind; one with nothing under way is gone. -/
def State.drainLates (s : State) (cluster : Nat) : State :=
  let all := s.lates
  all.foldl (fun (s : State) (l : Late) =>
    if clusterOf l.ctx ≠ cluster ∨ l.ents.isEmpty then { s with lates := s.lates ++ [l] }
    else
      let (acks, rest, s) := State.drainList l.ctx l.pen l.acks l.ents s
      if acks = 0 ∧ rest.isEmpty then s
      else { s with lates := s.lates ++ [{ l with acks := acks, ents := rest }] }) { s with lates := [] }

/-! ### Accesses of engines and of the units on the I/O die -/

/-- Where an engine stands: in a cluster, or on a compute die (0 to 3, a drover) or the I/O die (4), with an engine TLB of its
own (Table 6 of R227). -/
inductive Via where
  | cluster (c : Nat)
  | die (d : Nat)
  deriving DecidableEq, Repr

def Via.cluster? : Via → Option Nat
  | .cluster c => some c
  | .die _ => none

def Via.die? : Via → Option Nat
  | .cluster _ => none
  | .die d => some d

/-- An engine access of one pen (R222, R275). -/
def engAccess (pen unit : Nat) (via : Via) (w : Bool) : Access :=
  ⟨pen, !w, w, false, some unit, via.cluster?, via.die?⟩

/-- `n` bytes that come from outside the package and that nothing here fixes (free values, assumption
log 6). -/
def State.freeBytes (s : State) (n : Nat) : Nat × State :=
  (ofBytes ((List.range n).map (fun i => Config.freeByte (s.free + i))), { s with free := s.free + n })

/-- The command whose step comes next. -/
def State.forCmd (s : State) (k : Cmd) : State :=
  { s with engNow := some ⟨k.ctx, k.task, k.cid, k.job, 0, 0, (match k.kind with
      | .xfer _ => true
      | _ => false), k.pen, k.wid, k.pc.toNat, k.loops⟩ }

/-- Context that an engine's message names: that of its command. -/
def State.engCtx (s : State) : Nat :=
  match s.engNow with
  | some k => k.ctx
  | none => 0

/-- What awaits the acknowledgement of a message: the command whose step this is, or the unit that acts for no command, of a
pen (R408: 0x3FF is the context of a source with none, R231). -/
def State.sender (s : State) (pen : Nat) : Sent := s.engNow.getD ⟨0x3FF, 0, BitVec.ofNat 16 pen, 0, 0, 0, false, pen, 0, 0, 0⟩

/-- It awaits one more. -/
def State.noteSend (s : State) (k : Sent) : State :=
  let mine (x : Sent) : Bool := x.task == k.task && x.cid == k.cid
  if s.sents.any mine then
    { s with sents := s.sents.map (fun (x : Sent) => if mine x then { x with left := x.left + 1 } else x) }
  else { s with sents := s.sents ++ [{ k with left := 1, linked := 0 }] }

/-- An engine writes bytes of another package, for a pen: messages of class 2 for a send, else of class 0, one for each line
(R405 to R407; assumption log 103). -/
def State.sendEng (s : State) (pen pa n v : Nat) : State :=
  let k := s.sender pen
  (linesOf pa n).foldl (fun s p =>
    (s.noteSend k).send (.send k.bulk k.task k.cid (pkgOf pa) p.1 (bytesOf p.2 (v / 2 ^ (8 * (p.1 - pa)))))) s

/-- An engine reads bytes of another package: class 0 loads; what they return is free. -/
def State.readAway (s : State) (pa n : Nat) : Nat × State :=
  ((linesOf pa n).foldl (fun s p => s.send (.load s.engCtx (pkgOf pa) p.1 p.2)) s).freeBytes n

/-- `n` bytes of this package read by an engine: through its cluster's L2, or straight from memory (R226). -/
def State.engTouch (s : State) (cluster : Option Nat) (pen cpol evp pa n : Nat) : State :=
  match cluster with
  | some cl => s.touchLines cl pen cpol evp pa n
  | none => s.hbmRequest pen pa n

/-- `n` bytes of this package written by an engine. -/
def State.engPut (s : State) (cluster : Option Nat) (pen cpol evp pa n v : Nat) : State :=
  match cluster with
  | some cl => s.l2Store cl pen cpol evp pa n v
  | none => (s.hbmRequest pen pa n).physWrite none pa n v

/-- Reads `n` bytes at a virtual address as an engine, page by page; an error names the address. -/
def State.engReadBy (s : State) (a : Access) : Nat → Nat → Nat → Except (Code × Nat) Nat × State
  | 0, _, _ => (.ok 0, s)
  | f + 1, va, n =>
    if n = 0 then (.ok 0, s)
    else
      let m := Nat.min n (2 ^ 16 - va % 2 ^ 16)
      let (r, s) := s.xlate a va
      match r with
      | .error c => (.error (c, va % 2 ^ 60), s)
      | .ok t =>
        let (v, s) := if s.elsewhere t.pa then s.readAway t.pa m
          else (s.physRead t.pa m, s.engTouch a.cluster a.pen t.cpol t.evp (s.home t.pa) m)
        let (r, s) := s.engReadBy a f (va + m) (n - m)
        match r with
        | .error e => (.error e, s)
        | .ok v' => (.ok (v + v' * 2 ^ (8 * m)), s)

/-- Writes `n` bytes at a virtual address as an engine, page by page; an error names the address, and
the pages before it have been written. -/
def State.engWriteBy (s : State) (a : Access) : Nat → Nat → Nat → Nat → Except (Code × Nat) Unit × State
  | 0, _, _, _ => (.ok (), s)
  | f + 1, va, n, v =>
    if n = 0 then (.ok (), s)
    else
      let m := Nat.min n (2 ^ 16 - va % 2 ^ 16)
      let (r, s) := s.xlate a va
      match r with
      | .error c => (.error (c, va % 2 ^ 60), s)
      | .ok t =>
        let s := if s.elsewhere t.pa then s.sendEng a.pen t.pa m v
          else s.engPut a.cluster a.pen t.cpol t.evp (s.home t.pa) m (v % 2 ^ (8 * m))
        s.engWriteBy a f (va + m) (n - m) (v / 2 ^ (8 * m))

def State.engRead (s : State) (pen unit : Nat) (via : Via) (f va n : Nat) :
    Except (Code × Nat) Nat × State := s.engReadBy (engAccess pen unit via false) f va n

def State.engWrite (s : State) (pen unit : Nat) (via : Via) (f va n v : Nat) :
    Except (Code × Nat) Unit × State := s.engWriteBy (engAccess pen unit via true) f va n v

/-- Pages that `n` bytes from `va` can meet, plus one. -/
def pageFuel (n : Nat) : Nat := n / 2 ^ 16 + 3

end Sys2Proof.Machine
end

