-- ==== Sys2Proof/Machine/KvBase.lean ====
section
/-! DEFINITION. Pools, stall entries and heat: what every unit that meets a key-value page shares
(R294 to R298, R321). -/

namespace Sys2Proof.Machine

def State.pool (s : State) (n : Nat) : Pool := sget Pool.reset s.pools n
def State.setPool (s : State) (n : Nat) (v : Pool) : State := { s with pools := sput Pool.reset s.pools n v }
def State.updPool (s : State) (n : Nat) (f : Pool → Pool) : State := s.setPool n (f (s.pool n))

/-! ### Fields of `kvp.N.cfg` and `kvp.N.stab` (R294) -/

def Pool.enable (p : Pool) : Bool := p.cfg.getLsbD 63
def Pool.pen (p : Pool) : Nat := bits p.cfg.toNat 62 57
def Pool.nfmt (p : Pool) : Nat := bits p.cfg.toNat 56 53
def Pool.ltok (p : Pool) : Nat := bits p.cfg.toNat 52 49
/-- Tokens per page. -/
def Pool.toks (p : Pool) : Nat := 2 ^ p.ltok
def Pool.planes (p : Pool) : Nat := bits p.cfg.toNat 48 41 + 1
def Pool.heads (p : Pool) : Nat := bits p.cfg.toNat 40 33 + 1
def Pool.dim (p : Pool) : Nat := 8 * (bits p.cfg.toNat 32 25 + 1)
def Pool.stride (p : Pool) : Nat := bits p.pstride.toNat 31 7 * 128
def Pool.stabBase (p : Pool) : Nat := bits p.stab.toNat 51 12 * 2 ^ 12
def Pool.lstalls (p : Pool) : Nat := bits p.stab.toNat 4 0

/-- A stall entry (R296, Table 2). -/
structure Stall where
  block : Nat
  count : Nat
  heat : Nat
  stamp : Nat
  state : Nat
  tier : Nat
  fmt : Nat
  cls : Nat
  fill : Nat
  scales : Nat
  incarn : Nat
  lender : Nat
  deriving DecidableEq, Repr

/-- A stall entry from its four words. -/
def Stall.ofWords (w0 w1 w2 w3 : Nat) : Stall :=
  { block := bits w0 51 7 * 128, count := bits w1 63 48, heat := bits w1 47 32, stamp := bits w1 31 24,
    state := bits w1 23 22, tier := bits w1 21 20, fmt := bits w1 19 16, cls := bits w1 15 14,
    fill := bits w1 8 0, scales := bits w2 51 6 * 64, incarn := bits w3 15 8, lender := bits w3 5 0 }

/-- Word 1 of a stall entry. -/
def Stall.word1 (e : Stall) : Nat :=
  e.count % 2 ^ 16 * 2 ^ 48 + e.heat % 2 ^ 16 * 2 ^ 32 + e.stamp % 2 ^ 8 * 2 ^ 24 + e.state % 4 * 2 ^ 22 +
    e.tier % 4 * 2 ^ 20 + e.fmt % 16 * 2 ^ 16 + e.cls % 4 * 2 ^ 14 + e.fill % 2 ^ 9

/-- The 32 bytes of a stall entry. -/
def Stall.pack (e : Stall) : Nat :=
  e.block % 2 ^ 52 / 128 * 128 + e.word1 * 2 ^ 64 + e.scales % 2 ^ 52 / 64 * 64 * 2 ^ 128 +
    (e.incarn % 256 * 256 + e.lender % 64) * 2 ^ 192

/-- Where the entry of a stall number stands (R296). -/
def Pool.stallPa (p : Pool) (n : Nat) : Nat := p.stabBase + 32 * n

def State.stallAt (s : State) (pool n : Nat) : Stall :=
  let pa := (s.pool pool).stallPa n
  Stall.ofWords (s.physRead pa 8) (s.physRead (pa + 8) 8) (s.physRead (pa + 16) 8) (s.physRead (pa + 24) 8)

/-- An access of a block or stream of a pen, in pieces of up to 256 bytes: a drover's traffic (R394). -/
def State.noteData (s : State) (pen pa n : Nat) : State :=
  (List.range ((n + 255) / 256)).foldl (fun s i => s.note ⟨1, false, pen, pa + 256 * i, Nat.min 256 (n - 256 * i)⟩) s

/-- An access of a descriptor or a stall entry: a step of an ostler (R394). -/
def State.noteEntry (s : State) (pen pa n : Nat) : State := s.note ⟨2, false, pen, pa, n⟩

/-- The ostler or the drover writes a stall entry in one step (R304). -/
def State.setStall (s : State) (pool n : Nat) (e : Stall) : State :=
  (s.physWrite none ((s.pool pool).stallPa n) 32 e.pack).noteEntry (s.pool pool).pen ((s.pool pool).stallPa n) 32

/-- Effective heat at the pool's period (R321). -/
def Pool.effHeat (p : Pool) (e : Stall) : Nat :=
  e.heat / 2 ^ Nat.min 16 ((p.period + 256 - e.stamp) % 256)

/-- The heat that a slot's mass adds: floor(m / 16), at most 65,535 (R321). -/
def massHeat (mass : Nat) : Nat :=
  match fmtF32.decode mass with
  | .nan => 0
  | .inf neg => if neg then 0 else 65535
  | .fin neg m e =>
    if neg then 0
    else
      let v := if 0 ≤ e then m * 2 ^ e.toNat / 16 else m / (2 ^ (-e).toNat * 16)
      Nat.min 65535 v

/-- Mass is added as heat to the stall that a slot's field names (R321); a stall that is not LIVE, or that has been allocated
anew, gets none. -/
def State.addHeat (s : State) (field mass : Nat) : State :=
  if field = 0xFFFFFFFF then s
  else
    let pool := bits field 22 20
    let n := bits field 19 0
    let p := s.pool pool
    let e := s.stallAt pool n
    if e.state = 1 ∧ e.incarn = bits field 31 24 ∧ n < 2 ^ p.lstalls then
      let eff := p.effHeat e
      s.setStall pool n { e with
        heat := eff + Nat.min (65535 - eff) (massHeat mass), stamp := p.period % 256 }
    else s.noteEntry p.pen (p.stallPa n) 32

/-- The ostlers add what slots have released, oldest first, as far as budgets admit it (R321, R396): a cluster whose ostler waits
keeps what follows. -/
def State.heatList : List (Nat × Nat × Nat) → List (Nat × Nat × Nat) → State → State
  | [], kept, s => { s with heats := kept }
  | h :: r, kept, s =>
    if kept.any (fun k => k.1 == h.1) then State.heatList r (kept ++ [h]) s
    else
      match s.metered 2 h.1 true 0 (fun s => ((), s.addHeat h.2.1 h.2.2)) with
      | (.error _, s) => State.heatList r (kept ++ [h]) s
      | (.ok _, s) => State.heatList r kept s

/-- Heat that waits for an ostler; what a bundle releases, it adds at the end of the cycle. -/
def State.settleHeat (s : State) : State :=
  if s.heats.isEmpty || s.tally.isSome then s else State.heatList s.heats [] s

/-- A released slot's mass goes to the ostler of its cluster (HEAT_ADD of R321). -/
def State.heatAdd (s : State) (cluster field mass : Nat) : State :=
  if field = 0xFFFFFFFF then s else { s with heats := s.heats ++ [(cluster, field, mass)] }.settleHeat

/-- The stall field of a tile entry that holds a page (R317). -/
def stallField (pool n : Nat) (e : Stall) : Nat := n + pool * 2 ^ 20 + e.incarn * 2 ^ 24

end Sys2Proof.Machine
end

