-- ==== Sys2Proof/Machine/Regions.lean ====
section
/-! DEFINITION. The event log, rings and tile slots, engine commands' status, and idempotent regions
(R99 to R105, R203 to R212, R271 to R277, R420). -/

namespace Sys2Proof.Machine

/-! ### Sequence numbers and the event log (R18, R420) -/

/-- The next package sequence number (`seq()` of R9, R18). -/
def State.draw (s : State) : Nat × State := (s.seq, { s with seq := s.seq + 1 })

/-- Kinds of event-log records that the spec names. -/
inductive Ev where
  | boot | faultDropped | machineCheck | launchRejected | lateTexit | lateTermination | signalFault
  | queueDiscarded | notifyDropped | pushDropped | updateRefused | reverted | ecc | stackFull
  deriving DecidableEq, Repr

def Ev.num : Ev → Nat
  | .boot => 0 | .faultDropped => 1 | .machineCheck => 2 | .launchRejected => 3 | .lateTexit => 4
  | .lateTermination => 5 | .signalFault => 6 | .queueDiscarded => 7 | .notifyDropped => 8
  | .pushDropped => 9 | .updateRefused => 10 | .reverted => 11 | .ecc => 12
  | .stackFull => 13

/-- `evl.ctl` holds a valid lsize (R420). -/
def EvLog.ring (e : EvLog) : Bool :=
  decide (6 ≤ bits e.ctl.toNat 4 0) && decide (bits e.ctl.toNat 4 0 ≤ 24)

/-- Add one, saturating at 2^32 − 1. -/
def satInc (v : BitVec 32) : BitVec 32 := if v = BitVec.allOnes 32 then v else v + 1

/-- The words of a record as one number, first word lowest. -/
def packWords : List Word → Nat
  | [] => 0
  | w :: r => w.toNat + 2 ^ 64 * packWords r

/-- The management controller writes one record into the ring; a full ring loses its oldest (R420). -/
def State.evlWrite (s : State) (r : List Word) : State :=
  let e := s.evl
  let size := 2 ^ bits e.ctl.toNat 4 0
  let full := (e.tail - e.head).toNat = size
  let at_ := bits e.base.toNat 51 12 * 2 ^ 12 + 64 * (e.tail.toNat % size)
  let s := (s.physWrite none at_ 64 (packWords r)).hbmRequest 64 at_ 64
  { s with evl := { e with tail := e.tail + 1, head := if full then e.head + 1 else e.head,
                           lost := if full then satInc e.lost else e.lost } }

/-- The held records enter the ring, oldest first, as the budget of management traffic admits them (R420, R396;
assumption log 83). -/
def evlDrain : List (List Word) → State → State
  | [], s => { s with evl := { s.evl with held := [] } }
  | r :: l, s =>
    if s.budgetBlocked 6 0 then
      let s := s.budgetHold 6 0
      { s with evl := { s.evl with held := r :: l } }
    else evlDrain l ((s.evlWrite r).budgetCharge 6 0 1)

/-- The held records enter a ring that is configured. -/
def State.evlFlush (s : State) : State := if s.evl.ring then evlDrain s.evl.held s else s

/-- A record reaches the log: into the ring, or, where there is none or a budget holds its writes, among the 4,096 that
the controller keeps (R420). -/
def State.evlPut (s : State) (r : List Word) : State :=
  if s.evl.held.length < 4096 then ({ s with evl := { s.evl with held := s.evl.held ++ [r] } }).evlFlush
  else { s with evl := { s.evl with lost := satInc s.evl.lost } }

/-- The eight words of a record (R420); codes and data are open (assumption log 7). -/
def evWords (seq : Nat) (k : Ev) (inst pen : Nat) (info : List Nat) : List Word :=
  [BitVec.ofNat 64 seq,
   BitVec.ofNat 64 ((Config.evSource k.num).toNat * 2 ^ 56 + inst % 2 ^ 16 * 2 ^ 40 + pen % 64 * 2 ^ 34 +
     (Config.evCode k.num).toNat)] ++
  (List.range 6).map (fun i => Config.evData k.num info i)

/-- An event gives a log record with a number of its own. -/
def State.logEvent (s : State) (k : Ev) (inst pen : Nat) (info : List Nat) : State :=
  let (q, s) := s.draw
  s.evlPut (evWords q k inst pen info)

/-! ### Tile slots and rings (R203 to R212) -/

/-- The state's two bits in word 0 of an entry. -/
def TState.num : TState → Nat
  | .empty => 0 | .filling => 1 | .ready => 2 | .draining => 3

/-- Lines of a bank group (R201): group A 6,144, group B 2,048. -/
def groupLines (g : BitVec 1) : Nat := if g = 0 then 6144 else 2048

/-- Scratchpad byte address of a line of a group (R201). -/
def groupBase (g : BitVec 1) : Nat := if g = 0 then 0 else 6144 * 128

/-- Length of a ring in lines (R210). -/
def ringLen (tile : Nat → TileEnt) (r : Ring) : Nat :=
  (List.range r.n).foldl (fun a i => a + (tile (r.first + i)).lines.toNat) 0

/-- The slot and the line within it that a line position of a ring falls on. -/
def ringFind (tile : Nat → TileEnt) : Nat → Nat → Nat → Option (Nat × Nat)
  | _, 0, _ => none
  | slot, k + 1, pos =>
    let n := (tile slot).lines.toNat
    if pos < n then some (slot, pos) else ringFind tile (slot + 1) k (pos - n)

/-- Slot and line of a cursor value (R210). -/
def ringAt (tile : Nat → TileEnt) (r : Ring) (cur : Nat) : Option (Nat × Nat) :=
  let t := ringLen tile r
  if t = 0 then none else ringFind tile r.first r.n (cur % t)

/-- The slots that a cursor at `cur` leaves when it moves `c` lines, in order. -/
def ringLeaves (tile : Nat → TileEnt) (r : Ring) : Nat → Nat → Nat → List Nat
  | 0, _, _ => []
  | f + 1, cur, c =>
    match ringAt tile r cur with
    | none => []
    | some (slot, off) =>
      let left := (tile slot).lines.toNat - off
      if left ≤ c then slot :: ringLeaves tile r f (cur + left) (c - left) else []

/-- Fill level of a ring in lines (R210). -/
def Ring.fill (r : Ring) : Nat := (r.pc - r.cc).toNat

/-- Slots of a ring. -/
def Ring.slots (r : Ring) : List Nat := (List.range r.n).map (r.first + ·)

/-- Slots of every defined ring of a context. -/
def Ctx.ringSlots (c : Ctx) : List Nat := c.rings.flatMap (fun kr => kr.2.slots)

/-- Lines and bytes of a slot in the scratchpad. -/
def TileEnt.byteBase (t : TileEnt) : Nat := groupBase t.group + 128 * t.base.toNat
def TileEnt.bytes (t : TileEnt) : Nat := 128 * t.lines.toNat

def State.tile (s : State) (core slot : Nat) : TileEnt := (s.core core).tile slot
def State.updTile (s : State) (core slot : Nat) (f : TileEnt → TileEnt) : State :=
  s.updCore core (fun c => c.setTile slot (f (c.tile slot)))

/-- READY to EMPTY as the consumer cursor leaves (Table 3). -/
def TileEnt.release (t : TileEnt) : TileEnt :=
  { t with state := .empty, faulted := false, relpend := false, mass := 0, stall := 0xFFFFFFFF,
           pend := none }

/-- A release takes effect: the slot empties and its mass goes to its stall as heat (R205, R321). -/
def State.releaseSlot (s : State) (core slot : Nat) : State :=
  let t := s.tile core slot
  (s.updTile core slot TileEnt.release).heatAdd (clusterOfCore core) t.stall.toNat t.mass.toNat

/-- The consumer cursor leaves a slot (Table 3, R103); a slot that must not be left has been refused
before. -/
def State.leaveConsumer (s : State) (core slot : Nat) (inRegion : Bool) : State :=
  match (s.tile core slot).state with
  | .ready =>
    if inRegion then s.updTile core slot (fun t => { t with relpend := true })
    else s.releaseSlot core slot
  | _ => s

/-- The producer cursor leaves a slot (Table 3). -/
def TileEnt.leaveProducer (t : TileEnt) : TileEnt :=
  match t.state with
  | .empty => { t with state := if t.drains = 0 then .ready else .draining, fill := none }
  | .filling => if t.inflight then t else { t with state := if t.drains = 0 then .ready else .draining }
  | _ => t

/-- The words of a tile entry (Table 2 of R204); `owner` is the context index. -/
def TileEnt.word (t : TileEnt) (owner k : Nat) : Nat :=
  match k with
  | 0 => t.tag.toNat * 2 ^ 16 + t.fcode.toNat * 2 ^ 8 + (if t.faulted then 2 ^ 4 else 0) +
      (if t.inflight then 2 ^ 3 else 0) + (if t.relpend then 2 ^ 2 else 0) + t.state.num
  | 1 => owner % 2 * 2 ^ 35 + (if t.persist then 2 ^ 34 else 0) + t.layout.toNat * 2 ^ 31 +
      t.fmt.toNat * 2 ^ 27 + t.group.toNat * 2 ^ 26 + t.lines.toNat * 2 ^ 13 + t.base.toNat
  | 2 => t.stall.toNat * 2 ^ 32 + t.mass.toNat
  | 3 => t.cid.toNat
  | _ => 0

/-- A write reaches the scratchpad; the last DRAIN of a slot that lands makes it READY (R205). -/
def Core.land (c : Core) (w : SpWrite) : Core :=
  let c := { c with scratch := cellsWrite c.scratch 20 w.addr w.n w.data }
  match w.drain with
  | none => c
  | some i =>
    let t := c.tile i
    let n := t.drains - 1
    c.setTile i { t with drains := n, state := if n = 0 ∧ t.state = .draining then .ready else t.state }

/-! ### Command status (R272 to R277) -/

/-- A status entry (R273, Table 3). -/
def statusWord (cid : BitVec 16) (code : Nat) (inh : Bool) (state progress : Nat) : Word :=
  BitVec.ofNat 64 (cid.toNat * 2 ^ 48 + code % 256 * 2 ^ 40 + (if inh then 2 ^ 39 else 0) +
    state % 8 * 2 ^ 32 + Nat.min progress (2 ^ 32 - 1))

/-- Change the context state of a task, where it stands: on its context, or saved (R110). -/
def State.updTaskCtx (s : State) (task : Nat) (f : Ctx → Ctx) : State :=
  match sfind s.tasks task with
  | none => s
  | some t =>
    match t.st with
    | .on c => s.updCtx c f
    | _ => { s with tasks := sset s.tasks task { t with saved := t.saved.map (fun v => { v with ctx := f v.ctx }) } }

/-- Status entry of a command, in the context that holds its task. -/
def State.setStatus (s : State) (c : Cmd) (code : Nat) (inh : Bool) (state progress : Nat) : State :=
  s.updTaskCtx c.task (fun x =>
    if (x.stat c.cid).toNat / 2 ^ 48 = c.cid.toNat then
      x.setStat c.cid (statusWord c.cid code inh state progress)
    else x)

/-- The command of a context and id. -/
def State.cmd (s : State) (ctx : Nat) (cid : BitVec 16) : Option Cmd :=
  s.cmds.find? (fun c => c.ctx == ctx && c.cid == cid)

/-- Change one command. -/
def State.updCmd (s : State) (k : Cmd) (f : Cmd → Cmd) : State :=
  { s with cmds := s.cmds.map (fun (c : Cmd) => if c.ctx = k.ctx ∧ c.cid = k.cid ∧ c.task = k.task then f c else c) }

/-- Take a command out of the machine. -/
def State.dropCmd (s : State) (k : Cmd) : State :=
  { s with cmds := s.cmds.filter (fun c => !(c.ctx == k.ctx && c.cid == k.cid && c.task == k.task)) }

/-- The unit whose queue holds a command (R289), by its number in SPILL_SET, 256 + c for the groom of cluster c;
none for a command that goes to no such queue. -/
def unitOf (k : CmdKind) (ctx : Nat) : Option Nat :=
  match k with
  | .xfer q => some (4 * clusterOf ctx + q)
  | .trig _ => some (4 * clusterOf ctx + 2)
  | .kv _ => some (4 * clusterOf ctx + 3)
  | .tier _ => some (128 + ctx / 256)
  | .smpost => some (256 + clusterOf ctx)
  | .publish | .hctld | .qpush => none

/-- A command that its queue has refused (R276). -/
def Cmd.refused (c : Cmd) : Bool :=
  decide (c.st = CmdSt.waiting) && (match c.fail with
    | some f => f.code == 0x38
    | none => false)

/-- A command stands in the queue of its unit: it has been released and not refused, and has neither started nor, for a
sample request, left for the groom (R289, R354; assumption log 35). -/
def State.inQueue (s : State) (c : Cmd) : Bool :=
  match c.kind with
  | .smpost => (sget Groom.reset s.grooms (clusterOf c.ctx)).queue.contains (c.task, c.cid)
  | _ => decide (c.st = CmdSt.waiting) && !c.refused

/-- Commands that the queue of a unit holds. -/
def State.queueLen (s : State) (u : Nat) : Nat :=
  (s.cmds.filter (fun c => s.inQueue c && decide (unitOf c.kind c.ctx = some u))).length

/-- The entry that a command has in a spill ring, in a form of Config's: that of a sample request is 96 bytes (R354; assumption
log 35). -/
def Cmd.entry (k : Cmd) : List Byte :=
  let l := Config.cmdEntry ([k.ctx, k.cid.toNat, k.r1.toNat, k.r2.toNat] ++ k.regs.map (fun r => r.2.toNat))
  match k.kind with
  | .smpost => bytesOf 96 (ofBytes l)
  | _ => l

/-- Where entry `i` of a spill ring of entries of `n` bytes stands (R290). -/
def Spill.at_ (d : Spill) (i n : Nat) : Nat := d.base / 64 * 64 + n * (i % 2 ^ d.lsize)

/-- Entries in the spill ring of a unit. -/
def Spill.held (d : Spill) : Nat := (d.tail + 2 ^ 32 - d.head) % 2 ^ 32

/-- The queue of a unit takes one more command (R290): fewer than 64 stand in it, or its quota has room. -/
def State.queueRoom (s : State) (kind : CmdKind) (ctx : Nat) : Bool :=
  match unitOf kind ctx with
  | none => true
  | some u => decide (s.queueLen u < 64) || decide ((sget Spill.reset s.spills u).held < (sget Spill.reset s.spills u).quota)

/-- A command past the 64th of its queue is written to the spill ring for the pen of the descriptor (R290). -/
def State.spillCmd (s : State) (k : Cmd) : State :=
  match unitOf k.kind k.ctx with
  | none => s
  | some u =>
    if s.queueLen u < 64 then s
    else
      let d := sget Spill.reset s.spills u
      let e := k.entry
      { s.ctlPut d.pen (d.at_ d.tail e.length) e.length (ofBytes e) with
        spills := sput Spill.reset s.spills u { d with tail := (d.tail + 1) % 2 ^ 32 } }

/-- A command arrives at the queue of its unit (R289, R290, R276): false where it is refused. -/
def State.arrive (s : State) (k : Cmd) : Bool × State :=
  if s.queueRoom k.kind k.ctx then (true, s.spillCmd k) else (false, s)

/-- A sample request joins the request queue of its cluster's groom (R354). -/
def State.toGroom (s : State) (k : Cmd) : State :=
  match k.kind with
  | .smpost =>
    { s with grooms := supd Groom.reset s.grooms (clusterOf k.ctx) (fun g => { g with queue := g.queue ++ [(k.task, k.cid)] }) }
  | _ => s

/-- As the queue of a unit drains, its oldest spilled entry returns (R290). -/
def State.unspill (s : State) (k : Cmd) : State :=
  match unitOf k.kind k.ctx with
  | none => s
  | some u =>
    let d := sget Spill.reset s.spills u
    if d.tail = d.head then s
    else
      let n := k.entry.length
      { s.hbmRequest d.pen (d.at_ d.head n) n with
        spills := sput Spill.reset s.spills u { d with head := (d.head + 1) % 2 ^ 32 } }

/-- A command leaves the queue of its unit. -/
def State.leaveQueue (s : State) (k : Cmd) : State :=
  if s.inQueue k then
    ({ s with grooms := match k.kind with
        | .smpost => supd Groom.reset s.grooms (clusterOf k.ctx) (fun g => { g with queue := g.queue.filter (· != (k.task, k.cid)) })
        | _ => s.grooms }).unspill k
  else s

/-- A command retires (R273): 4 DONE, 5 FAILED, 6 CANCELLED. An aborted one retires CANCELLED (R277). -/
def State.retire (s : State) (k : Cmd) (code : Nat) (inh : Bool) (state progress : Nat) : State :=
  let s := if k.aborted then s.setStatus k 0 false 6 progress else s.setStatus k code inh state progress
  (s.leaveQueue k).dropCmd k

/-- The unit groups of Table 21a. -/
def CmdKind.group : CmdKind → Nat
  | .xfer q => q
  | .trig _ => 2
  | .kv _ => 3
  | .tier _ => 4
  | .smpost => 5
  | .hctld => 6
  | .qpush => 7
  | .publish => 8

/-- The context state of a task: on its context, or saved. -/
def State.ctxOfTask (s : State) (task ctx : Nat) : Ctx :=
  match sfind s.tasks task with
  | none => s.ctx ctx
  | some t =>
    match t.st, t.saved with
    | .on c, _ => s.ctx c
    | _, some v => v.ctx
    | _, none => s.ctx ctx

/-- What the predecessors of a command say (R274). -/
inductive PredSt where
  | go
  | wait
  | failed (code : Nat)
  | cancelled
  deriving DecidableEq, Repr

/-- One predecessor: an entry that holds a different id counts as retired without failure. -/
def predOf (c : Ctx) (p : BitVec 16) : PredSt :=
  let e := (c.stat p).toNat
  if e / 2 ^ 48 ≠ p.toNat then .go
  else match bits e 34 32 with
    | 1 => .wait
    | 2 => .wait
    | 3 => .wait
    | 5 => .failed (bits e 47 40)
    | 6 => .cancelled
    | _ => .go

/-- What the predecessors of a command say together: it waits until all have retired; then the first that did not end DONE
decides, in the order named. -/
def predsOf (c : Ctx) : List (BitVec 16) → PredSt
  | [] => .go
  | p :: r =>
    match predOf c p, predsOf c r with
    | .wait, _ => .wait
    | _, .wait => .wait
    | .go, q => q
    | q, _ => q

/-- Commands that stand before `k`. -/
def State.cmdsBefore (s : State) (k : Cmd) : List Cmd :=
  s.cmds.takeWhile (fun c => !(c.ctx == k.ctx && c.task == k.task && c.cid == k.cid))

/-- ord lets a command start (Table 21): `.ou` and `.oc` wait for earlier commands of the task; those that a former task has left
in flight on the context (R393) are not counted (R436; assumption log 97). -/
def State.ordOk (s : State) (k : Cmd) : Bool :=
  !((s.cmdsBefore k).any (fun c => c.task == k.task &&
    (k.ord == 2 || (k.ord == 1 && c.kind.group == k.kind.group))))

/-- A released command can start (R274, R275): its predecessors and ord let it, its queue has not refused it, and what its
context stored before has performed. -/
def State.cleared (s : State) (k : Cmd) : Bool :=
  s.ordOk k && !k.refused && !s.storesLeft k.task && decide (predsOf (s.ctxOfTask k.task k.ctx) k.preds = .go)

/-- The cycle in which a command arrives where it acts, plus one (R304): that of its release, or, where something holds it then
(0), that of its start. -/
def State.arrival (s : State) (k : Cmd) : Nat := if s.cleared k then s.now k.ctx + 1 else 0

/-- The place of the next command that is released (R304). -/
def State.nextRel (s : State) : Nat := (s.cmds.map (fun c => c.rel)).foldl Nat.max 0 + 1

/-- A held command is released (R100, R271): it arrives at its queue, which may refuse it (R276). -/
def State.releaseCmd (s : State) (k : Cmd) : State :=
  let (ok, s) := s.arrive k
  let s := if ok then s.toGroom k else s
  let s := s.setStatus k 0 false 2 0
  s.updCmd k (fun c =>
    let c := { c with
      st := .waiting, inRegion := false, rel := s.nextRel, fail := if ok then none else some ⟨0x38, 0, 0, 0⟩ }
    { c with at_ := s.arrival c })

/-! ### Regions (R99 to R104) -/

/-- A context is inside a region. -/
def Ctx.inRegion (c : Ctx) : Bool := c.region.isSome

/-- The snapshot of Table 3 (R100). -/
def takeSnapshot (c : Ctx) (tiles : List (Nat × TileEnt)) : Snapshot :=
  { loops := c.loops, acc := c.acc, rings := c.rings, mpc := c.mpc,
    tiles := (c.ringSlots.map (fun i => (i, sget TileEnt.reset tiles i))) }

/-- At release the pending mass is added with one addition, then a release-pending slot empties and
gives its heat (R103, R349). -/
def State.settleSlot (s : State) (core slot : Nat) : State :=
  let t := s.tile core slot
  let s := match t.pend with
    | some p => s.updTile core slot (fun t => { t with
        mass := BitVec.ofNat 32 (f32Add t.mass.toNat p.toNat).1, pend := none })
    | none => s
  if t.relpend then s.releaseSlot core slot else s

/-- The region's entries pass to the memory system, behind those of earlier regions, and perform as far as they can
(R246); what follows them waits where one acts as an acquire (R239, R241). -/
def State.releaseEnts (s : State) (ctx : Nat) (l : List SEnt) : State :=
  let a := l.filter (fun e => e.acq != 0)
  let f := if a.any (fun e => e.spans.any (fun p => s.elsewhere p.1)) then 2 else if a.isEmpty then 0 else 1
  let d := if a.any (fun e => e.acq == 2) then 1 else 0
  (s.updCtx ctx (fun c => { c with
    drain := c.drain ++ l, fence := Nat.max c.fence f, fdrop := Nat.max c.fdrop d })).drainCtx ctx

/-- Releases the open region (REGION_RELEASE, R100 step 1, R103, R349, R390): buffered stores and atomics
perform in order, held deferred commands are released, slots and records settle. -/
def State.releaseRegion (s : State) (ctx : Nat) : State :=
  match (s.ctx ctx).region with
  | none => s
  | some r =>
    let core := coreOf ctx
    let s := s.updCtx ctx (fun c => { c with region := none })
    let s := s.releaseEnts ctx r.sbuf
    let mine (c : Cmd) : Bool := c.ctx == ctx && c.task == (s.ctx ctx).task && c.inRegion
    let held := s.cmds.filter (fun c => mine c && decide (c.st = CmdSt.held))
    let s := held.foldl State.releaseCmd s
    let s := { s with cmds := s.cmds.map (fun (c : Cmd) => if mine c then { c with inRegion := false } else c) }
    let s := (s.ctx ctx).ringSlots.foldl (fun s i => s.settleSlot core i) s
    s.updCtx ctx (fun c => { c with arrivals := c.arrivals.filter (fun a => !a.2.pend) })

/-- A slot holds what an engine fill armed: READY or FILLING by a fill (R108). -/
def TileEnt.armed (t : TileEnt) : Bool :=
  t.fill.isSome && (decide (t.state = .ready) || decide (t.state = .filling))

/-- The slot was armed, after the snapshot, by a stream that was issued before the region: it counts as in flight at
region entry (R317), and keeps its state through an abort (R104 step 4; assumption log 13). -/
def streamSlot (cur snap : TileEnt) : Bool :=
  match cur.fill with
  | none => false
  | some k => decide (k.kind = CmdKind.kv 8) && !k.inRegion && cur.armed && decide (cur.fill ≠ snap.fill)

/-- A slot after an abort (R104 steps 3 to 5): its snapshot state, or, for a fill that was in flight at
region entry, the state that fill has reached. -/
def State.abortSlot (s : State) (ctx slot : Nat) (snap : TileEnt) : State :=
  s.updTile (coreOf ctx) slot (fun cur =>
    let keep := (snap.state = .filling ∧ snap.inflight) ∨ streamSlot cur snap
    let t := if keep then cur else { snap with drains := cur.drains }
    let t := if t.state = .draining ∧ t.drains = 0 then { t with state := .ready } else t
    { t with relpend := false, pend := none })

/-- Rings after an abort: the snapshot's cursors (R100, R104), but the slots that a stream of before the region has
armed stay produced (assumption log 13). -/
def State.abortRings (s : State) (ctx : Nat) (snap : Snapshot) : List (Nat × Ring) :=
  snap.rings.map (fun kr =>
    let cur := sget Ring.none (s.ctx ctx).rings kr.1
    let live := cur.slots.any (fun i => streamSlot (s.tile (coreOf ctx) i) (sget TileEnt.reset snap.tiles i))
    (kr.1, if live then { kr.2 with pc := cur.pc } else kr.2))

/-- Aborts the open region, in the order of R104 (REGION_ABORT). -/
def State.abortRegion (s : State) (ctx : Nat) : State :=
  match (s.ctx ctx).region with
  | none => s
  | some r =>
    let mine (c : Cmd) : Bool := c.ctx == ctx && c.task == (s.ctx ctx).task && c.inRegion
    let held := s.cmds.filter (fun c => mine c && decide (c.st = CmdSt.held))
    let s := held.foldl (fun s c => (s.setStatus c 0 false 6 0).dropCmd c) s
    let rings := s.abortRings ctx r.snap
    let s := r.snap.tiles.foldl (fun s kt => s.abortSlot ctx kt.1 kt.2) s
    let s := { s with cmds := s.cmds.map (fun (c : Cmd) =>
      if mine c then { c with aborted := true, inRegion := false } else c) }
    s.updCtx ctx (fun c => { c with
      region := none, loops := r.snap.loops, acc := r.snap.acc, mpc := r.snap.mpc, rings := rings,
      pc := r.restart, arrivals := c.arrivals.map (fun a => (a.1, { a.2 with pend := false })) })

end Sys2Proof.Machine
end

