-- ==== Sys2Proof/Machine/Frames.lean ====
section
/-! DEFINITION. Save frames: what one holds, and its bytes in the pen's save area (R109, R111, R389, Table 5). The order
of the items and their sizes are the spec's; the layout within an item is the model's (assumption log 31). -/

namespace Sys2Proof.Machine

def align64 (n : Nat) : Nat := (n + 63) / 64 * 64

/-- Bytes of the fixed items of Table 5, each starting on a 64-byte boundary. -/
def frameFixed : Nat :=
  [512, 136, 16384, 1024, 16448, 256, 1168, 512, 128, 576].foldl (fun a n => a + align64 n) 0

/-- Slots of a context's partition (R94). -/
def State.ownedSlots (s : State) (ctx : Nat) : List Nat :=
  (List.range 256).filter (fun i => s.owns ctx i)

/-- Gang of the task on a context. -/
def State.gangOf (s : State) (ctx : Nat) : Option Gang :=
  match sfind s.tasks (s.ctx ctx).task with
  | some t => if t.gang = 0 then none else sfind s.gangs t.gang
  | none => none

/-- The task on a context is its gang's home task, the one of smallest WID (R387). -/
def State.isHome (s : State) (ctx : Nat) : Bool :=
  match sfind s.tasks (s.ctx ctx).task with
  | some t => t.gang != 0 && s.tasks.all (fun kt => kt.2.gang != t.gang || decide (t.ord ≤ kt.2.ord))
  | none => false

/-- The gang whose barrier state the frame of the task on a context holds (R111, R389). -/
def State.homeGang (s : State) (ctx : Nat) : Option Gang := if s.isHome ctx then s.gangOf ctx else none

/-- Writes land by the cycle in which they are due, and in a cycle by their order (R184, R214). -/
def SpWrite.before (a b : SpWrite) : Bool := decide (a.due < b.due) || (a.due == b.due && decide (a.order ≤ b.order))

/-- The core as it is once the writes in flight have landed: what is saved of a context's tiles and persistent lines (R110,
R205, R207). -/
def Core.settled (c : Core) : Core := (isort SpWrite.before c.writes).foldl Core.land c

/-- Bytes that a task's frame needs (R111); a gang's home task also holds the barrier state (R389). -/
def State.frameNeed (s : State) (ctx : Nat) (latch : Bool) (gang : Option Gang) : Nat :=
  let own := s.ownedSlots ctx
  let tiles := own.map (s.core (coreOf ctx)).settled.tile
  let armed := (tiles.filter TileEnt.armed).length
  let lines := ((tiles.filter (fun t => t.persist)).map (fun t => t.bytes)).foldl (· + ·) 0
  frameFixed + align64 (24 * own.length) + align64 (32 * armed) + (if latch then align64 3080 else 0) +
    align64 lines +
    (match gang with
      | some g => align64 (8192 + 32 * g.size)
      | none => 0)

/-- The free frame with the lowest number (R111). -/
def Pen.freeFrame (p : Pen) : Option Nat :=
  (List.range (bits p.svCtl.toNat 31 16)).find? (fun f => !p.frames.contains f)

/-- The frame a task on a context can be saved in, if any (R111). -/
def State.frameFor (s : State) (ctx : Nat) (latch : Bool) (gang : Option Gang) : Option Nat :=
  let p := s.pen (s.ctx ctx).pen.toNat
  if s.frameNeed ctx latch gang ≤ bits p.svCtl.toNat 15 0 * 4096 then p.freeFrame else none

/-! ### The bytes of a frame -/

/-- Engine registers in ascending index, then the ports. -/
def Ctx.engWords (c : Ctx) : List Nat :=
  ((List.range 0x208).filter engIdx).map (fun i => (c.engReg i).toNat) ++
    (List.range 16).map (fun i => (sget 0 c.ports i).toNat)

/-- The system registers of R138, the beat formats and the multicast window. -/
def Ctx.sysWords (c : Ctx) : List Nat :=
  (List.range 8).map (fun i => (sget 0 c.mft i).toNat) ++
    [c.wid.toNat, c.fpflags.toNat, c.fprec.toNat, c.mpc.toNat, c.waitlim.toNat, c.nextcid.toNat, c.mcbase.toNat,
      c.mcmask.toNat]

/-- The HCT, then its loaded map. -/
def Ctx.hctWords (c : Ctx) : List Nat :=
  let w (i : Nat) : Nat := match c.hctAt i with
    | .loaded w => w.toNat
    | _ => 0
  let m (i : Nat) : Nat := match c.hctAt i with
    | .loaded _ => 2 ^ i
    | _ => 0
  (List.range 512).map w ++ [((List.range 512).map m).foldl (· + ·) 0 % 2 ^ 256,
    ((List.range 512).map m).foldl (· + ·) 0 / 2 ^ 256]

/-- A fill descriptor: its operands, the bundle that issued it and its id. -/
def Cmd.fillWords (k : Cmd) : List Nat := [k.r1.toNat, k.r2.toNat, k.pc.toNat, k.cid.toNat]

/-- The B latch with its marks. -/
def Latch.pack (l : Latch) : Nat := packEl 3072 l.cols + 2 ^ (8 * 3072) * (l.bfmt + 16 * l.sp + 2 ^ 63)

/-- Barriers, then the arrival records of the gang's tasks. -/
def Gang.pack (g : Gang) (recs : List (List (Nat × Arrival))) : Nat :=
  packEl 64 ((List.range 1024).map (fun i =>
    let b := sget ⟨0, 0, 0⟩ g.barriers i
    b.n % 2 ^ 16 + b.a % 2 ^ 16 * 2 ^ 16 + b.p.toNat * 2 ^ 32)) +
  2 ^ (8 * 8192) * packEl 64 (recs.flatMap (fun l => (List.range 4).map (fun i =>
    match sfind l i with
    | some a => (if a.valid then 1 else 0) + a.b % 2 ^ 16 * 2 ^ 16 + a.phase.toNat * 2 ^ 32
    | none => 0)))

/-- The arrival records of a gang's tasks, where each stands. -/
def State.gangRecords (s : State) (gang : Nat) : List (List (Nat × Arrival)) :=
  (s.tasks.filter (fun kt => kt.2.gang == gang)).map (fun kt => match kt.2.st, kt.2.saved with
    | .on c, _ => (s.ctx c).arrivals
    | _, some v => v.ctx.arrivals
    | _, none => [])

/-- The items of a frame in the order of Table 5: size in bytes and value. -/
def State.frameItems (s : State) (c : Ctx) (latch : Bool) (core : Core) (own : List Nat) (ctx : Nat) :
    List (Nat × Nat) :=
  let tiles := own.map core.tile
  let fills := (tiles.filter TileEnt.armed).filterMap TileEnt.fill
  [(512, packEl 64 ((List.range 64).map (fun i => (c.x (BitVec.ofNat 6 i)).toNat))),
   (136, packEl 64 (c.ps.toNat :: (List.range 16).map (fun i => (c.m (BitVec.ofNat 4 i)).toNat))),
   (16384, packEl 2048 ((List.range 64).map (fun i => (c.v (BitVec.ofNat 6 i)).toNat))),
   (1024, packEl 512 ((List.range 16).map (fun i => (c.e (BitVec.ofNat 4 i)).toNat))),
   (16448, packEl 256 c.hctWords),
   (256, packEl 128 ((List.range 16).map (fun i =>
     let r := c.ring (BitVec.ofNat 4 i)
     r.first + r.n * 2 ^ 32 + r.pc.toNat * 2 ^ 64 + r.cc.toNat * 2 ^ 96))),
   (1168, packEl 192 ((List.range 6).map (fun i => match c.loops[i]? with
      | some e => e.start.toNat + e.fin.toNat * 2 ^ 64 + e.rem.toNat * 2 ^ 128 + e.idx.toNat * 2 ^ 160
      | none => 0)) +
     2 ^ (8 * 144) * packEl 2048 ((List.range 4).map (fun i => (c.bank (BitVec.ofNat 2 i)).toNat))),
   (512, packEl 64 ((List.range 64).map (fun i => (sget 0 c.status i).toNat))),
   (128, packEl 64 c.sysWords), (576, packEl 64 c.engWords),
   (24 * own.length, packEl 64 (tiles.flatMap (fun t => (List.range 3).map (t.word (ctx % 2))))),
   (32 * fills.length, packEl 64 (fills.flatMap Cmd.fillWords))] ++
  (match (if latch then c.latch else none) with
    | some l => [(3080, l.pack)]
    | none => []) ++
  (tiles.filter (fun t => t.persist)).map (fun t => (t.bytes, cellsRead core.scratch 20 t.byteBase t.bytes)) ++
  (match s.homeGang ctx, sfind s.tasks c.task with
    | some g, some t => [(8192 + 32 * g.size, g.pack (s.gangRecords t.gang))]
    | _, _ => [])

/-- Writes items from an address, each on a 64-byte boundary, for a pen (R111). -/
def State.putItems (s : State) (pen : Nat) : Nat → List (Nat × Nat) → State
  | _, [] => s
  | at_, (n, v) :: r =>
    (s.ctlPut pen at_ n v).putItems pen (at_ + align64 n) r

/-- The HBM requests that read such items (R394). -/
def State.askItems (s : State) (pen : Nat) : Nat → List (Nat × Nat) → State
  | _, [] => s
  | at_, (n, _) :: r => ((linesOf at_ n).foldl (fun s p => s.hbmRequest pen p.1 p.2) s).askItems pen (at_ + align64 n) r

/-- Physical address of a frame (Table 6). -/
def Pen.framePa (p : Pen) (f : Nat) : Nat := bits p.svBase.toNat 51 12 * 4096 + f * bits p.svCtl.toNat 15 0 * 4096

end Sys2Proof.Machine
end

