-- ==== Sys2Proof/Machine/Tasks.lean ====
section
/-! DEFINITION. What the job sequencer does to jobs and tasks: counts, completion signals, saving,
stopping and ending tasks (R106, R107, R109 to R111, R378 to R384, R437). -/

namespace Sys2Proof.Machine

/-! ### Jobs (R379, R380) -/

def JobSt.num : JobSt → Nat
  | .rejected => 0 | .running => 1 | .done => 2 | .failed => 3

/-- The 64 bytes of a JCB (Table 2). -/
def Job.bytes (n : Nat) (j : Job) : Nat :=
  j.expected + j.completed * 2 ^ 64 + (j.st.num + j.code * 2 ^ 8 + n % 2 ^ 32 * 2 ^ 32) * 2 ^ 128 +
    j.signal * 2 ^ 192 + j.fseq % 2 ^ 64 * 2 ^ 256 + j.tasks % 2 ^ 64 * 2 ^ 320 + j.ended % 2 ^ 64 * 2 ^ 384 + j.late * 2 ^ 448

/-- The sequencer's fields of a job reach its JCB, for the job's pen. -/
def State.putJob (s : State) (n : Nat) (j : Job) : State :=
  { (s.ctlPut j.pen j.jcb 64 (j.bytes n)) with jobs := sset s.jobs n j }

/-- After a job has ended, only the counts of ended and late tasks change in its JCB (R380). -/
def State.putCounts (s : State) (n : Nat) (j : Job) : State :=
  { (s.ctlPut j.pen (j.jcb + 48) 16 (j.ended % 2 ^ 64 + j.late * 2 ^ 64)) with jobs := sset s.jobs n j }

/-- A job has ended (R380, R384): DONE, or FAILED with every task ended, or REJECTED. -/
def Job.over (j : Job) : Bool :=
  match j.st with
  | .running => false
  | .failed => decide (j.ended = j.tasks)
  | _ => true

/-- The value of a job's signal (R380). -/
def Job.signalValue (j : Job) : Nat := if j.st = .done then 1 else 2 ^ 63 + j.code

/-- Writes a word for the job sequencer or the graph walker, translated with emask bit 15; a write that fails leaves a log
record, and address 0 takes none (R380, R383). -/
def State.signalWord (s : State) (pen addr v : Nat) : State :=
  if addr = 0 then s
  else
    let (r, s) := s.engWrite pen 15 (.die 4) 2 addr 8 v
    match r with
    | .ok _ => s
    | .error (c, a) => s.logEvent .signalFault 1 pen [c.num, a]

/-- Writes the signal word once (R380): translated as the job sequencer with emask bit 15; a failed
translation leaves a log record. -/
def State.signalJob (s : State) (n : Nat) : State :=
  match sfind s.jobs n with
  | none => s
  | some j =>
    ({ s with jobs := sset s.jobs n { j with signalled := true } }).signalWord j.pen j.signal j.signalValue

/-- Entries of a work queue that stand in its spill ring. -/
def WorkQ.spilled (q : WorkQ) : Nat := q.tail - q.head

/-- A queue's binding ends: its entries are discarded and counted in the log (R384). -/
def State.unbindQueue (s : State) (q : Nat) : State :=
  let w := sget WorkQ.reset s.queues q
  let s := s.logEvent .queueDiscarded q w.pen [w.hw.length + w.granted.length + w.spilled]
  let e := { WorkQ.reset with
    base := w.base, quota := w.quota, lsize := w.lsize, pen := w.pen, arrivals := w.arrivals }
  { s with queues := sput WorkQ.reset s.queues q e }

/-- When a job has ended, its queues are released (R384). -/
def State.settleJob (s : State) (n : Nat) : State :=
  match sfind s.jobs n with
  | none => s
  | some j =>
    if j.over then
      j.queues.foldl (fun s q => s.unbindQueue q) { s with jobs := sset s.jobs n { j with queues := [] } }
    else s

/-- A task posts one completion (R380). -/
def State.postCompletion (s : State) (n : Nat) : State :=
  match sfind s.jobs n with
  | none => s
  | some j =>
    let j := { j with ended := j.ended + 1 }
    if j.st = .running then
      let j := { j with completed := j.completed + 1 }
      if j.completed = j.expected then
        let (q, s) := s.draw
        (s.putJob n { j with st := .done, dseq := q }).settleJob n
      else (s.putJob n j).settleJob n
    else
      let s := s.putCounts n { j with late := Nat.min (2 ^ 64 - 1) (j.late + 1) }
      (s.logEvent .lateTexit 1 j.pen [n]).settleJob n

/-- A task is terminated (R380): the first termination of a RUNNING job fails it; `q` is the number of the fault. -/
def State.countTermination (s : State) (n : Nat) (code q : Nat) : State :=
  match sfind s.jobs n with
  | none => s
  | some j =>
    let j := { j with ended := j.ended + 1 }
    if j.st = .running then
      (s.putJob n { j with st := .failed, code := code, fseq := q }).settleJob n
    else
      ((s.putCounts n j).logEvent .lateTermination 1 j.pen [n, code]).settleJob n

/-! ### Tasks that leave the machine -/

/-- A context waits in no queue any more; an entry given to a `pop` of it that has not retired goes back to the
head (R110, R391). -/
def WorkQ.leave (q : WorkQ) (ctx : Nat) : WorkQ :=
  { q with
    waiters := q.waiters.filter (· != ctx)
    granted := q.granted.filter (fun g => g.1 != ctx)
    hw := (q.granted.filter (fun g => g.1 == ctx)).map Prod.snd ++ q.hw }

def State.leaveQueues (s : State) (ctx : Nat) : State :=
  { s with queues := s.queues.map (fun (kq : Nat × WorkQ) => (kq.1, kq.2.leave ctx)) }

/-- Word 7 of a record: the idx of lc0 to lc5 modulo 1,024. -/
def loopsWord (l : List LoopEnt) : Nat :=
  (List.range 6).foldl (fun a i => match l[i]? with
    | some e => a + e.idx.toNat % 1024 * 2 ^ (10 * i)
    | none => a) 0

/-- What the task on a context has under way. -/
def State.lateOf (s : State) (ctx : Nat) : Late :=
  let c := s.ctx ctx
  let job := match sfind s.tasks c.task with
    | some t => t.job
    | none => 0
  ⟨ctx, c.task, c.pen.toNat, c.wid, c.pc.toNat, job, loopsWord c.loops, c.acks, c.drain⟩

/-- A context becomes IDLE; what waited on its behalf is forgotten. -/
def State.freeCtx (s : State) (ctx : Nat) : State :=
  let c := s.ctx ctx
  let s := if c.acks = 0 ∧ c.drain.isEmpty then s else { s with lates := s.lates ++ [s.lateOf ctx] }
  let s := s.setCtx ctx Ctx.idle
  let s := s.updCluster (clusterOf ctx) (fun c => { c with mons := c.mons.filter (fun m => m.ctx != ctx) })
  ({ s with
    barReqs := s.barReqs.map (fun (kr : Nat × List BarReq) =>
      (kr.1, kr.2.filter (fun r => r.ctx != ctx))) }).leaveQueues ctx

/-- A gang is gone once none of its tasks is left (R91). -/
def State.settleGang (s : State) (g : Nat) : State :=
  if s.tasks.any (fun kt => kt.2.gang == g) then s else { s with gangs := sdel s.gangs g }

/-- A task ends: its context and its frame are freed. -/
def State.dropTask (s : State) (task : Nat) : State :=
  match sfind s.tasks task with
  | none => s
  | some t =>
    let pen := match sfind s.jobs t.job with
      | some j => j.pen
      | none => 0
    let s := match t.st with
      | .on c => s.freeCtx c
      | _ => s
    let s := match t.frame with
      | some f => s.updPen pen (fun p => { p with frames := p.frames.filter (· != f) })
      | none => s
    ({ s with tasks := sdel s.tasks task }).settleGang t.gang

/-- One task is terminated without completion (R106, R107): its open region is discarded. -/
def State.killTask (s : State) (code q task : Nat) : State :=
  match sfind s.tasks task with
  | none => s
  | some t =>
    let s := match t.st with
      | .on c => s.abortRegion c
      | _ => s
    (s.dropTask task).countTermination t.job code q

/-- Terminates a task, and with it the rest of its gang (R107). -/
def State.terminate (s : State) (code q task : Nat) : State :=
  match sfind s.tasks task with
  | none => s
  | some t =>
    let mates := if t.gang = 0 then []
      else (s.tasks.filter (fun kt => kt.2.gang == t.gang && kt.1 != task)).map Prod.fst
    mates.foldl (fun s k => s.killTask code q k) (s.killTask code q task)

/-! ### Saving a task (R109 to R111, Table 5) -/

/-- The bytes of the persistent tiles among some slots. -/
def persistLines (core : Core) (slots : List Nat) : List (Nat × Byte) :=
  core.scratch.filter (fun b => slots.any (fun i =>
    let t := core.tile i
    t.persist && decide (t.byteBase ≤ b.1) && decide (b.1 < t.byteBase + t.bytes)))

/-- Commands of a task that stop with it: a stream retires CANCELLED and is kept for its reissue (R320). The others run on,
but what they would write into the scratchpad is not written once the task has left its context (R110; assumption
log 14). -/
def State.haltCommands (s : State) (task : Nat) : State :=
  let streams := s.cmds.filter (fun c => c.task == task && decide (c.kind = CmdKind.kv 8))
  let s := streams.foldl (fun s c => s.retire c 0 false 6 c.pos) s
  s.updTaskCtx task (fun c => { c with halted := c.halted ++ streams.filter (fun k => !k.aborted) })

/-- Scale loads in flight complete before the registers are saved (R215). -/
def Ctx.settleScl (c : Ctx) : Ctx :=
  c.scl.foldl (fun c l => c.setE (BitVec.ofNat 4 l.2.1) l.2.2) { c with scl := [] }

/-- The gather port reads the elements that `f` picks (R161). -/
def Ctx.portRead (c : Ctx) (core : Core) (f : PortRead → Bool) : Ctx :=
  (c.gath.filter f).foldl (fun c r => { c with
      vs := sput 0 c.vs r.vd.toNat (BitVec.ofNat 2048 (packEl (8 * r.n) ((List.range (256 / r.n)).map (fun i =>
        if i = r.ix then cellsRead core.scratch 20 r.addr r.n else el (8 * r.n) (c.v r.vd).toNat i)))) })
    { c with gath := c.gath.filter (fun r => !f r) }

/-- Marks of results that are not available yet, as the cycles that are left: a resumed task waits them out (R166). -/
def leftOf (now : Nat) (sb : List (Nat × Nat)) : List (Nat × Nat) :=
  sb.filterMap (fun m => if now < m.2 then some (m.1, m.2 - now) else none)

/-- What is kept of a context (Table 5, R138): park, remote accesses and waits are lost, but for that of a shoot-down (R230);
answers of a barrier or a queue are kept with the bundle they belong to (R110, R389). -/
def Ctx.forSave (c : Ctx) (latch : Bool) (now : Nat) : Ctx :=
  let c := c.settleScl
  { c with
    st := .ready, latch := if latch then c.latch else none, denial := 0, sole := false, yielded := false,
    sb := leftOf now c.sb, divFree := c.divFree - now, sfuDue := 0, remote := [], acks := 0, drain := [], paid := 0, leave := none,
    cacheBusy := false, ans := { c.ans with wake := none } }

/-- A context leaves: its gathers end, and DRAINs in flight into its slots still write the scratchpad in their cycle, as
other writes do (R184, R214), but change no slot, which has been saved as they leave it. -/
def State.settleWrites (s : State) (ctx : Nat) : State :=
  let own := s.ownedSlots ctx
  let s := s.updCtx ctx (fun c => c.portRead (s.core (coreOf ctx)) (fun _ => true))
  s.updCore (coreOf ctx) (fun c => { c with
    writes := c.writes.map (fun w => if w.drain.any own.contains then { w with drain := none } else w) })

/-- Saves a task into a frame and frees its context (R109, R111). Its region has been discarded. -/
def State.saveInto (s : State) (ctx frame : Nat) (latch : Bool) (st : TaskSt) (code q : Nat) : State :=
  let s := s.haltCommands (s.ctx ctx).task
  let core := (s.core (coreOf ctx)).settled
  let s := s.settleWrites ctx
  let c := s.ctx ctx
  match sfind s.tasks c.task with
  | none => s
  | some t =>
    let own := s.ownedSlots ctx
    let pen := c.pen.toNat
    let x := c.forSave latch (s.now ctx)
    let sv : Saved := ⟨x, own.map (fun i => (i, core.tile i)), persistLines core own⟩
    let s := s.putItems pen ((s.pen pen).framePa frame) (s.frameItems x latch core own ctx)
    let s := s.updPen pen (fun p => { p with frames := frame :: p.frames })
    let t := { t with st := st, last := ctx, saved := some sv, frame := some frame, stopCode := code, stopSeq := q }
    let s := s.freeCtx ctx
    { s with tasks := sset s.tasks c.task t }

/-- A task becomes STOPPED (R106, R111): saved in a frame where that can be, else kept on its context. -/
def State.stopTask (s : State) (ctx : Nat) (latch : Bool) (code q : Nat) : State :=
  match s.frameFor ctx latch (s.homeGang ctx) with
  | some f => s.saveInto ctx f latch .stopped code q
  | none =>
    let task := (s.ctx ctx).task
    let s := s.haltCommands task
    let s := match sfind s.tasks task with
      | some t => { s with tasks := sset s.tasks task { t with stopCode := code, stopSeq := q } }
      | none => s
    s.updCtx ctx (fun c => { c with st := .stopped })

/-- Contexts of the gang of the task on a context, itself first; a task in no gang stands alone. -/
def State.gangCtxs (s : State) (ctx : Nat) : List Nat :=
  match sfind s.tasks (s.ctx ctx).task with
  | none => [ctx]
  | some t =>
    if t.gang = 0 then [ctx]
    else ctx :: (s.tasks.filterMap (fun kt =>
      if kt.2.gang = t.gang then
        match kt.2.st with
        | .on c => if c = ctx then none else some c
        | _ => none
      else none))

/-- Immediate commands of a context's task, streams left out, that have not retired (R109). -/
def State.immediates (s : State) (ctx : Nat) : Bool :=
  s.cmds.any (fun c => c.ctx == ctx && c.task == (s.ctx ctx).task && !c.deferred &&
    !decide (c.kind = CmdKind.kv 8))

/-- A task that can be pre-empted: neither STOPPED on its context nor PARKED there for the drover, both of which found no
frame (R111). -/
def Ctx.canLeave (c : Ctx) : Bool :=
  match c.st with
  | .stopped => false
  | .parked (.near _ _) => false
  | _ => true

/-- A context begins to leave (R109 step 1): its open region is discarded, and it issues no more. -/
def State.beginLeave (s : State) (ctx : Nat) : State :=
  let c := s.ctx ctx
  if c.leave.isSome then s
  else (s.abortRegion ctx).updCtx ctx (fun x => { x with
    leave := some ⟨!c.inRegion && c.latch.isSome, !c.inRegion, none⟩ })

/-- Nothing keeps a context that begins to leave: outside a region its immediate commands have retired (R109), and its last
SFU operation has written (R166). -/
def State.canGo (s : State) (ctx : Nat) : Bool :=
  match (s.ctx ctx).leave with
  | some l => (!l.wait || !s.immediates ctx) && decide ((s.ctx ctx).sfuDue ≤ s.now ctx)
  | none => false

/-- Contexts that leave are saved in order, each task into its own frame; none where one cannot be (R109, R111). -/
def State.saveAll (s : State) : List Nat → Option State
  | [] => some s
  | c :: r =>
    match (s.ctx c).leave with
    | none => none
    | some l =>
      match s.frameFor c l.latch (s.homeGang c) with
      | none => none
      | some f =>
        let st := match l.near with
          | some p => TaskSt.near p.1 p.2
          | none => .saved
        (s.saveInto c f l.latch st 0 0).saveAll r

/-- Contexts stay after all. One that `KV_NOT_NEAR` was to requeue stays PARKED, its streams stopped, until the drover has
promoted the page (R111, R320). -/
def State.stay (s : State) (l : List Nat) : State :=
  l.foldl (fun s c =>
    let near := (s.ctx c).leave.any (fun l => l.near.isSome)
    (if near then s.haltCommands (s.ctx c).task else s).updCtx c (fun x => { x with leave := none })) s

/-- The contexts of a gang leave together once nothing keeps any of them; where a frame is missing by then, they stay. -/
def State.finishLeave (s : State) (ctx : Nat) : State :=
  let l := (s.gangCtxs ctx).filter (fun c => (s.ctx c).leave.isSome)
  if l.isEmpty || !l.all s.canGo then s else (s.saveAll l).getD (s.stay l)

/-- Contexts begin to leave, and leave at once where nothing keeps them; none where one of them cannot be saved. -/
def State.leaveAll (s : State) (l : List Nat) : Option State :=
  if l.all (fun c => (s.ctx c).canLeave) then
    let s := l.foldl State.beginLeave s
    match s.saveAll l with
    | none => none
    | some t => some (if l.all s.canGo then t else s)
  else none

/-- After `KV_NOT_NEAR` the task is saved as on pre-emption and waits for the drover; a gang goes as one;
where that cannot be, the task stays PARKED (R106, R111; assumption log 14). `latch` and `out` say that its B latch is
saved, and that it was outside a region. -/
def State.requeueNear (s : State) (ctx handle page : Nat) (latch out : Bool) : State :=
  let park := s.updCtx ctx (fun c => { c with st := .parked (.near handle page) })
  let mates := (s.gangCtxs ctx).filter (· != ctx)
  let t := mates.foldl State.beginLeave
    (park.updCtx ctx (fun c => { c with leave := some ⟨latch, out, some (handle, page)⟩ }))
  let all := ctx :: mates
  match (if mates.all (fun c => (s.ctx c).canLeave) then t.saveAll all else none) with
  | some u => if all.all t.canGo then u else t
  | none => park.haltCommands (s.ctx ctx).task

/-- A graph fails (R383). -/
def State.failGraph (s : State) (n : Nat) (code : Nat) : State :=
  match sfind s.graphs n with
  | none => s
  | some g => { (s.signalWord g.pen g.signal (2 ^ 63 + code)) with graphs := sdel s.graphs n }

/-- A `TABLE_STRUCTURE` fault ends its pen's work (PEN_TABLE_FAILURE, R437), in the order of the rule. -/
def State.penFail (s : State) (pen q : Nat) : State :=
  let code := Code.tableStructure.num
  let ofPen (job : Nat) : Bool := match sfind s.jobs job with
    | some j => j.pen == pen
    | none => false
  let live := (s.jobs.filter (fun kj => kj.2.pen == pen && !kj.2.over)).map Prod.fst
  let s := ((s.tasks.filter (fun kt => ofPen kt.2.job)).map Prod.fst).foldl (fun s t => s.killTask code q t) s
  let s := (s.launches.filter (fun kl => ofPen kl.2.job)).foldl (fun s kl =>
    (List.range (kl.2.total - kl.2.next)).foldl (fun s _ => s.countTermination kl.2.job code q)
      { s with launches := sset s.launches kl.1 { kl.2 with next := kl.2.total } }) s
  let s := live.foldl (fun (s : State) (n : Nat) =>
    let s := match sfind s.jobs n with
      | none => s
      | some j =>
        if j.st = JobSt.running then (s.putJob n { j with st := JobSt.failed, code := code, fseq := q }).settleJob n else s
    let s := match sfind s.jobs n with
      | some j => if decide (j.st = JobSt.failed) && j.over && !j.signalled then s.signalJob n else s
      | none => s
    (s.graphs.filter (fun (kg : Nat × Graph) => kg.2.job == some n)).foldl
      (fun (s : State) (kg : Nat × Graph) => s.failGraph kg.1 code) s) s
  s.updPen pen (fun p => { p with root := p.root &&& ~~~1#64 })

/-- A unit of the control plane that meets `TABLE_STRUCTURE` ends its pen's work (R437). -/
def State.seqFault (s : State) (pen : Nat) (c : Code) : State :=
  if c = .tableStructure then
    let (q, s) := s.draw
    s.penFail pen q
  else s

/-- A signal write of the job sequencer or the walker, with what a fault of it leads to. -/
def State.signal (s : State) (pen addr v : Nat) : State :=
  let t := s.signalWord pen addr v
  if addr = 0 then t
  else match (s.engWrite pen 15 (.die 4) 2 addr 8 v).1 with
    | .ok _ => t
    | .error e => t.seqFault pen e.1

end Sys2Proof.Machine
end

