-- ==== Sys2Proof/Machine/Ops.lean ====
section
/-! DEFINITION. The operations that the meanings of slot operations share: guards, register writes with
their latencies, and taking a fault (R8, R106, R231 to R233). -/

namespace Sys2Proof.Machine

/-- What a meaning answers. -/
abbrev Out := Host.Outcome State Fault Refusal

/-! ### Fault records (R231 to R233) -/

/-- The source field of a fault of a slot (Table 7). -/
def slotSource : Slot → Nat
  | .c => 0 | .s => 1 | .e => 2 | .x => 3 | _ => 4

/-- The fields of a fault record (R231, Table 7). -/
structure FaultRec where
  seq : Nat
  pen : Nat
  ctx : Nat
  code : Nat
  source : Nat
  cmd : Bool
  kv : Bool
  region : Bool
  merged : Nat
  cid : Nat
  wid : Word
  pc : Nat
  rpc : Nat
  job : Nat
  extent : Nat
  addr : Nat
  loops : Nat
  xregs : List Word
  deriving DecidableEq, Repr

/-- The sixteen words of a record (R231, Table 7). -/
def FaultRec.words (r : FaultRec) : List Word :=
  [BitVec.ofNat 64 r.seq,
   BitVec.ofNat 64 (r.pen % 64 * 2 ^ 58 + r.ctx % 1024 * 2 ^ 48 + r.code % 256 * 2 ^ 40 +
     r.source % 16 * 2 ^ 36 + (if r.cmd then 2 ^ 34 else 0) + (if r.kv then 2 ^ 33 else 0) +
     (if r.region then 2 ^ 32 else 0) + Nat.min r.merged 0xFFFF * 2 ^ 16 +
     (if r.cmd then r.cid % 2 ^ 16 else 0)),
   r.wid, BitVec.ofNat 64 (r.pc % 2 ^ 60), BitVec.ofNat 64 (r.rpc % 2 ^ 60),
   BitVec.ofNat 64 (r.job % 2 ^ 32 * 2 ^ 32 + Nat.min r.extent (2 ^ 32 - 1)), BitVec.ofNat 64 r.addr,
   BitVec.ofNat 64 r.loops] ++ (List.range 8).map (fun i => r.xregs.getD i 0)

/-- The fault queue of a pen can be written: configured, and not full (R225, R233). -/
def Pen.fqOpen (p : Pen) : Bool :=
  let l := bits p.fqCtl.toNat 4 0
  decide (4 ≤ l) && decide (l ≤ 16) && decide ((p.fqTail - p.fqHead).toNat < 2 ^ l)

/-- Where the next record of a fault queue goes: at index tail mod 2^lsize (R233). -/
def Pen.fqAt (p : Pen) : Nat := bits p.fqBase.toNat 51 7 * 128 + 128 * (p.fqTail.toNat % 2 ^ bits p.fqCtl.toNat 4 0)

/-- The hardware writes a record there and then increments tail (R233). -/
def State.fqWrite (s : State) (pen : Nat) (words : List Word) : State :=
  let at_ := (s.pen pen).fqAt
  ((s.hbmRequest pen at_ 128).physWrite none at_ 128 (packWords words)).updPen pen (fun p => { p with fqTail := p.fqTail + 1 })

/-- A record goes to its pen's fault queue, behind what a budget of the pen holds (R396); where there is no room, one that stops
its task is held and any other is dropped, counted and noted in the log with its number (R233). -/
def State.postRecord (s : State) (r : FaultRec) (stops : Bool) : State :=
  if (s.pen r.pen).fqOpen then
    if s.mayAsk r.pen (s.pen r.pen).fqAt then s.fqWrite r.pen r.words
    else (s.budgetHold 3 r.pen).updPen r.pen (fun p => { p with held := p.held ++ [r.words] })
  else if stops then s.updPen r.pen (fun p => { p with held := p.held ++ [r.words] })
  else (s.updPen r.pen (fun p => { p with fqLost := satInc p.fqLost })).evlPut
    (evWords r.seq .faultDropped 0 r.pen [r.code, r.ctx])

/-! ### Taking a fault (FAULT_DELIVERY, R106) -/

/-- What becomes of a task (R106, Table 4). -/
inductive Disposition where
  | requeue | stop | terminate | penFail | machineCheck | none
  deriving DecidableEq, Repr

/-- Table 4 of R106. -/
def Code.disposition : Code → Disposition
  | .kvNotNear => .requeue
  | .notPresent | .permission | .engineMask | .kvRecalled | .queueQuota | .softTrap => .stop
  | .tableStructure => .penFail
  | .machineCheck => .machineCheck
  | .yardFull | .sampleParam | .logitFault => .none
  | .illegalSyllable | .illegalSlot | .reservedField | .hctInvalid | .nonuniformBranch | .loopOverflow
  | .loopUnderflow | .regionFull | .privilege | .bankConflict | .tileNotArmed | .layoutMismatch
  | .ringMisuse | .formatMismatch | .genWrite | .sparseMeta | .orderKind | .misaligned | .kvStale
  | .kvExtent | .barrierMisuse | .jobRaise => .terminate

/-- Job number of the task on a context. -/
def State.jobOf (s : State) (ctx : Nat) : Nat :=
  match sfind s.tasks (s.ctx ctx).task with
  | some t => t.job
  | none => 0

/-- The record of a fault of a bundle (R231). -/
def State.bundleRecord (s : State) (ctx : Nat) (pc : Nat) (f : FaultInfo) : FaultRec :=
  let c := s.ctx ctx
  { seq := s.seq, pen := c.pen.toNat, ctx := ctx, code := f.code.num,
    source := match f.source with
      | some n => n
      | none => slotSource f.slot
    cmd := f.cid.isSome, kv := f.kv, region := c.inRegion, merged := f.merged,
    cid := match f.cid with
      | some i => i.toNat
      | none => 0
    wid := c.wid, pc := pc,
    rpc := match c.region with
      | some r => r.restart.toNat
      | none => pc
    job := s.jobOf ctx, extent := f.extent, addr := f.addr, loops := loopsWord c.loops, xregs := [] }

/-- A fault is taken (R106): its record is posted, an open region is aborted, and the task is disposed of
as its code says. The state is that from before the bundle (R8). -/
def takeFault (f : FaultInfo) (s : State) : State :=
  let ctx := s.issue.ctx
  let c := s.ctx ctx
  let r := s.bundleRecord ctx s.issue.pc.toNat f
  let s := { s with seq := s.seq + 1 }
  let s := s.postRecord r (decide (f.code.disposition = .stop))
  let out := !c.inRegion
  let latch := out && c.latch.isSome
  let s := (s.abortRegion ctx).updCtx ctx (fun x => { x with cause := f.cid })
  match f.code.disposition with
  | .requeue => s.requeueNear ctx (f.addr / 2 ^ 32) (f.addr % 2 ^ 32) latch out
  | .stop => s.stopTask ctx latch f.code.num r.seq
  | .terminate => s.terminate f.code.num r.seq c.task
  | .penFail => s.penFail c.pen.toNat r.seq
  | .machineCheck => (s.terminate f.code.num r.seq c.task).logEvent .machineCheck ctx c.pen.toNat [f.addr]
  | .none => s

/-- `trap` and `sys` stop the task once their bundle has taken full effect; the region is released and
the task resumes at the next bundle (R102, R106, R231). `code` is 0x0A or 0xFF. -/
def stopService (code arg : Nat) (xregs : List Word) (s : State) : State :=
  let ctx := s.issue.ctx
  let c := s.ctx ctx
  let pc := s.issue.pc.toNat
  let r : FaultRec :=
    { seq := s.seq, pen := c.pen.toNat, ctx := ctx, code := code, source := 0, cmd := false, kv := false,
      region := false, merged := 0, cid := 0, wid := c.wid, pc := pc, rpc := pc, job := s.jobOf ctx,
      extent := 0, addr := arg, loops := loopsWord c.loops, xregs := xregs }
  let s := { s with seq := s.seq + 1 }
  (s.postRecord r true).stopTask ctx c.latch.isSome Code.softTrap.num r.seq

/-! ### One slot operation of a bundle -/

/-- The registers as they stood before the bundle (R118). -/
def State.pre (s : State) : Ctx := s.issue.pre

/-- The bundle is not ready (R113). -/
def State.stall (s : State) : State := { s with issue := { s.issue with status := .stall } }

/-- The bundle is not ready and leaves a request or parks its context. -/
def State.stallFor (s : State) (p : Post) : State :=
  { s with issue := { s.issue with status := .stall, post := some p } }

/-- The operation raises a fault (R8): the fault is taken, and the bundle is marked. -/
def State.fail (s : State) (f : FaultInfo) : State :=
  { takeFault f s with issue := { s.issue with status := .fault f } }

/-- A fault with an address. -/
def State.faultAt (s : State) (c : Code) (addr : Nat) : State :=
  s.fail ⟨c, addr, s.issue.slot, none, none, false, 0, 0⟩

/-- A fault without one. -/
def State.fault (s : State) (c : Code) : State := s.faultAt c 0

/-- A syllable under its guard: a guard that is false leaves no effect. -/
def guarded (g : BitVec 4) (f : State → State) (s : State) : Out := .next (if s.pre.p g then f s else s)

/-- Keys of the interlocks (R119, R143, R184): x, p, v, m, banks and the B latch. -/
def keyX (i : BitVec 6) : Nat := i.toNat
def keyP (i : BitVec 4) : Nat := 64 + i.toNat
def keyV (i : BitVec 6) : Nat := 128 + i.toNat
def keyM (i : BitVec 4) : Nat := 192 + i.toNat
def keyA (i : BitVec 2) : Nat := 256 + i.toNat
def keyLatch : Nat := 300

/-- A result is available from a cycle on; one that the next cycle can read needs no mark. -/
def Ctx.avail (c : Ctx) (key now lat : Nat) : Ctx :=
  { c with sb := sput 0 c.sb key (if lat ≤ 1 then 0 else now + lat) }

/-- Writes x[rd], available after `lat` cycles (R119). -/
def State.putX (s : State) (rd : BitVec 6) (v : Word) (lat : Nat) : State :=
  let now := s.now s.issue.ctx
  s.updCur (fun c => (c.setX rd v).avail (keyX rd) now lat)

/-- Writes v[vd], available after `lat` cycles (R143). -/
def State.putV (s : State) (vd : BitVec 6) (v : VWord) (lat : Nat) : State :=
  let now := s.now s.issue.ctx
  s.updCur (fun c => (c.setV vd v).avail (keyV vd) now lat)

/-- Writes m[md], available after `lat` cycles (R143). -/
def State.putM (s : State) (md : BitVec 4) (v : BitVec 64) (lat : Nat) : State :=
  let now := s.now s.issue.ctx
  s.updCur (fun c => (c.setM md v).avail (keyM md) now lat)

end Sys2Proof.Machine
end

