-- ==== Sys2Proof/Machine/Flags.lean ====
section
/-! DEFINITION. Floating flags and the first-event record (R86 to R88), and the conditions of compares
(R129, R130, R148). -/

namespace Sys2Proof.Machine

/-- The flag group of a slot (Table 10); C and SC raise none. -/
def slotGroup : Slot → Option Nat
  | .s => some 0 | .e => some 1 | .va => some 2 | .vb => some 3 | .vc => some 4 | .vd => some 5
  | .sfu => some 6 | .x => some 7 | _ => none

/-- The event of a set that comes first in the order of Table 9. -/
def firstKind (fl : Flags) : Nat :=
  if fl.getLsbD 0 then 0 else if fl.getLsbD 1 then 1 else if fl.getLsbD 2 then 2
  else if fl.getLsbD 3 then 3 else 4

/-- `ctx.fprec` for an event (Table 11). -/
def fprecWord (group kind : Nat) (pc : BitVec 60) : BitVec 64 :=
  BitVec.ofNat 64 (2 ^ 63 + group * 2 ^ 60 + kind * 2 ^ 57 + pc.toNat / 16 * 2)

/-- Sets sticky flags of a group, and the first-event record if it is clear (R86, R87). -/
def Ctx.raise (c : Ctx) (group : Nat) (fl : Flags) (pc : BitVec 60) : Ctx :=
  if fl = 0 then c
  else { c with
    fpflags := c.fpflags ||| (fl.setWidth 64 <<< (5 * group)),
    fprec := if c.fprec.getLsbD 63 then c.fprec else fprecWord group (firstKind fl) pc }

/-- Events of the operation that is issuing go to the group of its slot (R86). -/
def State.raise (s : State) (fl : Flags) : State :=
  match slotGroup s.issue.slot with
  | some g => s.updCur (fun c => c.raise g fl s.issue.pc)
  | none => s

/-- An integer condition code of Table 18a on `w`-bit patterns (R129). -/
def icmpCond (w cc a b : Nat) : Bool :=
  match cc with
  | 0 => a == b
  | 1 => a != b
  | 2 => decide (sextInt a w < sextInt b w)
  | 3 => decide (sextInt a w ≤ sextInt b w)
  | 4 => decide (sextInt b w < sextInt a w)
  | 5 => decide (sextInt b w ≤ sextInt a w)
  | 6 => decide (a < b)
  | _ => decide (b ≤ a)

/-- The accumulating types of Table 6 (R130, R131). -/
def ctAccum (ct : Nat) : Bool := ct == 2 || ct == 3 || 5 ≤ ct

/-- What a combining type writes with a true guard (Table 6): pa and pb, none for no write. -/
def combine (ct : Nat) (c pa pb : Bool) : Option Bool × Option Bool :=
  match ct with
  | 0 | 1 => (some c, some !c)
  | 2 => (some (pa && c), some (pb || !c))
  | 3 => (some (pa || c), some (pb && !c))
  | 4 => (some c, some pa)
  | 5 => (some (pa ^^ c), some (pb ^^ c))
  | 6 => (some (pa || c), some (pb || !c))
  | _ => (some (pa && c), some (pb && !c))

end Sys2Proof.Machine
end

