-- ==== Sys2Proof/Machine/Operands.lean ====
section
/-! DEFINITION. Operand forms: scratchpad reads and their banks, ring chunks (R69, R139
to R144, R201, R202, R206, R211). -/

namespace Sys2Proof.Machine

/-! ### Scratchpad (R158, R201, R202) -/

/-- `n` bytes of a core's scratchpad; writes of the current cycle are not seen. -/
def Core.spRead (c : Core) (a n : Nat) : Nat := cellsRead c.scratch 20 a n

/-- Bank of a scratchpad line, lines of group B after those of group A (R201). -/
def bankOf (line : Nat) : Nat := if line < 6144 then line % 64 else 64 + (line - 6144) % 32

/-- A new line needs a bank that another line of the bundle's reads has taken (R202). -/
def bankClash (lines : List Nat) (line : Nat) : Bool :=
  lines.any (fun l => l != line && bankOf l == bankOf line)

/-- `k` lines from the one at a byte address. -/
def linesAt (a k : Nat) : List Nat := (List.range k).map (fun i => a / 128 + i)

/-- An earlier `vscatter` is still to finish that writes one of some lines: a bundle that reads them is not ready (R161). -/
def State.scattering (s : State) (lines : List Nat) : Bool := lines.any s.issue.portLines.contains

/-- Reads of lines by the bundle; none where two need different lines of one bank. -/
def addLines (have_ : List Nat) : List Nat → Option (List Nat)
  | [] => some have_
  | l :: r =>
    if bankClash have_ l then none
    else addLines (if have_.contains l then have_ else l :: have_) r

/-! ### Ring operands (R144, R206, R211) -/

/-- What an operand gives: a value with the lines it reads, a wait, or a fault. -/
inductive Opnd where
  | val (v : Nat) (lines : List Nat)
  | wait
  | fault (f : FaultInfo)
  deriving DecidableEq, Repr

/-- The tile entries from before the bundle. -/
def State.preTile (s : State) (slot : Nat) : TileEnt := sget TileEnt.reset s.issue.preTiles slot

/-- A fill is in flight into a slot: one that has marked it, or a stream of the context that fills the
ring the slot is in (R211, R317). -/
def State.fillComing (s : State) (slot : Nat) : Bool :=
  (s.preTile slot).inflight ||
  s.cmds.any (fun c => c.ctx == s.issue.ctx && decide (c.kind = CmdKind.kv 8) && !c.aborted &&
    [0x106, 0x107, 0x108].any (fun r =>
      (s.pre.ring (BitVec.ofNat 4 (sget 0 c.regs r).toNat)).slots.contains slot))

/-- The fault that a faulted slot raises at its consumption (R206): the code of its fill, with the fill's
command id. -/
def State.slotFault (s : State) (slot : Nat) : FaultInfo :=
  let t := s.preTile slot
  let f : FailAt := match t.fill with
    | some c => c.fail.getD ⟨0, 0, 0, 0⟩
    | none => ⟨0, 0, 0, 0⟩
  let kv := match t.fill with
    | some c => decide (c.kind = CmdKind.kv 8) && f.addr != 0
    | none => false
  ⟨Code.ofNum t.fcode.toNat, f.addr, s.issue.slot, some 6, some t.cid, kv, f.extent, f.merged⟩

def State.info (s : State) (c : Code) : FaultInfo := ⟨c, 0, s.issue.slot, none, none, false, 0, 0⟩

/-- The rules every consumer of a slot meets: an unarmed slot faults, a slot that is not READY waits, a
faulted one raises its fault (R144, R206, R211); the answer is whether it can be read. -/
def State.slotReady (s : State) (slot : Nat) : Except (Option FaultInfo) Unit :=
  let t := s.preTile slot
  match t.state with
  | .empty => if s.fillComing slot then .error none else .error (some (s.info .tileNotArmed))
  | .ready => if t.faulted then .error (some (s.slotFault slot)) else .ok ()
  | _ => .error none

/-- Format codes 11 and 12 are no vector operands (R144). -/
def TileEnt.badChunk (t : TileEnt) : Bool := t.fmt == 11 || t.fmt == 12

/-- `k` lines of a ring from line `off` past its consumer cursor: slot and byte address (R211). -/
def State.ringSpan (s : State) (h : BitVec 4) (off k : Nat) : Except FaultInfo (Nat × Nat) :=
  let r := s.pre.ring h
  if r.n = 0 then .error (s.info .ringMisuse)
  else
    match ringAt s.preTile r ((r.cc.toNat + off) % 2 ^ 32) with
    | none => .error (s.info .ringMisuse)
    | some (slot, o) =>
      if (s.preTile slot).lines.toNat < o + k then .error (s.info .ringMisuse)
      else .ok (slot, (s.preTile slot).byteBase + 128 * o)

/-- The chunk at offset `k` of a ring (R144). -/
def State.chunk (s : State) (h : BitVec 4) (k : Nat) : Opnd :=
  match s.ringSpan h (2 * k) 2 with
  | .error f => .fault f
  | .ok (slot, a) =>
    match s.slotReady slot with
    | .error none => .wait
    | .error (some f) => .fault f
    | .ok _ =>
      if (s.preTile slot).badChunk then .fault (s.info .formatMismatch)
      else if s.scattering (linesAt a 2) then .wait
      else .val (s.curCore.spRead a 256) (linesAt a 2)

/-- A source field of a vector or SFU slot (R35, R144); one that no active element uses is not read. -/
def State.operand (s : State) (src : BitVec 7) (used : Bool) : Opnd :=
  if !used then .val 0 []
  else if src.toNat < 64 then .val (s.pre.v (src.setWidth 6)).toNat []
  else s.chunk (BitVec.ofNat 4 (bits src.toNat 5 2)) (src.toNat % 4)

def Opnd.isWait : Opnd → Bool
  | .wait => true
  | _ => false

/-- Reads operands in order: a wait of any of them makes the bundle not ready, else the first fault is
raised; then bank conflicts are checked, and `k` receives the values. -/
def State.withOperands (s : State) (l : List Opnd) (k : List Nat → State → State) : State :=
  if l.any Opnd.isWait then s.stall
  else
    match l.findSome? (fun o => match o with
      | .fault f => some f
      | _ => none) with
    | some f => s.fail f
    | none =>
      let lines := l.flatMap (fun o => match o with
        | .val _ ls => ls
        | _ => [])
      let vals := l.map (fun o => match o with
        | .val v _ => v
        | _ => 0)
      match addLines s.issue.lines lines with
      | none => s.fault .bankConflict
      | some ls => k vals { s with issue := { s.issue with lines := ls } }

/-! ### Governing masks and the merge (R140, R141) -/

/-- Element `i` of `n` is active under a mask (R140). -/
def activeAt (mask : BitVec 64) (n i : Nat) : Bool := mask.getLsbD (i * 64 / n)

/-- Some element is active and uses a source. -/
def anyActive (mask : BitVec 64) (n : Nat) (use : Nat → Bool) : Bool :=
  (List.range n).any (fun i => activeAt mask n i && use i)

/-- The merge of R141 over `n` elements of width `w`, by an activity of its own: the vector, and the
events of the active elements. -/
def mergeBy (act : Nat → Bool) (zero : Bool) (w n old : Nat) (f : Nat → Nat × Flags) : Nat × Flags :=
  (List.range n).foldr (fun i acc =>
    let r := if act i then f i else (if zero then 0 else el w old i, fNone)
    (r.1 % 2 ^ w + 2 ^ w * acc.1, r.2 ||| acc.2)) (0, fNone)

end Sys2Proof.Machine
end

