-- ==== Sys2Proof/Machine/CoreMem.lean ====
section
/-! DEFINITION. Accesses of a core to device memory: loads, stores, atomics, fences, `waita`, shoot-downs and
cache control (R229, R230, R236 to R258, R264, R265, R402, R406). -/

namespace Sys2Proof.Machine

/-! ### Translating the pieces of an access -/

/-- Virtual addresses are taken modulo 2^60 (R251). -/
def va60 (a : Word) : Nat := a.toNat % 2 ^ 60

/-- Translates addresses in order; an error names the address (R222). -/
def State.xlateAll (s : State) (a : Access) : List Nat → Except (Code × Nat) (List Xlat) × State
  | [] => (.ok [], s)
  | va :: r =>
    let (x, s) := s.xlate a va
    match x with
    | .error c => (.error (c, va % 2 ^ 60), s)
    | .ok t =>
      let (y, s) := s.xlateAll a r
      match y with
      | .error e => (.error e, s)
      | .ok ts => (.ok (t :: ts), s)

/-- The access of the issuing core. -/
def State.curAccess (s : State) (r w : Bool) : Access := s.coreAccess s.issue.ctx r w false

/-- The record of a remote access of the bundle (R402, R406). -/
def State.remoteOf (s : State) (pa n : Nat) (op : Option Nat) (a c : Nat) : Option Remote :=
  s.pre.remote.find? (fun r => r.pa == pa && r.n == n && r.op == op && r.a == a && r.c == c)

/-- The answer to a remote access, one message for each line, and the latency of its result: it is available no sooner than
an unloaded access completes (R402; assumption log 81). -/
def State.remoteAns (s : State) (pa n : Nat) (op : Option Nat) (a c : Nat) : Nat × Nat :=
  (linesOf pa n).foldr (fun p r => match s.remoteOf p.1 p.2 op a c with
    | some m => (m.ans.getD 0 + r.1 * 2 ^ (8 * p.2),
        Nat.max r.2 (m.sent + remoteCycles (hopCount s.pkg (pkgOf pa)) - s.now s.issue.ctx))
    | none => r) (0, 1)

/-- What the remote accesses of a bundle still need. -/
inductive Need where
  | none
  | wait
  | post (l : List Remote)
  | fail (c : Code) (va : Nat)
  deriving DecidableEq, Repr

/-- The remote ones among some pieces (virtual address, translation, size), by line: virtual address, physical address and
size. -/
def State.awayLines (s : State) (l : List (Nat × Xlat × Nat)) : List (Nat × Nat × Nat) :=
  (l.filter (fun p => s.elsewhere p.2.1.pa)).flatMap (fun p =>
    (linesOf p.2.1.pa p.2.2).map (fun q => (p.1 + (q.1 - p.2.1.pa), q.1, q.2)))

/-- What has come of remote accesses that have left: the first, in order, that has failed or has no answer decides. -/
def State.heard (s : State) (op : Option Nat) (a c : Nat) : List (Nat × Nat × Nat) → Need
  | [] => .none
  | (va, pa, n) :: r =>
    match s.remoteOf pa n op a c with
    | Option.none => .wait
    | some m =>
      match m.fail, m.ans with
      | some k, _ => .fail k va
      | _, some _ => s.heard op a c r
      | _, _ => .wait

/-- What the remote ones among some pieces need: those that have not left leave together (R402). -/
def State.need (s : State) (op : Option Nat) (a c : Nat) (l : List (Nat × Xlat × Nat)) : Need :=
  let w := s.awayLines l
  let ask := w.filter (fun p => (s.remoteOf p.2.1 p.2.2 op a c).isNone)
  if ask.isEmpty then s.heard op a c w
  else .post (ask.map (fun p => ⟨p.2.1, p.2.2, op, a, c, s.now s.issue.ctx, Option.none, Option.none⟩))

/-- The bundle waits for earlier accesses of its context (R239, R241, R246). -/
def State.waitOrder (s : State) : State := s.stallFor .order

/-- Earlier accesses of the context have not all performed: released entries, or stores to other packages (R246, R406). -/
def State.behind (s : State) : Bool := !s.cur.drain.isEmpty || s.owed s.issue.ctx != 0

/-- A released `atom` that has not performed covers bytes of an access (R240). -/
def State.behindAtom (s : State) (pa n : Nat) : Bool :=
  s.cur.drain.any (fun e => match e.kind with
    | .block _ _ _ _ => false
    | .atom a _ m _ => decide (a < pa + n) && decide (pa < a + m))

/-- Runs `k` on the translated pieces once remote answers are in. -/
def State.withPieces (s : State) (a : Access) (op : Option Nat) (x c : Nat) (ps : List (Nat × Nat))
    (k : List Xlat → State → State) : State :=
  let (r, s) := s.xlateAll a (ps.map Prod.fst)
  match r with
  | .error (e, va) => s.faultAt e va
  | .ok ts =>
    let l := List.zipWith (fun p t => (p.1, t, p.2)) ps ts
    if (ts.any (fun t => t.kind == 0) && s.behind) || l.any (fun p => s.behindAtom (s.home p.2.1.pa) p.2.2) then
      s.waitOrder
    else
      match s.need op x c l with
      | .wait => s.stall
      | .post m => s.stallFor (.remote m)
      | .fail e va => s.faultAt e va
      | .none => k ts s

/-! ### Loads (R251, R252, R241) -/

/-- One piece of a load: the bytes, its latency, and the caches after it. An SO access acts as an acquire
(R239). -/
def State.loadPiece (s : State) (k : LoadKind) (t : Xlat) (n : Nat) : Nat × Nat × State :=
  if s.elsewhere t.pa then
    let s := if (decide (k = .acquire) && t.kind != 2) || t.kind = 0 then s.updCurCore (fun c => c.dropL1 false) else s
    let (v, lat) := s.remoteAns t.pa n none 0 0
    (forward s.cur.sbuf t.pa n v, lat, s)
  else s.loadAt s.issue.ctx (if t.kind = 0 then .acquire else k) t n

/-- The pieces of a load in order: values, largest latency. -/
def State.loadPieces (s : State) (k : LoadKind) : List (Xlat × Nat) → List Nat × Nat × State
  | [] => ([], 0, s)
  | (t, n) :: r =>
    let (v, l, s) := s.loadPiece k t n
    let (vs, m, s) := s.loadPieces k r
    (v :: vs, Nat.max l m, s)

/-- A load of pieces (address, size) of a kind; `k` receives the values and the latency. -/
def State.loadBy (s : State) (kind : LoadKind) (ps : List (Nat × Nat)) (k : List Nat → Nat → State → State) : State :=
  s.withPieces (s.curAccess true false) none 0 0 ps (fun ts s =>
    let (vs, l, s) := s.loadPieces kind (List.zipWith (fun p t => (t, p.2)) ps ts)
    k vs l s)

/-- A plain load, or an acquire at `.clu` or wider. -/
def State.load (s : State) (acq : Bool) (ps : List (Nat × Nat)) (k : List Nat → Nat → State → State) : State :=
  s.loadBy (if acq then .acquire else .plain) ps k

/-- Writes a loaded value of `n` bytes: a pair for 16 (R27, R251). -/
def State.putLoad (s : State) (rd : BitVec 6) (n v lat : Nat) : State :=
  let s := s.putX rd (BitVec.ofNat 64 v) lat
  if n = 16 then s.putX (rd + 1) (BitVec.ofNat 64 (v / 2 ^ 64)) lat else s

/-- `ld` and `ld.acq` at an address. -/
def scalarLoad (acq : Bool) (va : Nat) (size : Nat) (rd : BitVec 6) (s : State) : State :=
  let n := 2 ^ size
  if va % n ≠ 0 then s.faultAt .misaligned va
  else s.load acq [(va, n)] (fun vs lat s => s.putLoad rd n (vs.getD 0 0) lat)

/-- Address of `ld` and `st` (R251). -/
def State.rmAddr (s : State) (o : RMOp) : Nat :=
  va60 (s.pre.x o.rs1 + BitVec.ofInt 64 (o.imm.toInt * 2 ^ o.size.toNat))

def execLd (o : RMOp) (s : State) : Out :=
  guarded o.g (fun s => scalarLoad false (s.rmAddr o) o.size.toNat o.rd s) s

/-- `ld.acq` (R252): at scope `.ctx` or `.core` no L1 line is invalidated (R241). -/
def execLdAcq (o : RMSOp) (s : State) : Out :=
  guarded o.g (fun s =>
    scalarLoad (decide (2 ≤ o.scope.toNat)) (va60 (s.pre.x o.rs1)) o.size.toNat o.rd s) s

/-! ### Stores (R251, R252, R101, R247) -/

/-- A release at `.dom` or wider waits for the acknowledgements of earlier remote stores (R406). -/
def State.acksWait (s : State) (scope : Nat) : Bool := decide (4 ≤ scope) && s.owed s.issue.ctx != 0

/-- Later accesses wait until an access to another package that acts as an acquire has performed (R239, R241); with `drop`
the core's RC lines leave the L1 then. -/
def State.awaitAcquire (s : State) (drop : Bool) : State :=
  s.updCur (fun c => { c with fence := 2, fdrop := if drop then Nat.max c.fdrop 1 else c.fdrop })

/-- One piece of a store performs, or is buffered; none where the buffer is full. -/
def State.storePiece (s : State) (rel wide : Bool) (t : Xlat) (n v : Nat) : Option State :=
  match s.cur.region with
  | some r =>
    match sbufStore r (s.home t.pa) n v (rel && t.kind != 2) wide t with
    | none => none
    | some r => some (s.updCur (fun c => { c with region := some r }))
  | none =>
    if s.elsewhere t.pa then
      let s := s.sendStore s.issue.ctx t.pa n v
      some (if t.kind = 0 then s.awaitAcquire true else s)
    else some (s.storeAt s.issue.ctx t n v)

/-- The pieces of a store, in order. -/
def State.storePieces (s : State) (rel wide : Bool) : List (Xlat × Nat × Nat) → Option State
  | [] => some s
  | (t, n, v) :: r =>
    match s.storePiece rel wide t n v with
    | none => none
    | some s => s.storePieces rel wide r

/-- Entries that the open region's buffer holds. -/
def Ctx.regionLen (c : Ctx) : Nat :=
  match c.region with
  | some r => r.sbuf.length
  | none => 0

/-- The buffer has taken a new entry where entries of earlier regions leave it no room (R101). -/
def State.crowded (s : State) (before : Nat) : Bool :=
  decide (before < s.cur.regionLen) && decide (96 < s.cur.regionLen + s.cur.drain.length)

/-- A store of pieces (address, size, value); an SO page makes it an acquire and a release at `.sys` (R239), and an
annotation has no effect on a UN page (R242). -/
def State.store (s : State) (rel : Bool) (scope : Nat) (ps : List (Nat × Nat × Nat)) : State :=
  let (r, s) := s.xlateAll (s.curAccess false true) (ps.map Prod.fst)
  match r with
  | .error (e, va) => s.faultAt e va
  | .ok ts =>
    let so := ts.any (fun t => t.kind == 0)
    let rel' := rel && ts.any (fun t => t.kind != 2)
    let l := List.zipWith (fun p t => (t, p.2)) ps ts
    if s.cur.region.isNone && (!s.cur.drain.isEmpty || (rel' && s.acksWait scope) || (so && s.acksWait 5)) then
      s.waitOrder
    else
      let t := if so && s.cur.region.isNone then s.updCurCore (fun c => c.dropL1 false) else s
      match t.storePieces rel (decide (4 ≤ scope)) l with
      | none => t.fault .regionFull
      | some t => if t.crowded s.cur.regionLen then s.waitOrder else t

/-- `st` and `st.rel` at an address. -/
def scalarStore (rel : Bool) (scope va size : Nat) (rd : BitVec 6) (s : State) : State :=
  let n := 2 ^ size
  if va % n ≠ 0 then s.faultAt .misaligned va
  else
    let v := (s.pre.x rd).toNat + (if n = 16 then (s.pre.x (rd + 1)).toNat * 2 ^ 64 else 0)
    s.store rel scope [(va, n, v % 2 ^ (8 * n))]

def execSt (o : RMOp) (s : State) : Out :=
  guarded o.g (fun s => scalarStore false 0 (s.rmAddr o) o.size.toNat o.rd s) s

def execStRel (o : RMSOp) (s : State) : Out :=
  guarded o.g (fun s => scalarStore true o.scope.toNat (va60 (s.pre.x o.rs1)) o.size.toNat o.rd s) s

/-! ### Atomics (R253 to R255) -/

/-- Bytes of an atomic. -/
def atBytes (o : AtOp) : Nat := 4 * 2 ^ o.size.toNat

/-- The read of an atomic is an acquire, its write a release (R254), or the page is SO (R239). An acquire at `.ctx` orders
nothing (R241); one at `.clu` or wider drops the core's RC lines (R241, R260). -/
def atAcquires (o : AtOp) (kind : Nat) : Bool :=
  kind == 0 || (o.order.getLsbD 0 && decide (1 ≤ o.scope.toNat))
def atDrops (o : AtOp) (kind : Nat) : Bool :=
  kind == 0 || (o.order.getLsbD 0 && decide (2 ≤ o.scope.toNat))
def atReleases (o : AtOp) (kind : Nat) : Bool := kind == 0 || o.order.getLsbD 1

/-- Scope of the release: `.sys` on an SO page. -/
def atRelScope (o : AtOp) (kind : Nat) : Nat := if kind = 0 then 5 else o.scope.toNat

/-- An L1 line of the core leaves, so that no later load is older than a read past the L1 (R240). -/
def Core.dropLine (c : Core) (pa : Nat) : Core :=
  { c with l1 := c.l1.filter (fun l => l.pa != pa / 128 * 128) }

/-- A region that is open before the bundle holds a store that a returning atomic on another package performs after: the
atomic releases, or they meet. Other regions are released as the bundle issues, with the answer (R102; assumption log
91). -/
def State.holdsBack (s : State) (o : AtOp) (t : Xlat) (n : Nat) : Bool :=
  match s.pre.region with
  | none => false
  | some r => atReleases o t.kind ||
      r.sbuf.any (fun e => e.spans.any (fun p => decide (p.1 < t.pa + n) && decide (t.pa < p.1 + p.2)))

/-- The checks that every atomic makes, then `k` on the translation (R253). -/
def State.atomicAt (s : State) (o : AtOp) (rop : Option Nat) (a c : Nat) (k : Nat → Xlat → State → State) : State :=
  let n := atBytes o
  let va := va60 (s.pre.x o.rs1)
  if va % n ≠ 0 then s.faultAt .misaligned va
  else
    let (r, s) := s.xlate (s.curAccess true true) va
    match r with
    | .error e => s.faultAt e va
    | .ok t =>
      if t.kind = 2 then s.faultAt .orderKind va
      else if s.cur.region.isNone &&
          (!s.cur.drain.isEmpty || (atReleases o t.kind && s.acksWait (atRelScope o t.kind))) then s.waitOrder
      else if rop.isSome && s.elsewhere t.pa && s.holdsBack o t n then s.waitOrder
      else
        match rop with
        | none => k va t s
        | some _ =>
          match s.need rop a c [(va, t, n)] with
          | .wait => s.stall
          | .post m => s.stallFor (.remote m)
          | .fail e va => s.faultAt e va
          | .none => k va t s

/-- A returning atomic, with the function `f` of the old value (none: no write); `rop` is its code as a remote
request. It closes the region, which has been released (R102). -/
def returning (o : AtOp) (rop a c : Nat) (f : Nat → Option Nat) (s : State) : State :=
  s.atomicAt o (some rop) a c (fun _ t s =>
    let n := atBytes o
    let s := if atDrops o t.kind then s.updCurCore (fun c => c.dropL1 false) else s
    if s.elsewhere t.pa then
      let (v, lat) := s.remoteAns t.pa n (some rop) a c
      s.putX o.rd (BitVec.ofNat 64 v) lat
    else
      let pa := s.home t.pa
      let (old, s) := s.rmwAt s.issue.ctx t n f
      (s.updCurCore (fun c => c.dropLine pa)).putX o.rd (BitVec.ofNat 64 old) 40)

/-- Value of an atomic's operand register. -/
def State.atomArg (s : State) (o : AtOp) (r : BitVec 6) : Nat := (s.pre.x r).toNat % 2 ^ (8 * atBytes o)

/-- An `atom` in a region takes an entry of its own; stores that it follows in its block take no later merge
(R101, R240), and where its read is an acquire no earlier entry does (R241). A releasing one waits for
acknowledgements (R246). -/
def sbufAtom (r : Region) (o : AtOp) (pa a : Nat) (t : Xlat) : Option Region :=
  let b := r.sbuf
  if 96 ≤ b.length then none
  else
    let acq := atAcquires o t.kind
    let rel := atReleases o t.kind && decide (4 ≤ atRelScope o t.kind)
    some { r with
      sbuf := b.map (fun e => match e.kind with
          | .block k _ _ _ => if acq || k == pa / 256 * 256 then e.seal else e
          | .atom _ _ _ _ => e) ++
        [⟨.atom pa o.op.toNat (atBytes o) a, [t.base], t.cpol, t.evp, rel || r.gate,
          if atDrops o t.kind then 2 else if acq then 1 else 0, [], 0⟩]
      gate := acq }

/-- `atom` (R253, R255): buffered inside a region. -/
def plainAtom (o : AtOp) (s : State) : State :=
  let n := atBytes o
  let a := s.atomArg o o.rd
  s.atomicAt o none 0 0 (fun _ t s =>
    match s.cur.region with
    | some r =>
      match sbufAtom r o (s.home t.pa) a t with
      | none => s.fault .regionFull
      | some b =>
        let u := s.updCur (fun c => { c with region := some b })
        if u.crowded s.cur.regionLen then s.waitOrder else u
    | none =>
      let drop := atDrops o t.kind
      let s := if drop then s.updCurCore (fun c => c.dropL1 false) else s
      if s.elsewhere t.pa then
        let s := s.sendAtomic s.issue.ctx t.pa o.op.toNat n a
        if atAcquires o t.kind then s.awaitAcquire drop else s
      else (s.rmwAt s.issue.ctx t n (fun old => some (atomFn o.op.toNat n old a))).2)

def execAtom (o : AtOp) (s : State) : Out := guarded o.g (plainAtom o) s

def execAtomF (o : AtOp) (s : State) : Out :=
  guarded o.g (fun s =>
    let a := s.atomArg o o.rd
    returning o o.op.toNat a 0 (fun old => some (atomFn o.op.toNat (atBytes o) old a)) s) s

/-- `cas` (R253): its code as a remote request is 9. -/
def execCas (o : AtOp) (s : State) : Out :=
  guarded o.g (fun s =>
    let a := s.atomArg o o.rd
    let c := s.atomArg o (o.rd + 1)
    returning o 9 a c (fun old => if old = a then some c else none) s) s

/-! ### Fences (R256) -/

/-- What the memory accesses of later bundles wait for after a fence: the released entries, and at `.dom` and wider the
acknowledgements of remote stores too (R256, R406). -/
def fenceLevel (scope : Nat) : Nat := if 4 ≤ scope then 2 else 1

/-- What a `fence.ld` waits for: earlier loads have performed as they issued, so it is the reads of atomics that have been
released or sent and have not performed. An acknowledgement that is awaited may be that of an atomic. -/
def State.loadLevel (s : State) (scope : Nat) : Nat :=
  if s.cur.drain.any (fun e => match e.kind with
    | .atom _ _ _ _ => true
    | .block _ _ _ _ => false) then fenceLevel scope
  else if s.owed s.issue.ctx ≠ 0 ∧ 4 ≤ scope then 2
  else 0

/-- The L1 lines that a fence drops (R256, R260): 1 those of RC pages, 2 those of UN pages too. -/
def fenceDrop (scope kind : Nat) : Nat :=
  if kind = 2 ∨ scope < 2 then 0 else if scope = 5 ∧ kind = 0 then 2 else 1

/-- `fence` (R256): later bundles with a memory access wait until the earlier accesses that it names have performed. Inside
a region it also marks a boundary for merging and for the order of what is released (R247). -/
def orderFence (scope kind : Nat) (s : State) : State :=
  let level := if kind = 1 then s.loadLevel scope else fenceLevel scope
  (s.updCur (fun c => { c with
    region := c.region.map (fun r => { r with sbuf := sbufSeal r.sbuf, gate := r.gate || decide (4 ≤ scope) })
    fence := Nat.max c.fence level, fdrop := Nat.max c.fdrop (fenceDrop scope kind) })).settleFence s.issue.ctx

def execFence (o : FenceOp) (s : State) : Out :=
  guarded o.g (fun s => orderFence o.scope.toNat o.kind.toNat s) s

/-! ### `waita` (R257, R258) -/

/-- The slice whose tag monitors a line (R258, R259). -/
def monSlice (t : Xlat) (pa : Nat) : Nat := (l2Place t.cpol pa).1

/-- `waita` (R257): a context that has been woken takes the reason; otherwise the word is compared. On an SO page the read
acts as a release too (R239). -/
def waitAddr (rd : BitVec 6) (a : Word) (want : Word) (s : State) : State :=
  match s.pre.ans.wake with
  | some why => s.putX rd (BitVec.ofNat 64 why) 1
  | none =>
    let va := va60 a
    if va % 8 ≠ 0 then s.faultAt .misaligned va
    else
      let (r, s) := s.xlate (s.curAccess true false) va
      match r with
      | .error e => s.faultAt e va
      | .ok t =>
        if t.kind = 2 then s.faultAt .orderKind va
        else if (t.kind = 0 && s.behind) || s.behindAtom (s.home t.pa) 8 then s.waitOrder
        else
          match s.need none 0 0 [(va, t, 8)] with
          | .wait => s.stall
          | .post m => s.stallFor (.remote m)
          | .fail e va => s.faultAt e va
          | .none =>
            let (v, lat, s) := if s.elsewhere t.pa then s.loadPiece .plain t 8 else s.loadAt s.issue.ctx .l2 t 8
            let s := s.updCurCore (fun c => c.dropLine (s.home t.pa))
            let s := if t.kind = 0 then s.updCurCore (fun c => c.dropL1 false) else s
            if BitVec.ofNat 64 v ≠ want then s.putX rd 0 lat
            else if s.isRemote t then s.putX rd 2 lat
            else
              let pa := s.home t.pa
              s.stallFor (.await (.waita rd (monSlice t pa) (pa / 64 * 64) (s.now s.issue.ctx) none)
                pa want.toNat t.cpol t.evp)

def execWaita (o : RROp) (s : State) : Out :=
  guarded o.g (fun s => waitAddr o.rd (s.pre.x o.rs1) (s.pre.x o.rs2) s) s

/-! ### Shoot-downs (R229, R230) -/

/-- The entries that a shoot-down drops: of the pen, and of its range or, for `tlbsh.pen`, not global. -/
inductive Shoot where
  | range (va n : Nat)
  | pen
  | penG
  deriving DecidableEq, Repr

/-- A page from `base` of `size` bytes meets the range, modulo 2^60. -/
def meetsRange (va n base size : Nat) : Bool :=
  let len := n * 2 ^ 16
  decide (n ≠ 0) && (decide ((base + 2 ^ 60 - va) % 2 ^ 60 < len) || decide ((va + 2 ^ 60 - base) % 2 ^ 60 < size))

def Shoot.drops (k : Shoot) (pen : Nat) (e : TlbEnt) : Bool :=
  e.pen == pen && (match k with
    | .range va n => meetsRange va n e.base e.size
    | .pen => !bit e.pte.toNat 2
    | .penG => true)

/-- Every cached leaf of the package. -/
def State.leaves (s : State) : List TlbEnt :=
  s.cores.flatMap (fun kc => kc.2.tlb) ++
    s.clusters.flatMap (fun kc => kc.2.leaves ++ kc.2.etlb.flatMap Prod.snd) ++ s.dieTlb.flatMap Prod.snd

/-- Engine TLBs of which `keep` leaves some entries. -/
def keepTlbs (keep : List TlbEnt → List TlbEnt) (m : List (Nat × List TlbEnt)) : List (Nat × List TlbEnt) :=
  m.filterMap (fun kt => if (keep kt.2).isEmpty then none else some (kt.1, keep kt.2))

/-- Drops the entries from every cache, and every walk-cache entry of the pen. -/
def State.shootDown (s : State) (pen : Nat) (k : Shoot) : State :=
  let keep (t : List TlbEnt) : List TlbEnt := t.filter (fun e => !(k.drops pen e))
  let s := s.cores.foldl (fun s kc => s.updCore kc.1 (fun c => { c with tlb := keep c.tlb })) s
  let s := { s with dieTlb := keepTlbs keep s.dieTlb }
  s.clusters.foldl (fun s kc => s.updCluster kc.1 (fun c => { c with
    tlb := keep c.tlb, tlbBig := keep c.tlbBig, walk := c.walk.filter (fun w => w.pen != pen),
    etlb := keepTlbs keep c.etlb })) s

/-- An aborted context waits for nothing: it is ready to issue from its restart point. -/
def State.cancelWaits (s : State) (ctx : Nat) : State :=
  let s := s.updCtx ctx (fun c => { c with
    ans := Ans.none, remote := [], paid := 0,
    st := match c.st with
      | .parked (.waita _ _ _ _ _) => .ready
      | .parked (.twait _ _) => .ready
      | .parked (.bar _) => .ready
      | st => st })
  let s := s.updCluster (clusterOf ctx) (fun c => { c with mons := c.mons.filter (fun m => m.ctx != ctx) })
  ({ s with
    barReqs := s.barReqs.map (fun (kr : Nat × List BarReq) =>
      (kr.1, kr.2.filter (fun r => r.ctx != ctx))) }).leaveQueues ctx

/-- Step 3 of R230: the region of another context holds a store or `atom` whose translation is dropped. -/
def State.holdsDropped (s : State) (pen : Nat) (k : Shoot) (gone : List TlbEnt) (ctx : Nat) : Bool :=
  (s.ctx ctx).pen.toNat == pen && (match (s.ctx ctx).region with
    | none => false
    | some r => r.sbuf.any (fun e => e.vpages.any (fun v => gone.any (fun g => g.base == v) || (match k with
        | .range va n => meetsRange va n v (2 ^ 16)
        | .pen => false
        | .penG => true))))

/-- `tlbsh` (R229): the issuing context waits for its completion (R230). -/
def tlbShoot (k : Shoot) (s : State) : State :=
  let pen := s.pre.pen.toNat
  let me := s.issue.ctx
  let gone := s.leaves.filter (k.drops pen)
  let hit := (s.ctxs.map Prod.fst).filter (fun c => c != me && s.holdsDropped pen k gone c)
  let s := s.shootDown pen k
  let s := hit.foldl (fun s c => (s.abortRegion c).cancelWaits c) s
  s.updCur (fun c => { c with tlbshBusy := true })

def execTlbshRange (o : Rs2Op) (s : State) : Out :=
  guarded o.g (fun s =>
    let va := va60 (s.pre.x o.rs1)
    if va % 2 ^ 16 ≠ 0 then s.faultAt .misaligned va
    else tlbShoot (.range va (s.pre.x o.rs2).toNat) s) s

def execTlbshPen (o : GOp) (s : State) : Out := guarded o.g (tlbShoot .pen) s
def execTlbshPenG (o : GOp) (s : State) : Out := guarded o.g (tlbShoot .penG) s

/-- A budget holds the next step of a command (R394, R396). -/
def State.cmdHeld (s : State) (k : Cmd) : Bool :=
  match k.kind with
  | .xfer _ | .trig _ | .hctld => s.budgetBlocked 3 k.pen
  | .kv _ => s.budgetBlocked 2 (clusterOf k.ctx) || s.budgetBlocked 3 k.pen
  | .tier _ => s.budgetBlocked 1 (k.ctx / 256) || s.budgetBlocked 3 k.pen
  | .smpost => s.budgetBlocked 5 (clusterOf k.ctx) || s.budgetBlocked 3 k.pen
  | .publish | .qpush => false

/-- A remote access that has no answer. -/
def Remote.open_ (r : Remote) : Bool := r.ans.isNone && r.fail.isNone

/-- Accesses of a pen that may have used a dropped entry have all performed (R230 step 2): no store of any of its contexts
awaits an acknowledgement and no load or atomic an answer, no released entry is left, and no command of it runs that a
budget holds (R397) or whose messages are not acknowledged. -/
def State.penQuiet (s : State) (pen : Nat) : Bool :=
  s.ctxs.all (fun kc => kc.2.pen.toNat != pen ||
      (kc.2.acks == 0 && kc.2.drain.isEmpty && !kc.2.remote.any Remote.open_)) &&
    !s.lates.any (fun l => l.pen == pen) &&
    !s.cmds.any (fun c => c.pen == pen && decide (c.st = CmdSt.running) &&
      (s.cmdHeld c || s.sents.any (fun x => x.task == c.task && x.cid == c.cid)))

/-- TLBSH_COMPLETE (R230). -/
def execTlbshComplete (ctx : Nat) (s : State) : Out :=
  .next (if s.penQuiet (s.ctx ctx).pen.toNat then s.updCtx ctx (fun c => { c with tlbshBusy := false }) else s)

/-! ### Cache control (R264, R265) -/

/-- The pages of a range that meets `n` bytes from `va`, as (first byte, bytes within the range). -/
def pageSpans : Nat → Nat → Nat → List (Nat × Nat)
  | 0, _, _ => []
  | f + 1, va, n =>
    if n = 0 then []
    else
      let m := Nat.min n (2 ^ 16 - va % 2 ^ 16)
      (va % 2 ^ 60, m) :: pageSpans f (va + m) (n - m)

/-- Translated spans: physical start, bytes and page attributes. -/
abbrev Span := Nat × Nat × Xlat

/-- Checks every page of the range first; with `skip`, pages that fail are left out (R264). -/
def State.spans (s : State) (w skip : Bool) : List (Nat × Nat) → Except (Code × Nat) (List Span) × State
  | [] => (.ok [], s)
  | (va, n) :: r =>
    let (x, s) := s.xlate (s.curAccess (!w) w) va
    let (y, s) := s.spans w skip r
    match x, y with
    | .ok t, .ok l => (.ok ((s.home t.pa, n, t) :: l), s)
    | .error c, .ok l => if skip then (.ok l, s) else (.error (c, va), s)
    | .error c, .error e => if skip then (.error e, s) else (.error (c, va), s)
    | .ok _, .error e => (.error e, s)

/-- A 128-byte line meets a span; pages with cpol 5 hold no lines. -/
def inSpans (l : List Span) (line : Nat) : Bool :=
  l.any (fun p => p.2.2.cpol != 5 && decide (p.1 / 128 * 128 ≤ line) && decide (line < p.1 + p.2.1))

/-- The levels named: 0 L1, 1 L2, 2 both. -/
def atL1 (level : Nat) : Bool := level != 1
def atL2 (level : Nat) : Bool := level != 0

/-- Invalidates the L1 lines of the issuing core (Table 3). -/
def State.purgeL1 (s : State) (l : List Span) : State :=
  s.updCurCore (fun c => { c with l1 := c.l1.filter (fun x => !(inSpans l x.pa)) })

/-- L2 lines of every cluster of the package that the spans cover, with their cluster. -/
def State.l2Lines (s : State) (l : List Span) : List (Nat × L2Line) :=
  s.clusters.flatMap (fun kc => (kc.2.l2.filter (fun x => inSpans l x.pa)).map (fun x => (kc.1, x)))

/-- `cinv` of a line (Table 3): the dirty bytes of the issuer's pen are discarded, and memory holds again what
stood behind them; another pen's are written back. -/
def State.discardLine (s : State) (pen cl : Nat) (x : L2Line) : State :=
  let s := if x.dirty.isEmpty then s
    else if x.pen = pen then { s with mem := x.dirty.foldl (fun m b => cellsWrite m 52 b.1 1 b.2.toNat) s.mem }
    else s.hbmRequest x.pen x.pa 128
  (s.updCluster cl (fun c => { c with l2 := c.l2.filter (· != x) })).loseMons cl
    ((s.cluster cl).mons.filter (fun m => m.line / 128 == x.pa / 128))

/-- A line fill of `cpf` (Table 3): in the L1 as a load would make it, so that a line which the L1 holds is left alone, and
in the L2. -/
def State.prefetch (s : State) (level : Nat) (t : Xlat) (line : Nat) : State :=
  let cl := clusterOf s.issue.ctx
  let pen := s.pre.pen.toNat
  let cached := t.kind != 0 && (t.cpol == 0 || t.cpol == 2 || t.cpol == 4)
  let miss := atL1 level && !(cached && s.curCore.l1.any (fun l => l.pa == line))
  let fills := miss && cached && !s.unfilled cl pen t.cpol line
  let s := if atL2 level || miss then (s.touchL2 cl pen t.cpol t.evp line 128).2 else s
  if fills then
    s.updCurCore (fun c => c.fillL1 ⟨line, t.kind, s.use, s.physRead line 128⟩)
  else s

/-- Lines of a span, ascending. -/
def spanLines (p : Span) : List Nat :=
  (List.range ((p.1 + p.2.1 + 127) / 128 - p.1 / 128)).map (fun i => (p.1 / 128 + i) * 128)

/-- A cache operation under a true guard: `k` acts on the checked spans; every one but `cpf` acts once earlier stores and
atomics have performed, and leaves the context waiting for its completion (R265). -/
def cacheOp (o : CacheOp) (w isPf : Bool) (k : List Span → State → State) (s : State) : State :=
  let va := va60 (s.pre.x o.rs1)
  let n := (s.pre.x o.rs2).toNat % 2 ^ 32
  if n = 0 then s
  else
    let (r, s) := s.spans w isPf (pageSpans (pageFuel n) va n)
    match r with
    | .error (c, a) => s.faultAt c a
    | .ok l =>
      if !isPf && s.behind then s.waitOrder
      else
      let s := k l s
      if isPf then s else s.updCur (fun c => { c with cacheBusy := true })

/-- A dirty line is written back and stays, clean (Table 3). -/
def State.cleanLine (s : State) (cl : Nat) (x : L2Line) : State :=
  if x.dirty.isEmpty then s
  else
    (s.hbmRequest x.pen x.pa 128).updCluster cl (fun c => { c with
      l2 := c.l2.map (fun y => if y == x then { y with dirty := [] } else y) })

def execCfl (o : CacheOp) (s : State) : Out :=
  guarded o.g (cacheOp o false false (fun l s =>
    let s := if atL1 o.level.toNat then s.purgeL1 l else s
    if atL2 o.level.toNat then (s.l2Lines l).foldl (fun s x => s.evictL2 x.1 x.2) s else s)) s

def execCinv (o : CacheOp) (s : State) : Out :=
  guarded o.g (cacheOp o true false (fun l s =>
    let s := if atL1 o.level.toNat then s.purgeL1 l else s
    if atL2 o.level.toNat then
      (s.l2Lines l).foldl (fun s x => s.discardLine s.pre.pen.toNat x.1 x.2) s
    else s)) s

def execCpf (o : CacheOp) (s : State) : Out :=
  guarded o.g (cacheOp o false true (fun l s =>
    (l.filter (fun p => p.2.2.cpol != 5 && !s.elsewhere p.1)).foldl (fun s p =>
      (spanLines p).foldl (fun s line => s.prefetch o.level.toNat p.2.2 line) s) s)) s

def execCwb (o : CacheOp) (s : State) : Out :=
  guarded o.g (cacheOp o false false (fun l s =>
    if atL2 o.level.toNat then (s.l2Lines l).foldl (fun s x => s.cleanLine x.1 x.2) s else s)) s

/-- CACHE_OP_COMPLETE (R265). -/
def execCacheOpComplete (ctx : Nat) (s : State) : Out :=
  .next (s.updCtx ctx (fun c => { c with cacheBusy := false }))

end Sys2Proof.Machine
end

