-- ==== Sys2Proof/Machine/Barriers.lean ====
section
/-! DEFINITION. Named barriers (R387 to R390). -/

namespace Sys2Proof.Machine

def Barrier.reset : Barrier := ⟨0, 0, 0⟩

/-- The gang of the issuing task, where it has two tasks or more (R387). -/
def State.barGang (s : State) : Option Gang :=
  match s.gangOf s.issue.ctx with
  | some g => if 2 ≤ g.size then some g else none
  | none => none

def Gang.barrier (g : Gang) (b : Nat) : Barrier := sget Barrier.reset g.barriers b

/-- The valid arrival record that names a barrier (R388, R390). -/
def Ctx.record (c : Ctx) (b : Nat) : Option (Nat × Arrival) :=
  c.arrivals.find? (fun a => a.2.valid && !a.2.pend && a.2.b == b)

/-- The first of the four records that is free. -/
def Ctx.freeRecord (c : Ctx) : Option Nat :=
  (List.range 4).find? (fun i => match sfind c.arrivals i with
    | some a => !a.valid
    | none => true)

/-- What the home has answered to the slot's operation. -/
def Ans.of (a : Ans) (slot : Slot) : Option Bool :=
  match slot with
  | .c => a.barC
  | _ => a.barE

/-- The operation waits until the home has answered, then `k` goes on; a failure there is a fault here (R390). -/
def atHome (op b c : Nat) (k : State → State) (s : State) : State :=
  match s.pre.ans.of s.issue.slot with
  | some true => k s
  | some false => s.fault .barrierMisuse
  | none => s.stallFor (.bar op b c)

/-- The end of a wait: an acquire at the gang's scope; inside a region the record is cleared at release. -/
def clearRecord (i : Nat) (s : State) : State :=
  let inR := s.cur.inRegion
  (s.updCurCore (fun c => c.dropL1 false)).updCur (fun c => { c with
    arrivals := if inR then c.arrivals.map (fun a => if a.1 = i then (i, { a.2 with pend := true }) else a)
      else sdel c.arrivals i })

/-- `bar.wait` from the record on (R390). -/
def waitPhase (g : Gang) (b : Nat) (s : State) : State :=
  match s.cur.record b with
  | none => s.fault .barrierMisuse
  | some (i, r) =>
    if (g.barrier b).p = r.phase then s.stallFor (.park (.bar b)) else clearRecord i s

/-- The gang check of R390. -/
def withGang (k : Gang → State → State) (s : State) : State :=
  match s.barGang with
  | none => s.fault .barrierMisuse
  | some g => k g s

def barInit (b : Nat) (c : Word) (s : State) : State :=
  withGang (fun g s =>
    if c = 0 ∨ g.size < c.toNat then s.fault .barrierMisuse else atHome 0 b c.toNat id s) s

/-- The checks of an arrival on the context's own records; none once the arrival has applied. -/
def State.arriveOk (s : State) (b : Nat) : Bool :=
  (s.pre.ans.of s.issue.slot).isSome || ((s.cur.record b).isNone && s.cur.freeRecord.isSome)

def barArrive (b : Nat) (s : State) : State :=
  withGang (fun _ s => if s.arriveOk b then atHome 1 b 0 id s else s.fault .barrierMisuse) s

def barWait (b : Nat) (s : State) : State := withGang (fun g s => waitPhase g b s) s

def barSync (b : Nat) (s : State) : State :=
  withGang (fun g s =>
    if s.arriveOk b then atHome 1 b 0 (fun s => waitPhase g b s) s else s.fault .barrierMisuse) s

/-- Barrier number in a register: bits [63:10] are ignored. -/
def barNum (a : Word) : Nat := a.toNat % 1024

def execBarInitReg (o : Rs2Op) (s : State) : Out :=
  guarded o.g (fun s => barInit (barNum (s.pre.x o.rs1)) (s.pre.x o.rs2) s) s
def execBarArrReg (o : JrOp) (s : State) : Out := guarded o.g (fun s => barArrive (barNum (s.pre.x o.rs1)) s) s
def execBarWaitReg (o : JrOp) (s : State) : Out := guarded o.g (fun s => barWait (barNum (s.pre.x o.rs1)) s) s
def execBarSyncReg (o : JrOp) (s : State) : Out := guarded o.g (fun s => barSync (barNum (s.pre.x o.rs1)) s) s
def execBarInitImm (o : BarInitOp) (s : State) : Out :=
  guarded o.g (fun s => barInit o.b.toNat (s.pre.x o.rs1) s) s
def execBarArrImm (o : BarOp) (s : State) : Out := guarded o.g (barArrive o.b.toNat) s
def execBarWaitImm (o : BarOp) (s : State) : Out := guarded o.g (barWait o.b.toNat) s
def execBarSyncImm (o : BarOp) (s : State) : Out := guarded o.g (barSync o.b.toNat) s

/-! ### At the home (R388) -/

/-- Cycles to the home: 2 from its own core, 8 from its cluster, 300 from elsewhere. -/
def barLatency (ctx home : Nat) : Nat :=
  if coreOf ctx = home then 2 else if clusterOf ctx = clusterOfCore home then 8 else 300

/-- A request leaves for the home, unless one of the slot is on its way. -/
def State.sendBar (s : State) (ctx : Nat) (slot : Slot) (op b c : Nat) : State :=
  match s.gangOf ctx with
  | none => s
  | some g =>
    let l := sget [] s.barReqs g.home
    if l.any (fun r => r.ctx == ctx && decide (r.slot = slot)) then s
    else
      let due := (s.cluster (clusterOfCore g.home)).cycle + barLatency ctx g.home
      { s with barReqs := sput [] s.barReqs g.home (l ++ [⟨ctx, slot, op, b, c, due, false⟩]) }

/-- Operations apply in order of arrival, those of one cycle in ascending context. -/
def BarReq.before (a b : BarReq) : Bool :=
  decide (a.due < b.due) || (a.due == b.due && decide (a.ctx ≤ b.ctx))

/-- The home's answer reaches a context. -/
def State.answerBar (s : State) (r : BarReq) (ok : Bool) : State :=
  s.updCtx r.ctx (fun c => { c with
    ans := match r.slot with
      | .c => { c.ans with barC := some ok }
      | _ => { c.ans with barE := some ok } })

/-- A completion wakes every waiter of the gang in the cycle it applies (R388). -/
def State.wakeBar (s : State) (gang b : Nat) : State :=
  s.tasks.foldl (fun s kt =>
    if kt.2.gang = gang then
      match kt.2.st with
      | .on c => s.updCtx c (fun x => { x with st := if x.st = .parked (.bar b) then .ready else x.st })
      | _ => s
    else s) s

/-- An operation stays at the home for another cycle. -/
def State.keepBar (s : State) (home : Nat) (r : BarReq) (held : Bool) : State :=
  let due := (s.cluster (clusterOfCore home)).cycle + 1
  { s with barReqs := sput [] s.barReqs home (sget [] s.barReqs home ++ [{ r with due := due, held := held }]) }

/-- One operation applies at the home (R390). The home's own state is checked first, with the region of the context still
open; then that region is released (R102), and an arrival, which is a release, waits until what its context stored before
has performed (R241, R388). An arrival behind another one of its bundle that so waits is looked at after it. -/
def State.applyBar (s : State) (r : BarReq) : State :=
  let n := match sfind s.tasks (s.ctx r.ctx).task with
    | some t => t.gang
    | none => 0
  match sfind s.gangs n with
  | none => s.answerBar r false
  | some g =>
    let B := g.barrier r.b
    let put (s : State) (B : Barrier) : State :=
      { s with gangs := sset s.gangs n { g with barriers := sput Barrier.reset g.barriers r.b B } }
    if r.op = 0 then
      if B.a ≠ 0 then s.answerBar r false
      else (put (s.releaseRegion r.ctx) { B with n := r.c }).answerBar r true
    else if !r.held && (sget [] s.barReqs g.home).any (fun q => q.ctx == r.ctx && q.held) then s.keepBar g.home r false
    -- another arrival of the same bundle may have taken the record (R390)
    else if !r.held && (B.n == 0 || ((s.ctx r.ctx).record r.b).isSome || (s.ctx r.ctx).freeRecord.isNone) then
      s.answerBar r false
    else
      let s := s.releaseRegion r.ctx
      if s.storesLeft (s.ctx r.ctx).task then s.keepBar g.home r true
      else
      let i := (s.ctx r.ctx).freeRecord.getD 0
      let s := s.updCtx r.ctx (fun c => { c with arrivals := sset c.arrivals i ⟨true, r.b, B.p, false⟩ })
      let full := B.a + 1 = B.n
      let s := put s (if full then { B with a := 0, p := B.p + 1 } else { B with a := B.a + 1 })
      (if full then s.wakeBar n r.b else s).answerBar r true

/-- BARRIER_OP_AT_HOME (R388): the first operation that has arrived applies. -/
def execBarrierOpAtHome (core : Nat) (s : State) : Out :=
  let l := isort BarReq.before (sget [] s.barReqs core)
  .next (match l with
    | [] => s
    | r :: rest =>
      if r.due ≤ (s.cluster (clusterOfCore core)).cycle then
        ({ s with barReqs := sput [] s.barReqs core rest }).applyBar r
      else s)

end Sys2Proof.Machine
end

