-- ==== Sys2Proof/Machine/Budgets.lean ====
section
/-! DEFINITION. Period boundaries of the budget governor and the refresh of HBM rows (R395, R398, R399). -/

namespace Sys2Proof.Machine

def State.budget (s : State) (n : Nat) : Budget := sget Budget.reset s.budgets n
def State.setBudget (s : State) (n : Nat) (b : Budget) : State := { s with budgets := sput Budget.reset s.budgets n b }

/-- BUDGET_PERIOD_BOUNDARY (R394, R395): the charge of the period ends, and what was written to an enabled slot takes
effect. -/
def execBudgetPeriodBoundary (slot : Nat) (s : State) : Out :=
  let b := s.budget slot
  .next (s.setBudget slot { b with
    used := 0, heldNow := false, sel := b.nextSel, period := b.nextPeriod, amount := b.nextAmount })

/-- Change a bank. -/
def State.updBank (s : State) (stack bank : Nat) (f : Bank → Bank) : State :=
  { s with banks := supd Bank.reset s.banks (bankKey stack bank) f }

/-- RFM_ISSUE (R398, R399): a row whose refresh management is due closes; its neighbours are refreshed, which keeps their
counts, its own count is 0, and the bank is held. -/
def execRfmIssue (stack bank row : Nat) (s : State) : Out :=
  let b := sget Bank.reset s.banks (bankKey stack bank)
  .next (if b.due.contains row && !b.hold then
    s.updBank stack bank (fun b => { b with
      row := if b.row = some row then none else b.row, counts := sput 0 b.counts row 0, due := b.due.erase row, hold := true })
  else s)

/-- RFM_HOLD_END (R399): tRFM is over, and the requests that have waited reach the bank in order. -/
def execRfmHoldEnd (stack bank : Nat) (s : State) : Out :=
  let (b, n) := (sget Bank.reset s.banks (bankKey stack bank)).resume (s.rfm stack).thr
  .next { s with
    banks := sput Bank.reset s.banks (bankKey stack bank) b
    rfms := sput Rfm.reset s.rfms stack ((s.rfm stack).raise n) }

/-- PERIODIC_REFRESH (R398). -/
def execPeriodicRefresh (stack bank row : Nat) (s : State) : Out :=
  .next (s.updBank stack bank (fun b => { b with counts := sput 0 b.counts row 0 }))

end Sys2Proof.Machine
end

