-- ==== Sys2Proof/Machine/Control.lean ====
section
/-! DEFINITION. Control syllables: branches, the loop stack, regions, traps and token waits (R97 to R100,
R106, R114, R361). -/

namespace Sys2Proof.Machine

/-- `branch(t)` of R98: targets are taken modulo 2^60. -/
def State.branchTo (s : State) (t : BitVec 60) : State :=
  { s with issue := { s.issue with branch := some t } }

/-- pc + 16 × a signed offset of `w` bits (R25). -/
def relTarget (pc : BitVec 60) (w : Nat) (off : BitVec w) : BitVec 60 :=
  pc + 16 * BitVec.ofInt 60 off.toInt

/-- The loop stack of the issuing context, as the bundle has left it; the head is lc0. -/
def State.setLoops (s : State) (l : List LoopEnt) : State := s.updCur (fun c => { c with loops := l })

/-- `region` (R100): release, snapshot, restart point. -/
def openRegion (s : State) : State :=
  let s := s.releaseRegion s.issue.ctx
  let c := s.cur
  s.updCur (fun x => { x with
    region := some ⟨s.issue.pc, takeSnapshot c (s.core (coreOf s.issue.ctx)).tiles, [], false⟩ })

def execRegion (o : GOp) (s : State) : Out := guarded o.g openRegion s

/-- `commit` (R99). -/
def execCommit (o : GOp) (s : State) : Out := guarded o.g (fun s => s.releaseRegion s.issue.ctx) s

/-- `jr` and `ret` (R98): bits [63:60] of the target are ignored. -/
def jumpReg (rs1 : BitVec 6) (s : State) : State :=
  let t := s.pre.x rs1
  if t.toNat % 16 ≠ 0 then s.faultAt .misaligned (t.toNat % 2 ^ 60)
  else s.branchTo (t.setWidth 60)

def execJr (o : JrOp) (s : State) : Out := guarded o.g (jumpReg o.rs1) s
def execRet (o : JrOp) (s : State) : Out := guarded o.g (jumpReg o.rs1) s

/-- `lpop` (R98). -/
def loopPop (s : State) : State :=
  match s.pre.loops with
  | [] => s.fault .loopUnderflow
  | _ :: r => s.setLoops r

def execLpop (o : GOp) (s : State) : Out := guarded o.g loopPop s

/-- `yield` (R114). -/
def execYield (o : GOp) (s : State) : Out :=
  guarded o.g (fun s => s.updCur (fun c => { c with yielded := true })) s

def execBr (o : BrOp) (s : State) : Out :=
  guarded o.g (fun s => s.branchTo (relTarget s.issue.pc 22 o.off)) s

/-- `call` writes x63 and branches (R98). -/
def execCall (o : BrOp) (s : State) : Out :=
  guarded o.g (fun s =>
    (s.putX 63 ((s.issue.pc + 16).setWidth 64) 1).branchTo (relTarget s.issue.pc 22 o.off)) s

/-- `br.x` (R98). -/
def branchPop (n : Nat) (t : BitVec 60) (s : State) : State :=
  if s.pre.loops.length < n then s.fault .loopUnderflow
  else (s.setLoops (s.pre.loops.drop n)).branchTo t

def execBrX (o : BrxOp) (s : State) : Out :=
  guarded o.g (fun s => branchPop o.n.toNat (relTarget s.issue.pc 19 o.off) s) s

/-- `loop` and `loopi` (R97): a count of 0 skips the body, and a full stack faults otherwise. -/
def loopPush (cnt : BitVec 32) (off : Nat) (s : State) : State :=
  let pc := s.issue.pc
  if cnt = 0 then s.branchTo (pc + BitVec.ofNat 60 (16 * (off + 1)))
  else if s.pre.loops.length = 6 then s.fault .loopOverflow
  else s.setLoops (⟨pc + 16, pc + BitVec.ofNat 60 (16 * off), cnt, 0⟩ :: s.pre.loops)

def execLoop (o : LoopOp) (s : State) : Out :=
  guarded o.g (fun s => loopPush ((s.pre.x o.rd).setWidth 32) o.off.toNat s) s

def execLoopi (o : LoopiOp) (s : State) : Out :=
  guarded o.g (loopPush (o.count.setWidth 32) o.off.toNat) s

/-- `brv` faults on a mixed mask (R98). -/
def execBrv (o : BrvOp) (s : State) : Out :=
  guarded o.g (fun s =>
    let v := s.pre.m o.m
    if v ≠ 0 ∧ v ≠ BitVec.allOnes 64 then s.fault .nonuniformBranch
    else if v ≠ 0 then s.branchTo (relTarget s.issue.pc 16 o.off) else s) s

def execBrvAny (o : BrvOp) (s : State) : Out :=
  guarded o.g (fun s =>
    if s.pre.m o.m ≠ 0 then s.branchTo (relTarget s.issue.pc 16 o.off) else s) s

def execBrvAll (o : BrvOp) (s : State) : Out :=
  guarded o.g (fun s =>
    if s.pre.m o.m = BitVec.allOnes 64 then s.branchTo (relTarget s.issue.pc 16 o.off) else s) s

/-- `trap` (R106): the bundle has taken full effect, its region is released, and the task stops. -/
def execTrap (o : TrapOp) (s : State) : Out :=
  guarded o.g (fun s => stopService Code.softTrap.num o.code.toNat [] (s.releaseRegion s.issue.ctx)) s

/-- `sys` (R106): as `trap`, with x1 to x8 in the record. -/
def execSys (o : TrapOp) (s : State) : Out :=
  guarded o.g (fun s =>
    let s := s.releaseRegion s.issue.ctx
    stopService 0xFF o.code.toNat ((List.range 8).map (fun i => s.cur.x (BitVec.ofNat 6 (i + 1)))) s) s

/-- A board slot of a pen (R358), with its address. -/
def Pen.boardSlot (p : Pen) (slot : Nat) : Option Nat :=
  let l := bits p.tbLsize.toNat 4 0
  if l ≤ 16 ∧ slot < 2 ^ l then some (bits p.tbBase.toNat 51 6 * 64 + 64 * slot) else none

/-- The wait of `twait` is over (R361): the entry has failed, or its iteration is `want` or later. -/
def boardReady (word0 want : Nat) : Bool :=
  bit word0 32 || !bit ((word0 % 2 ^ 32 + 2 ^ 32 - want) % 2 ^ 32) 31

/-- `twait` (R361): parks until the entry's iteration is reached; then later loads come after the
groom's writes, as after `ld.acq.pkg`. -/
def tokenWait (slot want : Nat) (s : State) : State :=
  match (s.pen s.pre.pen.toNat).boardSlot slot with
  | none => s.fault .permission
  | some pa =>
    let s := s.hbmRequest s.pre.pen.toNat pa 8
    if boardReady (s.physRead pa 8) want then s.updCurCore (fun c => c.dropL1 false)
    else s.stallFor (.park (.twait pa want))

def execTwait (o : Rs2Op) (s : State) : Out :=
  guarded o.g (fun s => tokenWait (s.pre.x o.rs1).toNat ((s.pre.x o.rs2).toNat % 2 ^ 32) s) s

/-- `nop` (R29, R43). -/
def execNop (_ : GOp) (s : State) : Out := .next s

end Sys2Proof.Machine
end

