-- ==== Sys2Proof/Machine/Compress.lean ====
section
/-! DEFINITION. CRC-32C and the compressed form of the far tier (R287, R329, R330). -/

namespace Sys2Proof.Machine

/-! ### CRC-32C (R287) -/

/-- Eight steps of the reflected register; the polynomial 0x1EDC6F41 reflected is 0x82F63B78. -/
def crcBits : Nat → Nat → Nat
  | 0, c => c
  | n + 1, c => crcBits n (if c % 2 = 1 then c / 2 ^^^ 0x82F63B78 else c / 2)

/-- The register after bytes, in address order. -/
def crcBytes (c : Nat) (l : List Byte) : Nat := l.foldl (fun c b => crcBits 8 (c ^^^ b.toNat)) c

/-- The standard CRC-32C. -/
def crc32c (l : List Byte) : Nat := 2 ^ 32 - 1 - crcBytes (2 ^ 32 - 1) l

/-! ### Chunks (R329, Table 3) -/

/-- Bytes up to a multiple of `k`, filled with zeros. -/
def padTo (k : Nat) (l : List Byte) : List Byte := l ++ List.replicate ((k - l.length % k) % k) 0

/-- Chunks of 256 bytes, the last one padded with zeros. -/
def chunks256 : Nat → List Byte → List (List Byte)
  | 0, _ => []
  | n + 1, l => padTo 256 (l.take 256) :: chunks256 n (l.drop 256)

/-- The 256-bit map of the bytes that are not zero, as 32 bytes. -/
def nzMap (c : List Byte) : List Byte :=
  (List.range 32).map (fun i => BitVec.ofNat 8 (((List.range 8).map (fun j =>
    if c.getD (8 * i + j) 0 ≠ 0 then 2 ^ j else 0)).foldl (· + ·) 0))

/-- Mode and payload of a chunk: the smallest, ties in the order zero, splat, sparse, raw. -/
def packChunk (c : List Byte) : Nat × List Byte :=
  let nz := c.filter (fun b => b ≠ 0)
  if nz.isEmpty then (1, [])
  else if c = (List.replicate 32 (c.take 8)).flatten then (2, c.take 8)
  else if 32 + nz.length ≤ 256 then (3, nzMap c ++ nz)
  else (0, c)

/-- Two bits a chunk, chunk i at bits [2(i mod 4) + 1 : 2(i mod 4)] of byte i / 4, padded to 16 bytes. -/
def modeMap (ms : List Nat) : List Byte :=
  padTo 16 ((List.range ((ms.length + 3) / 4)).map (fun i => BitVec.ofNat 8
    (((List.range 4).map (fun j => ms.getD (4 * i + j) 0 * 4 ^ j)).foldl (· + ·) 0)))

/-- The stream of Table 4 for some bytes under a format code (R330). -/
def compress (fmt : Nat) (l : List Byte) : List Byte :=
  let n := (l.length + 255) / 256
  let cs := chunks256 n l
  let ps := cs.map packChunk
  let body := padTo 128 (List.replicate 16 0 ++ modeMap (ps.map Prod.fst) ++ (ps.map Prod.snd).flatten)
  bytesOf 8 (n % 2 ^ 16 + fmt % 16 * 2 ^ 16 + 2 ^ 20 + body.length * 2 ^ 32) ++
    bytesOf 8 (crc32c cs.flatten) ++ body.drop 16

/-! ### Expansion (R330) -/

/-- Fills the set positions of a map, from position `i` of 256, with bytes. -/
def unSparse (m : Nat) : Nat → List Byte → List Byte
  | 0, _ => []
  | n + 1, l =>
    if m % 2 = 1 then l.headD 0 :: unSparse (m / 2) n (l.drop 1) else 0 :: unSparse (m / 2) n l

/-- Ones of a 256-bit map. -/
def mapOnes (m : Nat) : Nat := ((List.range 256).filter (fun i => m.testBit i)).length

/-- The chunks that modes and payloads give, and how many payload bytes they take. -/
def unpackChunks : List Nat → List Byte → List Byte × Nat
  | [], _ => ([], 0)
  | md :: r, l =>
    let m := ofBytes (l.take 32)
    let (c, k) : List Byte × Nat :=
      if md = 1 then (List.replicate 256 0, 0)
      else if md = 2 then ((List.replicate 32 (padTo 8 (l.take 8))).flatten, 8)
      else if md = 3 then (unSparse m 256 (l.drop 32), 32 + mapOnes m)
      else (padTo 256 (l.take 256), 256)
    let (d, n) := unpackChunks r (l.drop k)
    (c ++ d, k + n)

/-- Length of the map of `n` chunks. -/
def mapLen (n : Nat) : Nat := ((n + 3) / 4 + 15) / 16 * 16

/-- The longest stream of `n` chunks. -/
def streamMax (n : Nat) : Nat := (16 + mapLen n + 256 * n + 127) / 128 * 128

/-- The first three checks of R330 on the header: version, format, chunks; then a total that no map could
imply. Answers the total. -/
def headerTotal (h : Nat) (fmt n : Nat) : Option Nat :=
  let total := bits h 63 32
  if bits h 23 20 ≠ 1 ∨ bits h 19 16 ≠ fmt ∨ bits h 15 0 ≠ n ∨ streamMax n < total ∨ total < 16 then none
  else some total

/-- Expansion of a stream whose header has been checked: none where it is malformed (R330). -/
def expand (n : Nat) (l : List Byte) : Option (List Byte) :=
  let ms := (List.range n).map (fun i => (l.getD (16 + i / 4) 0).toNat / 4 ^ (i % 4) % 4)
  let (d, k) := unpackChunks ms (l.drop (16 + mapLen n))
  if (16 + mapLen n + k + 127) / 128 * 128 ≠ l.length then none
  else if crc32c d ≠ ofBytes ((l.drop 8).take 4) then none
  else some d

end Sys2Proof.Machine
end

