-- ==== Sys2Proof/Machine/Engines.lean ====
section
/-! DEFINITION. The command model of the engines: engine registers, acceptance, start and retirement of
commands, and the status syllables (R267 to R278, R289, R290, R436). -/

namespace Sys2Proof.Machine

/-! ### Engine registers (R267 to R270, R302) -/

/-- `kv.qres` and `kv.stale` are read-only (R302). -/
def engReadOnly (i : Nat) : Bool := i == 0x10A || i == 0x10F

/-- Bits `lo` up to `hi`. -/
def field (hi lo : Nat) : Nat := 2 ^ (hi + 1) - 2 ^ lo

/-- The bits of an engine register that its table does not mark RSV (R267, R302, R356). -/
def engMask (i : Nat) : Nat :=
  if i = 0x000 ∨ i = 0x001 then field 15 0
  else if i = 0x008 ∨ i = 0x101 then field 63 63 + field 59 0
  else if i = 0x009 then field 63 62 + field 59 0
  else if i = 0x00A then field 10 0
  else if 0x010 ≤ i ∧ i < 0x020 then (if i % 4 = 0 then field 31 0 else field 47 0)
  else if i = 0x020 then field 18 16 + field 14 8 + field 6 0
  else if i = 0x021 ∨ i = 0x103 ∨ i = 0x201 then field 47 0
  else if (0x030 ≤ i ∧ i < 0x040) ∨ i = 0x104 ∨ i = 0x105 then field 15 0
  else if i = 0x040 then field 7 0
  else if i = 0x100 then field 2 0
  else if i = 0x102 ∨ i = 0x109 ∨ i = 0x10F ∨ i = 0x204 ∨ i = 0x205 then field 31 0
  else if 0x106 ≤ i ∧ i ≤ 0x108 then field 3 0
  else if i = 0x202 then field 23 16 + field 9 8 + field 1 0
  else if i = 0x206 then field 23 0
  else field 63 0

/-- What `erd` reads (R270): reserved bits read as 0 (R5), although `ewr` has stored them for the check of R268; `kv.stale`
is the count of the pool selected, where that is the pen's (R302). -/
def State.engRegNow (s : State) (c : Ctx) (i : Nat) : Word :=
  if i = 0x10F then
    let p := s.pool ((c.engReg 0x100).toNat % 8)
    if p.pen = c.pen.toNat then BitVec.ofNat 64 p.stale else 0
  else c.engReg i &&& BitVec.ofNat 64 (engMask i)

def execErd (o : SrOp) (s : State) : Out :=
  guarded o.g (fun s => s.putX o.rd (s.engRegNow s.pre o.idx.toNat) 1) s

/-- A write of an engine register; nothing checks it (R268). -/
def Ctx.setEng (c : Ctx) (i : Nat) (v : Word) : Ctx :=
  if engReadOnly i then c else { c with eng := sput 0 c.eng i v }

def execEwr (o : SrOp) (s : State) : Out :=
  guarded o.g (fun s => s.updCur (fun c => c.setEng o.idx.toNat (s.pre.x o.rd))) s

/-- A register that a command copied at issue (R268). -/
def Cmd.reg (k : Cmd) (i : Nat) : Nat := (sget (0 : Word) k.regs i).toNat

/-! ### Records and failures (R231, R232, R276) -/

/-- The record of a deferred command that fails after release: source 5 (R232). -/
def State.cmdRecord (s : State) (k : Cmd) (f : FailAt) (kv : Bool) : FaultRec :=
  { seq := s.seq, pen := k.pen, ctx := k.ctx, code := f.code, source := 5, cmd := true, kv := kv,
    region := false, merged := f.merged, cid := k.cid.toNat, wid := k.wid, pc := k.pc.toNat,
    rpc := k.pc.toNat, job := k.job, extent := f.extent, addr := f.addr, loops := k.loops, xregs := [] }

/-- The task of a command holds the context it was issued on, so that its scratchpad writes and its slots are
seen (R104 step 3, R110). -/
def State.lives (s : State) (k : Cmd) : Bool := !k.aborted && (s.ctx k.ctx).task == k.task

/-- The slot of a fill ends it (R205, R206, R274): READY, faulted where `out` gives a code, or EMPTY where the
fill was cancelled. A slot that has been armed anew since is left alone. -/
def State.endFill (s : State) (k : Cmd) (out : Option FailAt) (cancelled : Bool) : State :=
  match k.slot with
  | none => s
  | some i =>
    let t := s.tile (coreOf k.ctx) i
    if !s.lives k || t.cid != k.cid || !t.inflight then s
    else s.updTile (coreOf k.ctx) i (fun t =>
      if cancelled then { t with state := .empty, inflight := false, fill := none }
      else { t with
        state := .ready, inflight := false, fill := some { k with fail := out }, faulted := out.isSome,
        fcode := match out with
          | some f => BitVec.ofNat 8 f.code
          | none => 0 })

/-! ### Ports of the transform unit (Table 5 of R286) -/

def Ctx.port (c : Ctx) (p : Nat) : Word := sget 0 c.ports p
def Ctx.setPort (c : Ctx) (p : Nat) (v : Word) : Ctx := { c with ports := sput 0 c.ports p v }

/-- The result ports after an operation (R286), in the context of its task, wherever that stands. -/
def State.putResults (s : State) (k : Cmd) (stat value amax : Nat) : State :=
  s.updTaskCtx k.task (fun c => (((c.setPort 0x80 (BitVec.ofNat 64 stat)).setPort 0x81 (BitVec.ofNat 64 value)).setPort
    0x82 (BitVec.ofNat 64 amax)).setPort 0x83 (BitVec.ofNat 64 k.cid.toNat))

/-- An operation of the transform unit that fails gives its code in RSTAT; its value, and the magnitude of one that quantises, are
free values (assumption log 6), and the magnitude of any other is 0 (Table 5 of R286). -/
def State.failResults (s : State) (k : Cmd) (code : Nat) : State :=
  match k.kind with
  | .trig port =>
    let v (i : Nat) : Nat := (Config.freeWord (s.free + i)).toNat
    { s.putResults k code (v 0) (if port = 0x41 ∨ port = 0x42 then v 1 % 2 ^ 32 else 0) with free := s.free + 2 }
  | _ => s

/-- What a command brings is consumed by later bundles, which raise its fault (R33, R206): a fill of a slot or of the HCT. -/
def Cmd.consumed (k : Cmd) : Bool := k.slot.isSome || decide (k.kind = .hctld) || decide (k.kind = CmdKind.kv 8)

/-- A command retires FAILED (R274, R276): its slot is marked, its results are written, a record follows where it is
deferred, and the task runs on. One that meets `TABLE_STRUCTURE` itself ends its pen's work (R437); that of a fill is taken
at its consumption. -/
def State.failCmd (s : State) (k : Cmd) (f : FailAt) (kv inh : Bool) (progress : Nat) : State :=
  let q := s.seq
  let s := (s.endFill k (some f) false).failResults k f.code
  let s := if k.deferred then { s with seq := s.seq + 1 }.postRecord (s.cmdRecord k f kv) false else s
  let s := s.retire k f.code inh 5 progress
  if inh || f.code != Code.tableStructure.num || k.consumed then s
  else (if k.deferred then s else { s with seq := s.seq + 1 }).penFail k.pen q

/-- A step of a command, whose messages to other packages name it (R407). -/
def State.asCmd {α : Type} (s : State) (k : Cmd) (f : State → α × State) : α × State :=
  let (r, s) := f (s.forCmd k)
  (r, { s with engNow := none })

/-- A step of a command that budgets hold access by access (R396): it is done once they have admitted all that it makes. -/
def State.paying (s : State) (k : Cmd) (kind sel : Nat) (f : State → State) : State :=
  match s.metered kind sel true k.paid (fun s => ((), f (s.updCmd k (fun c => { c with paid := 0 })))) with
  | (.error n, s) => s.updCmd k (fun c => { c with paid := n })
  | (.ok _, s) => s

/-- Messages of a command await acknowledgement (R407). -/
def State.sending (s : State) (k : Cmd) : Bool := s.sents.any (fun x => x.task == k.task && x.cid == k.cid)

/-- A command retires DONE. -/
def State.finishCmd (s : State) (k : Cmd) (progress : Nat) : State :=
  (s.endFill k none false).retire k 0 false 4 progress

/-! ### Starting (R271, R274, R436) -/

/-- A released command that nothing of R274 and R275 holds back. -/
def State.startable (s : State) (k : Cmd) : Bool :=
  decide (k.st = CmdSt.waiting) && s.cleared k

/-- The HCT entries that a load will never write are unloaded, with no code recorded. -/
def State.forgetLoad (s : State) (k : Cmd) : State :=
  match k.kind with
  | .hctld => s.updTaskCtx k.task (fun c =>
      (List.range (bits k.r2.toNat 25 16)).foldl
        (fun c i => c.setHct (bits k.r2.toNat 8 0 + i) (.unloaded 0)) c)
  | _ => s

/-- A waiting command starts, or ends as its predecessor or its queue says; none where it still waits: until all that pm
and ord name have retired (R274), and until what the context stored before has performed (R275). The commands of one unit
start in issue order (R283). -/
def State.tryStart (s : State) (k : Cmd) : Option State :=
  if k.st ≠ .waiting then none
  else if k.refused then some (s.failCmd k ⟨0x38, 0, 0, 0⟩ false false 0)
  else if !s.ordOk k then none
  else
    match predsOf (s.ctxOfTask k.task k.ctx) k.preds with
    | .failed c => some ((s.forgetLoad k).failCmd k ⟨c, 0, 0, 0⟩ false true 0)
    | .cancelled => some (((s.forgetLoad k).endFill k none true).retire k 0 true 6 0)
    | .wait => none
    | .go =>
      if s.storesLeft k.task then none
      else
      let first := (s.cmdsBefore k).all (fun c =>
        unitOf c.kind c.ctx != unitOf k.kind k.ctx || (unitOf k.kind k.ctx).isNone || !s.startable c)
      if first then
        let s := if k.kind = CmdKind.smpost then s else s.leaveQueue k
        some ((s.setStatus k 0 false 3 0).updCmd k (fun c => { c with
          st := .running, paid := 0, at_ := if c.at_ = 0 then s.now k.ctx + 1 else c.at_ }))
      else none

/-- COMMAND_START (R274): a spilled entry of the queue that the command leaves returns, as budgets admit it (R290, R396). -/
def execCommandStart (ctx cid : Nat) (s : State) : Out :=
  .next (match s.cmd ctx (BitVec.ofNat 16 cid) with
    | some k =>
      match s.metered 0 0 true k.paid (fun s => ((), (s.tryStart k).getD s)) with
      | (.error n, s) => s.updCmd k (fun c => { c with paid := n })
      | (.ok _, s) => s
    | none => s)

/-! ### Acceptance (R268, R271, R272, R274, R276) -/

/-- The index that the next command would take still holds one that has not retired (R272). -/
def Ctx.idBusy (c : Ctx) : Bool :=
  let st := bits (c.stat c.nextcid).toNat 34 32
  decide (1 ≤ st) && decide (st ≤ 3)

/-- The predecessors that pm names; none where an id or a reserved bit is bad (R268, R274). -/
def Ctx.namedPreds (c : Ctx) (pm : BitVec 2) : Option (List (BitVec 16)) :=
  let ps := (if pm.getLsbD 0 then [(c.engReg 0x000).toNat] else []) ++
    (if pm.getLsbD 1 then [(c.engReg 0x001).toNat] else [])
  let ok (p : Nat) : Bool :=
    decide (p < 2 ^ 16) && decide (1 ≤ (c.nextcid.toNat + 2 ^ 16 - p) % 2 ^ 16) &&
      decide ((c.nextcid.toNat + 2 ^ 16 - p) % 2 ^ 16 ≤ 32768)
  if ps.all ok then some (ps.map (BitVec.ofNat 16)) else none

/-- A command as it stands at its issue: it has copied the registers and ports (R268, R286). -/
def State.newCmd (s : State) (kind : CmdKind) (deferred : Bool) (ord : BitVec 2) (r1 r2 : Word) : Cmd :=
  { ctx := s.issue.ctx, task := s.pre.task, cid := s.pre.nextcid, kind := kind,
    st := if deferred && s.cur.inRegion then .held else .waiting, deferred := deferred,
    inRegion := s.cur.inRegion, aborted := false, preds := [], ord := ord.toNat, r1 := r1, r2 := r2,
    regs := s.pre.eng, ports := s.pre.ports, scope := 0, pc := s.issue.pc, pen := s.pre.pen.toNat,
    wid := s.pre.wid, job := s.jobOf s.issue.ctx, core := coreOf s.issue.ctx,
    loops := loopsWord s.pre.loops, slot := none, pos := 0,
    fail := none, done := 0, got := [], paid := 0, rel := 0, at_ := 0,
    stream := Stream.none }

/-- Deferred commands that the open region holds (R101). -/
def State.heldCount (s : State) : Nat :=
  (s.cmds.filter (fun c => c.ctx == s.issue.ctx && c.task == s.pre.task && decide (c.st = CmdSt.held))).length

/-- A command whose own checks have passed is accepted (R272, R274, R276): it takes its id, `arm` does what
acceptance does to a slot or to the HCT, and it starts where nothing holds it. -/
def State.submit (s : State) (k : Cmd) (pm : BitVec 2) (arm : Cmd → State → Cmd × State) : State :=
  match s.pre.namedPreds pm with
  | none => s.fault .reservedField
  | some ps =>
    if k.st = .held ∧ 32 ≤ s.heldCount then s.fault .regionFull
    else
      let (ok, s) := if k.st = .held then (true, s) else s.arrive k
      if !ok && !k.deferred then s.fault .queueQuota
      else
        let k := { k with
          preds := ps, rel := if k.st = .held then 0 else s.nextRel, fail := if ok then none else some ⟨0x38, 0, 0, 0⟩ }
        let (k, s) := arm k s
        let s := if k.st = .held ∨ !ok then s else s.toGroom k
        let s := s.updCur (fun c => { c with
          nextcid := k.cid + 1,
          status := sput 0 c.status (k.cid.toNat % 64)
            (statusWord k.cid 0 false (if k.st = .held then 1 else 2) 0) })
        let s := { s with cmds := s.cmds ++ [k] }
        if k.st = .held then s else (s.tryStart k).getD (s.updCmd k (fun c => { c with at_ := s.arrival k }))

/-- A command syllable: one whose id is busy is not ready, then its checks run, then it is accepted. -/
def command (s : State) (k : State → State) : State := if s.pre.idBusy then s.stall else k s

/-! ### `xwait` and `xpoll` (R278) -/

/-- The status word that the two report, and whether it is of a retired command. -/
def Ctx.report (c : Ctx) (id : BitVec 16) : Word :=
  let e := c.stat id
  if e.toNat / 2 ^ 48 = id.toNat then e else BitVec.ofNat 64 (id.toNat * 2 ^ 48 + 7 * 2 ^ 32)

/-- A retired state orders later accesses after the command's writes: the core keeps no older copy (R236,
R275). -/
def statusRead (wait : Bool) (rd : BitVec 6) (a : Word) (s : State) : State :=
  let w := s.pre.report (a.setWidth 16)
  let st := bits w.toNat 34 32
  if wait && (st == 2 || st == 3) then s.stall
  else
    let s := if 4 ≤ st ∧ st ≤ 6 then s.updCurCore (fun c => { c with l1 := [] }) else s
    s.putX rd w 1

def execXwait (o : RUnOp) (s : State) : Out := guarded o.g (fun s => statusRead true o.rd (s.pre.x o.rs1) s) s
def execXpoll (o : RUnOp) (s : State) : Out := guarded o.g (fun s => statusRead false o.rd (s.pre.x o.rs1) s) s

end Sys2Proof.Machine
end

