-- ==== Sys2Proof/Machine/Vector.lean ====
section
/-! DEFINITION. Vector-slot operations on lanes and masks (R146 to R157). A meaning here runs under a true
wide guard (R39). -/

namespace Sys2Proof.Machine

/-- Element width and count of an operation (R140). -/
def vw (o : VOp) : Nat := elemBits o.f
def vn (o : VOp) : Nat := 2048 / vw o

/-- The governing mask (R140). -/
def State.gmask (s : State) (o : VOp) : BitVec 64 := s.pre.m o.mask

/-- Writes a vector result with its events (R141, R143, R86). -/
def State.putVec (s : State) (vd : BitVec 6) (r : Nat × Flags) (lat : Nat) : State :=
  (s.putV vd (BitVec.ofNat 2048 r.1) lat).raise r.2

/-- The merged result of an element function `f` over the old destination (R141). -/
def State.mergeV (s : State) (o : VOp) (f : Nat → Nat × Flags) : Nat × Flags :=
  mergeBy (activeAt (s.gmask o) (vn o)) (o.mm = 1) (vw o) (vn o) (s.pre.v o.vd).toNat f

/-- An operation of one source: result element `i` from the source's bits. -/
def vec1 (o : VOp) (lat : Nat) (f : Nat → Nat → Nat × Flags) (s : State) : Out :=
  let any := anyActive (s.gmask o) (vn o) (fun _ => true)
  .next (s.withOperands [s.operand o.sa any] (fun vals s =>
    let a := vals.getD 0 0
    s.putVec o.vd (s.mergeV o (f a)) lat))

/-- An operation of two sources, with the elements that use each of them. -/
def vec2 (o : VOp) (lat : Nat) (ua ub : Nat → Bool) (f : Nat → Nat → Nat → Nat × Flags) (s : State) : Out :=
  let m := s.gmask o
  .next (s.withOperands [s.operand o.sa (anyActive m (vn o) ua), s.operand o.sb (anyActive m (vn o) ub)]
    (fun vals s => s.putVec o.vd (s.mergeV o (f (vals.getD 0 0) (vals.getD 1 0))) lat))

/-- An operation of three sources. -/
def vec3 (o : VOp) (lat : Nat) (f : Nat → Nat → Nat → Nat → Nat × Flags) (s : State) : Out :=
  let any := anyActive (s.gmask o) (vn o) (fun _ => true)
  .next (s.withOperands [s.operand o.sa any, s.operand o.sb any, s.operand o.sc any] (fun vals s =>
    s.putVec o.vd (s.mergeV o (f (vals.getD 0 0) (vals.getD 1 0) (vals.getD 2 0))) lat))

/-- Every element uses the source. -/
def allEl (_ : Nat) : Bool := true

/-! ### Integer operations (R146, R147) -/

/-- The integer format of the operation. -/
def vint (o : VOp) : IFmt := (ifmtOf o.f).getD ⟨vw o, true⟩

/-- trunc_w(r), clamped first under `.sat` (R146). -/
def deliverI (o : VOp) (r : Int) : Nat :=
  wrapInt (vw o) (if o.k % 2 = 1 then clampInt r (vint o).lo (vint o).hi else r)

/-- Lane by lane on element values. -/
def intLanes (o : VOp) (f : Int → Int → Int) (s : State) : Out :=
  vec2 o 4 allEl allEl (fun a b i =>
    (deliverI o (f ((vint o).value (el (vw o) a i)) ((vint o).value (el (vw o) b i))), fNone)) s

/-- Lane by lane on element patterns. -/
def patLanes (o : VOp) (f : Nat → Nat → Nat) (s : State) : Out :=
  vec2 o 4 allEl allEl (fun a b i => (f (el (vw o) a i) (el (vw o) b i) % 2 ^ vw o, fNone)) s

/-- One source, lane by lane on patterns. -/
def patLanes1 (o : VOp) (f : Nat → Nat) (s : State) : Out :=
  vec1 o 4 (fun a i => (f (el (vw o) a i) % 2 ^ vw o, fNone)) s

/-- Leading zeros of a `w`-bit pattern. -/
def clzW (w v : Nat) : Nat := if v = 0 then w else w - 1 - Nat.log2 v

/-- One bits of a pattern below bit `w`. -/
def popcW (w v : Nat) : Nat := ((List.range w).filter (fun i => bit v i)).length

def execVadd (o : VOp) (s : State) : Out := intLanes o (fun a b => a + b) s
def execVsub (o : VOp) (s : State) : Out := intLanes o (fun a b => a - b) s
def execVmul (o : VOp) (s : State) : Out := intLanes o (fun a b => a * b) s
/-- floor(a × b / 2^w) (R146). -/
def execVmulh (o : VOp) (s : State) : Out := intLanes o (fun a b => a * b / (2 : Int) ^ vw o) s
def execVmin (o : VOp) (s : State) : Out := intLanes o (fun a b => if a < b then a else b) s
def execVmax (o : VOp) (s : State) : Out := intLanes o (fun a b => if a < b then b else a) s
def execVabs (o : VOp) (s : State) : Out :=
  vec1 o 4 (fun a i =>
    let v := (vint o).value (el (vw o) a i)
    (deliverI o (if v < 0 then -v else v), fNone)) s
def execVand (o : VOp) (s : State) : Out := patLanes o (fun a b => a &&& b) s
def execVor (o : VOp) (s : State) : Out := patLanes o (fun a b => a ||| b) s
def execVxor (o : VOp) (s : State) : Out := patLanes o (fun a b => a ^^^ b) s
def execVandn (o : VOp) (s : State) : Out := patLanes o (fun a b => a &&& (b ^^^ (2 ^ vw o - 1))) s
/-- a × 2^s with s the low log2(w) bits of b (R146). -/
def execVshl (o : VOp) (s : State) : Out :=
  vec2 o 4 allEl allEl (fun a b i =>
    (deliverI o ((vint o).value (el (vw o) a i) * (2 : Int) ^ (el (vw o) b i % vw o)), fNone)) s
def execVshr (o : VOp) (s : State) : Out := patLanes o (fun a b => a / 2 ^ (b % vw o)) s
/-- floor(a / 2^s); u8 shifts logically, which is the same floor of its value (R146). -/
def execVsra (o : VOp) (s : State) : Out :=
  vec2 o 4 allEl allEl (fun a b i =>
    (wrapInt (vw o) ((vint o).value (el (vw o) a i) / (2 : Int) ^ (el (vw o) b i % vw o)), fNone)) s
def execVclz (o : VOp) (s : State) : Out := patLanes1 o (clzW (vw o)) s
def execVpopc (o : VOp) (s : State) : Out := patLanes1 o (popcW (vw o)) s

/-- `vnarrow` (R147): A fills the lower half of the elements, B the upper. -/
def execVnarrow (o : VOp) (s : State) : Out :=
  let n := vn o
  vec2 o 4 (fun i => decide (i < n / 2)) (fun i => decide (n / 2 ≤ i)) (fun a b i =>
    let v := if i < n / 2 then el (2 * vw o) a i else el (2 * vw o) b (i - n / 2)
    (deliverI o (sextInt v (2 * vw o)), fNone)) s

/-- `vwiden` (R147): half `mod3[0]` of A, zero-extended under `mod3[1]`. -/
def execVwiden (o : VOp) (s : State) : Out :=
  vec1 o 4 (fun a i =>
    let v := el (vw o / 2) a (o.k % 2 * vn o + i)
    (if bit o.k 1 then v else wrapInt (vw o) (sextInt v (vw o / 2)), fNone)) s

/-! ### Compares (R148) -/

/-- A mask that a compare folds into (R142, R131). -/
def State.maskIn (s : State) (acc : Bool) (i : BitVec 4) : BitVec 64 :=
  if acc && s.issue.accM.getLsbD i.toNat then s.cur.m i else s.pre.m i

/-- A mask from its bits. -/
def maskOf (f : Nat → Bool) : BitVec 64 :=
  BitVec.ofNat 64 ((List.range 64).foldr (fun j a => (if f j then 1 else 0) + 2 * a) 0)

/-- Writes a mask of a compare's pair. -/
def State.putCmpMask (s : State) (acc : Bool) (i : BitVec 4) (v : BitVec 64) : State :=
  let s := s.putM i v 4
  { s with issue := { s.issue with accM := setPred s.issue.accM i acc } }

/-- The bits that a compare writes to its two masks, lane by lane: none is no write (R148). -/
def pairBits (ct : Nat) (g c pa pb : Bool) : Option Bool × Option Bool :=
  if g then combine ct c pa pb
  else if ct = 1 then (some false, some false) else (none, none)

/-- A vector compare by a condition on element patterns (R148). A lane that it does not write keeps the bit that earlier slots
of the bundle have left (assumption log 87). -/
def vecCompare (o : VOp) (cond : Nat → Nat → Bool × Flags) (s : State) : Out :=
  let w := vw o
  let e := 32 / w
  let m := s.gmask o
  let any := anyActive m 64 allEl
  .next (s.withOperands [s.operand o.sa any, s.operand o.sb any] (fun vals s =>
    let a := vals.getD 0 0
    let b := vals.getD 1 0
    let res (j : Nat) : List (Bool × Flags) :=
      (List.range e).map (fun k => cond (el w a (e * j + k)) (el w b (e * j + k)))
    let lanes : List (Bool × Flags) := (List.range 64).map (fun j =>
      if m.getLsbD j then ((res j).all Prod.fst, (res j).foldl (fun f r => f ||| r.2) fNone)
      else (false, fNone))
    let ct := o.d % 8
    let acc := ctAccum ct
    let pa : BitVec 4 := BitVec.ofNat 4 (2 * (o.d / 8))
    let pb : BitVec 4 := BitVec.ofNat 4 (2 * (o.d / 8) + 1)
    let va := s.maskIn acc pa
    let vb := s.maskIn acc pb
    let out (j : Nat) : Option Bool × Option Bool :=
      pairBits ct (m.getLsbD j) ((lanes.getD j (false, fNone)).1) (va.getLsbD j) (vb.getLsbD j)
    let ka := s.cur.m pa
    let kb := s.cur.m pb
    let s := s.putCmpMask acc pa (maskOf (fun j => (out j).1.getD (ka.getLsbD j)))
    let s := s.putCmpMask acc pb (maskOf (fun j => (out j).2.getD (kb.getLsbD j)))
    s.raise (lanes.foldl (fun f r => f ||| r.2) fNone)))

def execVcmp (o : VOp) (s : State) : Out :=
  vecCompare o (fun a b =>
    let g := vint o
    let k := if !g.signed && 2 ≤ o.k && o.k ≤ 5 then
        (match o.k with
          | 2 => decide (a < b)
          | 3 => decide (a ≤ b)
          | 4 => decide (b < a)
          | _ => decide (b ≤ a))
      else icmpCond g.w o.k a b
    (k, fNone)) s

/-- The floating format of the operation. -/
def vflt (o : VOp) : FFmt := (ffmtOf o.f).getD fmtF32

def execVfcmp (o : VOp) (s : State) : Out :=
  vecCompare o (fun a b => fcmpCond o.k ((vflt o).decode a) ((vflt o).decode b)) s

/-! ### Select, move, immediate (R149) -/

/-- `vsel`: every element is written, A where its mask bit is 1. An element whose bit is 0 uses B, so a ring chunk named as B
is then waited for and may fault, as for an active element (assumption log 88). -/
def execVsel (o : VOp) (s : State) : Out :=
  let m := s.gmask o
  let n := vn o
  let w := vw o
  let ua := (List.range n).any (fun i => activeAt m n i)
  let ub := (List.range n).any (fun i => !activeAt m n i)
  .next (s.withOperands [s.operand o.sa ua, s.operand o.sb ub] (fun vals s =>
    s.putVec o.vd (mergeBy (fun _ => true) false w n 0 (fun i =>
      (if activeAt m n i then el w (vals.getD 0 0) i else el w (vals.getD 1 0) i, fNone))) 4))

def execVmov (o : VOp) (s : State) : Out := vec1 o 4 (fun a i => (el (vw o) a i, fNone)) s

/-- The value of `vimm` (R149, R52). -/
def immOf (o : VOp) : Nat :=
  if o.f = 0 then o.imm * 2 ^ 11
  else if o.f ≤ 2 then o.imm % 2 ^ 16
  else wrapInt (vw o) (sextInt o.imm 21)

def execVimm (o : VOp) (s : State) : Out := .next (s.putVec o.vd (s.mergeV o (fun _ => (immOf o, fNone))) 4)

/-! ### Floating operations (R150 to R152) -/

/-- mod3 of the floating operations: `.sat`, `.rtz`, `.neg`, which flips the delivered sign (R150). -/
def deliverF (o : VOp) (r : FV × Flags) : Nat × Flags :=
  let f := vflt o
  let (v, fl) := arith f (bit o.k 1) (bit o.k 0) r
  (if bit o.k 2 then v ^^^ 2 ^ (f.width - 1) else v, fl)

def fltLanes (o : VOp) (f : FV → FV → FV × Flags) (s : State) : Out :=
  vec2 o 4 allEl allEl (fun a b i =>
    deliverF o (f ((vflt o).decode (el (vw o) a i)) ((vflt o).decode (el (vw o) b i)))) s

def fltLanes3 (o : VOp) (f : FV → FV → FV → FV × Flags) (s : State) : Out :=
  vec3 o 4 (fun a b c i =>
    let d (v : Nat) : FV := (vflt o).decode (el (vw o) v i)
    deliverF o (f (d a) (d b) (d c))) s

def execVfadd (o : VOp) (s : State) : Out := fltLanes o addFV s
def execVfsub (o : VOp) (s : State) : Out := fltLanes o (fun a b => addFV a b.neg) s
def execVfmul (o : VOp) (s : State) : Out := fltLanes o mulFV s
def execVfma (o : VOp) (s : State) : Out := fltLanes3 o fmaFV s
def execVfms (o : VOp) (s : State) : Out := fltLanes3 o (fun a b c => fmaFV a b c.neg) s
def execVfnma (o : VOp) (s : State) : Out := fltLanes3 o (fun a b c => fmaFV a.neg b c) s

/-- `vfmin`, `vfmax` (R150): a NaN in an active element sets invalid. -/
def minmaxLanes (o : VOp) (wantMin : Bool) (s : State) : Out :=
  vec2 o 4 allEl allEl (fun a b i =>
    let r := fminmax (vflt o) wantMin (el (vw o) a i) (el (vw o) b i)
    (r.1, if r.2 then fInv else fNone)) s

def execVfmin (o : VOp) (s : State) : Out := minmaxLanes o true s
def execVfmax (o : VOp) (s : State) : Out := minmaxLanes o false s
def execVfabs (o : VOp) (s : State) : Out := patLanes1 o (fun a => a % 2 ^ (vw o - 1)) s
def execVfneg (o : VOp) (s : State) : Out := patLanes1 o (fun a => a ^^^ 2 ^ (vw o - 1)) s

/-- Class code of Table 5 (R151). -/
def classOf (f : FFmt) (v : Nat) : Nat :=
  let neg := bit v (f.width - 1)
  match f.decode v with
  | .nan => 8
  | .inf n => if n then 0 else 7
  | .fin _ m _ =>
    if m = 0 then (if neg then 3 else 4)
    else if v / 2 ^ f.mb % 2 ^ f.eb = 0 then (if neg then 2 else 5)
    else (if neg then 1 else 6)

def execVfclass (o : VOp) (s : State) : Out := patLanes1 o (classOf (vflt o)) s

/-- A finite magnitude rounded to an integer in a direction of R152. -/
def roundDir (dir : Nat) (neg : Bool) (m : Nat) (e : Int) : Nat :=
  let (n, d) := scaleFrac m 1 e
  let q := n / d
  let r := n % d
  match dir with
  | 0 => (roundNat false n d).1
  | 1 => q
  | 2 => if neg && r != 0 then q + 1 else q
  | 3 => if !neg && r != 0 then q + 1 else q
  | _ => if d ≤ 2 * r then q + 1 else q

/-- `vround` (R152): infinities and zeros unchanged, no flag. -/
def roundEl (f : FFmt) (dir v : Nat) : Nat :=
  match f.decode v with
  | .nan => f.nanBits
  | .inf _ => v
  | .fin neg m e =>
    if m = 0 || 0 ≤ e then v else (roundEx f false false neg (roundDir dir neg m e) 1 0).1

def execVround (o : VOp) (s : State) : Out := patLanes1 o (roundEl (vflt o) o.k) s

/-! ### Conversion and scaling (R153, R154) -/

/-- `vcvt` (R153): element `i` of `n` goes to destination position `dst`; every other position is
inactive. -/
def execVcvt (o : VOp) (s : State) : Out :=
  let ws := elemBits o.c
  let wd := vw o
  let n := 2048 / Nat.max ws wd
  let p := o.b % 8
  let m := s.gmask o
  let any := anyActive m n allEl
  .next (s.withOperands [s.operand o.sa any] (fun vals s =>
    let a := vals.getD 0 0
    let base := if wd < ws then p * n else 0
    let from_ := if wd < ws then 0 else p * n
    let act (d : Nat) : Bool := decide (base ≤ d) && decide (d < base + n) && activeAt m n (d - base)
    s.putVec o.vd (mergeBy act (o.mm = 1) wd (2048 / wd) (s.pre.v o.vd).toNat (fun d =>
      convert o.c o.f (bit o.k 1) (bit o.k 0) (el ws a (from_ + (d - base))))) 4))

/-- `vscale` (R154): the scale register is read with whatever value it holds at issue (R143, R215). -/
def execVscale (o : VOp) (s : State) : Out :=
  let sc := (s.pre.e (BitVec.ofNat 4 o.b)).toNat
  let g := 2 ^ o.k
  vec1 o 4 (fun a i =>
    let f := vflt o
    let c := el 8 sc (i / g % 64)
    if c = 0xFF then (f.nanBits, fNone)
    else
      let t : Int := (c : Int) - 127
      arith f false false (scaleFV (if bit o.c 0 then -t else t) (f.decode (el (vw o) a i)), fNone)) s

/-! ### Permutations (R155) -/

def execVbcast (o : VOp) (s : State) : Out :=
  vec1 o 4 (fun a _ => (el (vw o) a (128 * (o.b % 2) + o.c), fNone)) s

def execVperm (o : VOp) (s : State) : Out :=
  vec2 o 4 allEl allEl (fun a b i => (el (vw o) a (el (vw o) b i % vn o), fNone)) s

/-- Element `j` of the 2n-element sequence A then B. -/
def catEl (o : VOp) (a b j : Nat) : Nat :=
  if j < vn o then el (vw o) a j else el (vw o) b (j - vn o)

/-- Operations that pick element `g i` of A then B. -/
def pickLanes (o : VOp) (g : Nat → Nat) (s : State) : Out :=
  vec2 o 4 (fun i => decide (g i < vn o)) (fun i => decide (vn o ≤ g i))
    (fun a b i => (catEl o a b (g i), fNone)) s

def execVslide (o : VOp) (s : State) : Out := pickLanes o (fun i => i + o.c % 64) s

/-- Even elements come from A, odd ones from B, from half mod3[0] (R155). -/
def execVzip (o : VOp) (s : State) : Out :=
  let h := vn o / 2 * (o.k % 2)
  pickLanes o (fun i => if i % 2 = 0 then h + i / 2 else vn o + (h + i / 2)) s

def execVunzip (o : VOp) (s : State) : Out := pickLanes o (fun i => 2 * i + o.k % 2) s

/-- Positions of the active lanes, ascending. -/
def activeLanes (m : BitVec 64) : List Nat := (List.range 64).filter (fun i => m.getLsbD i)

/-- `vcompress` (R155): destination positions at or above the active count are the inactive ones. -/
def execVcompress (o : VOp) (s : State) : Out :=
  let m := s.gmask o
  let act := activeLanes m
  .next (s.withOperands [s.operand o.sa (!act.isEmpty)] (fun vals s =>
    s.putVec o.vd (mergeBy (fun k => decide (k < act.length)) (o.mm = 1) 32 64 (s.pre.v o.vd).toNat
      (fun k => (el 32 (vals.getD 0 0) (act.getD k 0), fNone))) 6))

/-- Set bits of a mask below bit `i`. -/
def countBelow (m : BitVec 64) (i : Nat) : Nat := ((List.range i).filter (fun j => m.getLsbD j)).length

def execVexpand (o : VOp) (s : State) : Out :=
  let m := s.gmask o
  vec1 o 6 (fun a i => (el 32 a (countBelow m i), fNone)) s

/-- `viota` (R155): every element is written. -/
def execViota (o : VOp) (s : State) : Out :=
  let m := s.gmask o
  .next (s.putVec o.vd (mergeBy (fun _ => true) false 32 64 0 (fun i => (countBelow m i, fNone))) 4)

/-! ### Reductions (R85, R156) -/

/-- One level of the pairwise tree. -/
def pairUp {α : Type} (op : α → α → α) : List α → List α
  | a :: b :: r => op a b :: pairUp op r
  | l => l

/-- The tree of R85 in `k` levels. -/
def treeUp {α : Type} (op : α → α → α) : Nat → List α → List α
  | 0, l => l
  | k + 1, l => treeUp op k (pairUp op l)

/-- A sum node: one FP32 addition, with the events so far. -/
def sumNode (a b : Nat × Flags) : Nat × Flags :=
  let (v, f) := f32Add a.1 b.1
  (v, f ||| a.2 ||| b.2)

/-- A pattern widened exactly to FP32 (R85). -/
def widenF32 (fmt v : Nat) : Nat := (convert fmt 0 false false v).1

/-- A reduction: the active elements of A with the identity for the others; `f` gives the bits of vd. -/
def reduce (o : VOp) (f : List (Option Nat) → Nat × Flags) (s : State) : Out :=
  let m := s.gmask o
  let n := vn o
  let any := anyActive m n allEl
  .next (s.withOperands [s.operand o.sa any] (fun vals s =>
    let a := vals.getD 0 0
    s.putVec o.vd (f ((List.range n).map (fun i => if activeAt m n i then some (el (vw o) a i) else none))) 6))

/-- The floating sum by the tree, rounded once to the format (R85, R156). -/
def floatSum (fmt : Nat) (l : List (Option Nat)) : Nat × Flags :=
  let xs := l.map (fun e => match e with
    | some v => (widenF32 fmt v, fNone)
    | none => (0x80000000, fNone))
  let t := (treeUp sumNode 7 xs).getD 0 (0, fNone)
  if fmt = 0 then t
  else
    let r := convert 0 fmt false false t.1
    (r.1, r.2 ||| t.2)

/-- The values of the active elements of an integer reduction. -/
def intVals (o : VOp) (l : List (Option Nat)) : List Int :=
  l.filterMap (fun e => e.map (vint o).value)

def execVredsum (o : VOp) (s : State) : Out :=
  reduce o (fun l =>
    if o.f ≤ 2 then floatSum o.f l
    else (deliverI o ((intVals o l).foldl (· + ·) 0), fNone)) s

/-- The larger or smaller floating element by the tree (R156): no flag. -/
def floatBest (o : VOp) (wantMin : Bool) (l : List (Option Nat)) : Nat :=
  let f := vflt o
  let xs := l.map (fun e => e.getD (f.infBits (!wantMin)))
  (treeUp (fun a b => (fminmax f wantMin a b).1) 7 xs).getD 0 0

def intBest (o : VOp) (wantMin : Bool) (l : List (Option Nat)) : Nat :=
  let g := vint o
  wrapInt g.w ((intVals o l).foldl (fun a b => if (decide (a < b)) == wantMin then a else b)
    (if wantMin then g.hi else g.lo))

def redBest (o : VOp) (wantMin : Bool) (s : State) : Out :=
  reduce o (fun l => (if o.f ≤ 2 then floatBest o wantMin l else intBest o wantMin l, fNone)) s

def execVredmax (o : VOp) (s : State) : Out := redBest o false s
def execVredmin (o : VOp) (s : State) : Out := redBest o true s

/-- A candidate of `vargmax`, `vargmin`: its value and its index, none for the identity. -/
abbrev Cand := FV × Option Nat

/-- The value order of R156: a NaN beats every number; then the larger, or smaller, value. -/
def candBeats (wantMin : Bool) (a b : FV) : Ordering :=
  if a.isNan || b.isNan then
    (if a.isNan && b.isNan then .eq else if a.isNan then .gt else .lt)
  else if wantMin then cmpFV b a else cmpFV a b

/-- Equal values go to the smaller index, and any index before none. -/
def bestCand (wantMin : Bool) (a b : Cand) : Cand :=
  match candBeats wantMin a.1 b.1 with
  | .gt => a
  | .lt => b
  | .eq =>
    match a.2, b.2 with
    | some i, some j => if i ≤ j then a else b
    | none, some _ => b
    | _, none => a

/-- Bits [63:0] of the result (R156): the winning value as FP32 or 32 bits, and the index. -/
def argResult (o : VOp) (wantMin : Bool) (l : List (Option Nat)) : Nat :=
  let id : Cand :=
    (if o.f ≤ 2 then .inf (!wantMin)
     else intFV (if wantMin then (vint o).hi else (vint o).lo), none)
  let xs : List Cand := l.zipIdx.map (fun e => match e.1 with
    | some v => (if o.f ≤ 2 then (vflt o).decode v else intFV ((vint o).value v), some e.2)
    | none => id)
  let w := (treeUp (bestCand wantMin) 7 xs).getD 0 id
  let val := if o.f ≤ 2 then (roundFV fmtF32 false false w.1).1
    else match w.1 with
      | .fin neg m _ => wrapInt 32 (if neg then -(m : Int) else m)
      | _ => 0
  val * 2 ^ 32 + w.2.getD 0xFFFFFFFF

def execVargmax (o : VOp) (s : State) : Out := reduce o (fun l => (argResult o false l, fNone)) s
def execVargmin (o : VOp) (s : State) : Out := reduce o (fun l => (argResult o true l, fNone)) s

def execVredand (o : VOp) (s : State) : Out :=
  reduce o (fun l => ((l.filterMap id).foldl (· &&& ·) (2 ^ vw o - 1), fNone)) s
def execVredor (o : VOp) (s : State) : Out :=
  reduce o (fun l => ((l.filterMap id).foldl (· ||| ·) 0, fNone)) s

/-! ### Mask operations (R157) -/

/-- A mask result under its governing mask (R157). -/
def maskOp (o : VOp) (v : BitVec 64) (s : State) : Out :=
  let g := s.gmask o
  let d : BitVec 4 := BitVec.ofNat 4 o.d
  let old := if o.mm = 1 then 0 else s.pre.m d
  let s := s.putM d ((v &&& g) ||| (old &&& ~~~g)) 1
  .next { s with issue := { s.issue with accM := setPred s.issue.accM d false } }

/-- A mask source. -/
def State.msrc (s : State) (f : Nat) : BitVec 64 := s.pre.m (BitVec.ofNat 4 f)

def execMand (o : VOp) (s : State) : Out := maskOp o (s.msrc o.a &&& s.msrc o.b) s
def execMor (o : VOp) (s : State) : Out := maskOp o (s.msrc o.a ||| s.msrc o.b) s
def execMxor (o : VOp) (s : State) : Out := maskOp o (s.msrc o.a ^^^ s.msrc o.b) s
def execMnot (o : VOp) (s : State) : Out := maskOp o (~~~(s.msrc o.a)) s
def execMrange (o : VOp) (s : State) : Out :=
  maskOp o (maskOf (fun j => decide (o.a ≤ j) && decide (j ≤ o.b))) s

end Sys2Proof.Machine
end

