-- ==== Sys2Proof/Machine/Matrix.lean ====
section
/-! DEFINITION. The matrix array: PUSH, MAC and DRAIN beats, and scale loads (R175 to R195, R215, R81 to R84).
A meaning here runs under a true wide guard (R39). -/

namespace Sys2Proof.Machine

/-! ### The beat format table (R178 to R180) -/

/-- A beat format table entry (Table 2 of R178). -/
structure BeatFmt where
  rsv : Nat
  blay : Nat
  alay : Nat
  osat : Bool
  ofmt : Nat
  kb : Nat
  sp : Nat
  bsb : Nat
  bsm : Nat
  asb : Nat
  asm_ : Nat
  bfmt : Nat
  afmt : Nat
  deriving DecidableEq, Repr

def BeatFmt.ofWord (w : Word) : BeatFmt :=
  let v := w.toNat
  { rsv := bits v 63 37, blay := bits v 36 34, alay := bits v 33 31, osat := bit v 30, ofmt := bits v 29 26,
    kb := bits v 25 22, sp := bits v 21 20, bsb := bits v 19 16, bsm := bits v 15 14, asb := bits v 13 10,
    asm_ := bits v 9 8, bfmt := bits v 7 4, afmt := bits v 3 0 }

/-- The row of Table 3 of R179 that a pair of formats forms: floating, and sparsity admitted. -/
def pairRow (a b : Nat) : Option (Bool × Bool) :=
  let row (f : Nat) : Nat := match f with
    | 1 => 1 | 2 => 1 | 3 => 2 | 4 => 2 | 5 => 3 | 6 => 4 | 8 => 4 | 7 => 5 | _ => 0
  if row a = 0 || row a != row b then none
  else match row a with
    | 1 => some (true, false)
    | 2 => some (true, true)
    | 3 => some (true, true)
    | 4 => some (false, true)
    | _ => some (false, false)

/-- An output that a row of Table 3 admits. -/
def outOk (floating : Bool) (f : Nat) : Bool :=
  if floating then decide (f ≤ 4) else f == 10 || decide (f ≤ 2)

/-- Scale blocks per row or column (R180). -/
def blocksPer (fmt sp : Nat) : Nat :=
  let d := if sp = 0 then 384 else 768
  (d * 8 + 32 * elemBits fmt - 1) / (32 * elemBits fmt)

/-- A scale mode with its base register is admitted (R179, R180). -/
def scaleOk (mode base fmt sp : Nat) (floating : Bool) : Bool :=
  match mode with
  | 0 => true
  | 1 => floating && decide (base + (8 * blocksPer fmt sp + 63) / 64 ≤ 16)
  | 2 => floating
  | _ => false

/-- The roles of a beat. -/
inductive Role where
  | push | mac | drain
  deriving DecidableEq, Repr

/-- Step 2 of R179 for a role. -/
def BeatFmt.ok (m : BeatFmt) (r : Role) : Bool :=
  match pairRow m.afmt m.bfmt with
  | none => false
  | some (fl, sparse) =>
    match r with
    | .drain => outOk fl m.ofmt && (m.alay == 0 || m.alay == 5)
    | _ =>
      decide (1 ≤ m.kb) && decide (m.kb ≤ 12) && decide (m.sp < 3) && (sparse || m.sp == 0) &&
        (m.sp == 0 || m.kb == 12) && scaleOk m.asm_ m.asb m.afmt m.sp fl &&
        scaleOk m.bsm m.bsb m.bfmt m.sp fl &&
        (match r with
          | .push => m.blay == 0 || m.blay == 2 || m.blay == 3 || m.blay == 4
          | _ => m.alay == 0 || m.alay == 1 || m.alay == 6)

/-- The checks of R179, in their order. -/
def BeatFmt.check (m : BeatFmt) (r : Role) : Option Code :=
  if m.rsv ≠ 0 then some .reservedField else if m.ok r then none else some .formatMismatch

/-- The entry a beat names, as it stood at the end of the previous bundle (R178, R137). -/
def State.beatFmt (s : State) (n : BitVec 3) : BeatFmt := BeatFmt.ofWord (s.pre.fmtEnt n)

/-! ### Ring units (R181, R182) -/

/-- A unit at a consumer cursor. -/
inductive BeatUnit where
  | unit (slot addr : Nat)
  | wait
  | fault (f : FaultInfo)
  deriving DecidableEq, Repr

/-- Steps 1 and 2 of R182 for a consumed unit of `k` lines. -/
def State.takeUnit (s : State) (h : BitVec 4) (group : BitVec 1) (k : Nat) : BeatUnit :=
  match s.ringSpan h 0 k with
  | .error f => .fault f
  | .ok (slot, a) =>
    if (s.preTile slot).group ≠ group then .fault (s.info .ringMisuse)
    else match s.slotReady slot with
      | .error none => .wait
      | .error (some f) => .fault f
      | .ok _ => if s.scattering (linesAt a k) then .wait else .unit slot a

/-- Steps 3 and 4 of R182: the layout stated and the operand format against the slot's. -/
def TileEnt.stated (t : TileEnt) (layout fmt : Nat) (pushOfGen : Bool) : Option Code :=
  if layout ≠ 0 ∧ layout ≠ t.layout.toNat then some .layoutMismatch
  else if t.fmt.toNat ≠ fmt && !pushOfGen then some .formatMismatch
  else none

/-- Bank conflicts are checked last (R194). -/
def State.countLines (s : State) (a k : Nat) (f : State → State) : State :=
  match addLines s.issue.lines (linesAt a k) with
  | none => s.fault .bankConflict
  | some ls => f { s with issue := { s.issue with lines := ls } }

/-- Slots that a cursor must not leave as consumer: a DRAIN or a fill is under way in them (R205). -/
def State.notDone (s : State) (l : List Nat) : Bool :=
  l.any (fun i => decide ((s.preTile i).state = .filling) || decide ((s.preTile i).state = .draining))

/-- A beat that advances its consumer cursor by `c` lines, from where a `radv` of the bundle has left it, needs as many below
the producer cursor, as `radv` does: the fill level never exceeds the ring's length (R210, R212; assumption log 86). A slot
that is FILLING or DRAINING is not left (R205). -/
def State.pastFill (s : State) (o : BeatOp) (c : Nat) : Bool :=
  let r := s.cur.ring o.ring
  o.adv == 1 && (decide (r.fill < c) || s.notDone (ringLeaves s.preTile r (r.n + c) r.cc.toNat c))

/-- A consumer cursor moves by `c` lines, after the moves of earlier slots of the bundle (R212). -/
def State.moveConsumer (s : State) (h : BitVec 4) (c : Nat) : State :=
  let r := s.cur.ring h
  let core := coreOf s.issue.ctx
  let gone := ringLeaves (s.tile core) r (r.n + c) r.cc.toNat c
  let s := s.updCur (fun x => x.setRing h { r with cc := r.cc + BitVec.ofNat 32 c })
  let inR := s.cur.inRegion
  gone.foldl (fun s i => s.leaveConsumer core i inR) s

/-- A producer cursor moves by `c` lines (R212). -/
def State.moveProducer (s : State) (h : BitVec 4) (c : Nat) : State :=
  let r := s.cur.ring h
  let core := coreOf s.issue.ctx
  let gone := ringLeaves (s.tile core) r (r.n + c) r.pc.toNat c
  let s := s.updCur (fun x => x.setRing h { r with pc := r.pc + BitVec.ofNat 32 c })
  gone.foldl (fun s i => s.updTile core i TileEnt.leaveProducer) s

/-! ### PUSH (R187 to R190, R195) -/

/-- The B latch is written; a MAC may use it after `lat` cycles (R184). -/
def State.putLatch (s : State) (l : Latch) (lat : Nat) : State :=
  let now := s.now s.issue.ctx
  s.updCur (fun c => ({ c with latch := some l }).avail keyLatch now lat)

/-- Columns of a dense unit: 384 bytes each. -/
def denseCols (u : Nat) : List Nat := (List.range 8).map (fun c => el 3072 u c)

/-- Index of the first generator record of a unit that is not well formed. -/
def badRecord (u : Nat) : Option Nat := (List.range 48).find? (fun i => !recOk (el 64 u i))

/-- The latched columns of 48 generator records (R195). -/
def genCols (u bfmt : Nat) : List Nat :=
  (List.range 8).map (fun c =>
    packEl (elemBits bfmt) ((List.range 6).flatMap (fun b => genExpand (el 64 u (6 * c + b)) bfmt)))

/-- The 768-byte metadata word at an address, read as a load of its six lines that the L2 serves, as the word is to be coherent:
it waits for a word of another package's memory, and a budget may hold it (R189, R396, R402). -/
def State.metaWord (s : State) (va : Nat) (k : Nat → State → State) : State :=
  s.loadBy .l2 ((List.range 6).map (fun i => ((va + 128 * i) % 2 ^ 60, 128))) (fun vs _ s => k (packEl 1024 vs) s)

/-- Number of set bits of a 16-bit mask. -/
def popc16 (v : Nat) : Nat := ((List.range 16).filter (fun i => bit v i)).length

/-- Index of the first metadata mask whose count is not `n` (R190). -/
def badMask (w n : Nat) : Option Nat := (List.range 384).find? (fun i => popc16 (el 16 w i) ≠ n)

/-- A sparse column: each kept position takes the next kept byte, in ascending position (R190). -/
def spreadKept (kept mask : Nat) : Nat → Nat → Nat → Nat
  | 0, _, _ => 0
  | f + 1, pos, m =>
    if bit mask pos then el 8 kept m + 256 * spreadKept kept mask f (pos + 1) (m + 1)
    else 256 * spreadKept kept mask f (pos + 1) m

/-- Kept masks of 768 bits, and columns of 768 dense bytes (R190). -/
def sparseCols (u w : Nat) : List Nat × List Nat :=
  let masks := (List.range 8).map (fun c => el 768 w c)
  (masks.mapIdx (fun c m => spreadKept (el 3072 u c) m 768 0 0), masks)

/-- A PUSH of generator records (R195). -/
def pushGen (o : BeatOp) (m : BeatFmt) (a : Nat) (s : State) : State :=
  let u := s.curCore.spRead a 384
  if !(m.bfmt == 3 || m.bfmt == 4 || m.bfmt == 6) || m.sp != 0 || m.kb != 12 then s.fault .formatMismatch
  else if s.pastFill o 3 then s.fault .ringMisuse
  else match badRecord u with
    | some i => s.faultAt .formatMismatch (Config.recordName (a + 8 * i)).toNat
    | none =>
      s.countLines a 3 (fun s =>
        let s := s.putLatch ⟨genCols u m.bfmt, [], m.bfmt, 0⟩ 8
        if o.adv = 1 then s.moveConsumer o.ring 3 else s)

/-- A dense or sparse PUSH (R187, R189, R190). A sparse one leaves `ctx.mpc` 768 past its value from before the bundle, even
where an `mtsr` of the bundle has written it: X is the last slot (assumption log 87). -/
def pushUnit (o : BeatOp) (m : BeatFmt) (a : Nat) (s : State) : State :=
  let u := s.curCore.spRead a 3072
  let fin (l : Latch) (s : State) : State :=
    s.countLines a 24 (fun s =>
      let s := s.putLatch l 1
      if o.adv = 1 then s.moveConsumer o.ring 24 else s)
  if s.pastFill o 24 then s.fault .ringMisuse
  else if m.sp = 0 then fin ⟨denseCols u, [], m.bfmt, 0⟩ s
  else
    let mpc := s.pre.mpc.toNat
    if mpc % 128 ≠ 0 then s.faultAt .misaligned mpc
    else
      s.metaWord mpc (fun w s =>
        match badMask w (if m.sp = 1 then 4 else 8) with
        | some i => s.faultAt .sparseMeta (mpc + 2 * i)
        | none =>
          let (cols, kept) := sparseCols u w
          fin ⟨cols, kept, m.bfmt, m.sp⟩ (s.updCur (fun c => { c with mpc := s.pre.mpc + 768 })))

def execPush (o : BeatOp) (s : State) : Out :=
  let m := s.beatFmt o.mft
  .next (match m.check .push with
    | some c => s.fault c
    | none =>
      let r := s.pre.ring o.ring
      let gen := match ringAt s.preTile r r.cc.toNat with
        | some (slot, _) => (s.preTile slot).fmt == 11
        | none => false
      match s.takeUnit o.ring 1 (if gen then 3 else 24) with
      | .wait => s.stall
      | .fault f => s.fail f
      | .unit slot a =>
        match (s.preTile slot).stated m.blay m.bfmt gen with
        | some c => s.fault c
        | none => if gen then pushGen o m a s else pushUnit o m a s)

/-! ### MAC (R191, R81, R83) -/

/-- Row `r` of an A unit in plain order: SWZ permutes its 16-byte pieces (R209). -/
def unitRow (u rowBytes : Nat) (swz : Bool) (r : Nat) : Nat :=
  let row := el (8 * rowBytes) u r
  if swz then packEl 128 ((List.range (rowBytes / 16)).map (fun q => el 128 row (q ^^^ r))) else row

/-- The scale code of element `k` of row or column `r` (R180); none without a scale. -/
def scaleCode (c : Ctx) (mode base bpr r k : Nat) : Option Nat :=
  match mode with
  | 1 =>
    let j := r * bpr + k / 32
    some (el 8 (c.e (BitVec.ofNat 4 (base + j / 64))).toNat (j % 64))
  | 2 => some (el 8 (c.e (BitVec.ofNat 4 base)).toNat r)
  | _ => none

/-- A floating element under its scale (R81): NaN under the code 0xFF. -/
def scaledEl (fmt v : Nat) (code : Option Nat) : FV :=
  let x := ((ffmtOf fmt).getD fmtF32).decode v
  match code with
  | some c => scaledFV c x
  | none => x

/-- The exact truncated sum of R81 over nonzero finite terms: a multiple of 2^q, and whether a nonzero bit was
dropped. -/
def truncSum (q : Int) : List FV → Int × Bool
  | [] => (0, false)
  | t :: r =>
    let (s, d) := truncSum q r
    match t with
    | .fin neg m e =>
      let (n, den) := scaleFrac m 1 (e - q)
      let v : Int := ((n / den : Nat) : Int)
      (s + (if neg then -v else v), d || n % den != 0)
    | _ => (s, d)

/-- floor(log2 |t|) of a nonzero finite term. -/
def termExp : FV → Option Int
  | .fin _ m e => if m = 0 then none else some ((Nat.log2 m : Int) + e)
  | _ => none

/-- `acc_update` of R81 for one floating cell: `c` and the products, with the events of the products. -/
def accFloat (c : Nat) (terms : List (FV × Flags)) : Nat × Flags :=
  let fl := terms.foldl (fun f t => f ||| t.2) fNone
  let ts := fmtF32.decode c :: terms.map Prod.fst
  if ts.any FV.isNan then (0x7FC00000, fl)
  else
    let pos := ts.any (fun t => decide (t = FV.inf false))
    let neg := ts.any (fun t => decide (t = FV.inf true))
    if pos && neg then (0x7FC00000, fl ||| fInv)
    else if pos then (0x7F800000, fl)
    else if neg then (0xFF800000, fl)
    else match ts.filterMap termExp with
      | [] => (0, fl)
      | e :: r =>
        let q := r.foldl (fun a b => if a < b then b else a) e - 36
        let (sum, drop) := truncSum q ts
        let (v, f) := roundEx fmtF32 false false (decide (sum < 0)) sum.natAbs 1 q
        let tiny : Bool := drop && sum != 0 && decide (v / 2 ^ 23 % 256 = 0)
        (v, fl ||| f ||| (if drop then fNx else fNone) ||| (if tiny then fUf else fNone))

/-- `acc_update` of R83 for one integer cell. -/
def accInt (c : Nat) (sum : Int) : Nat × Flags :=
  let v := sextInt c 32 + sum
  let w := clampInt v (-(2 : Int) ^ 31) ((2 : Int) ^ 31 - 1)
  (wrapInt 32 w, if w = v then fNone else fOv)

/-- Dense positions of the first K bytes that column `c` keeps (R190, R191): all of them when dense; for
4-bit elements a mask bit stands for a pair. -/
def keptEls (l : Latch) (n w c : Nat) : List Nat :=
  match l.kept[c]? with
  | none => List.range n
  | some m => (List.range n).filter (fun k => bit m (k * w / 8))

/-- The new bank of a MAC (R191). -/
def macBank (x : Ctx) (m : BeatFmt) (l : Latch) (u : Nat) (swz : Bool) (bank : Nat) : Nat × Flags :=
  let kbytes := if m.sp = 0 then 32 * m.kb else 768
  let rowBytes := if m.sp = 0 then 384 else 768
  let wa := elemBits m.afmt
  let wb := elemBits m.bfmt
  let n := kbytes * 8 / wa
  let fl := match pairRow m.afmt m.bfmt with
    | some (f, _) => f
    | none => true
  let kept := (List.range 8).map (fun c => keptEls l n wb c)
  let cells (r : Nat) : List (Nat × Flags) :=
    let row := unitRow u rowBytes swz r
    (List.range 8).map (fun c =>
      let col := l.cols.getD c 0
      let ks := kept.getD c []
      let old := el 32 bank (8 * r + c)
      if fl then
        accFloat old (ks.map (fun k =>
          mulFV (scaledEl m.afmt (el wa row k) (scaleCode x m.asm_ m.asb (blocksPer m.afmt m.sp) r k))
            (scaledEl m.bfmt (el wb col k) (scaleCode x m.bsm m.bsb (blocksPer m.bfmt m.sp) c k))))
      else
        let val (f v : Nat) : Int := ((ifmtOf f).getD ⟨8, true⟩).value v
        accInt old (ks.foldl (fun a k => a + val m.afmt (el wa row k) * val m.bfmt (el wb col k)) 0))
  let all := (List.range 8).flatMap cells
  (packEl 32 (all.map Prod.fst), all.foldl (fun f c => f ||| c.2) fNone)

/-- Writes a bank; a DRAIN of it is ready after `lat` cycles (R184). -/
def State.putBank (s : State) (b : BitVec 2) (v : Nat) (lat : Nat) : State :=
  let now := s.now s.issue.ctx
  s.updCur (fun c => (c.setBank b (BitVec.ofNat 2048 v)).avail (keyA b) now lat)

def execMac (o : BeatOp) (s : State) : Out :=
  let m := s.beatFmt o.mft
  let k := if m.sp = 0 then 24 else 48
  .next (match m.check .mac with
    | some c => s.fault c
    | none =>
      match s.takeUnit o.ring 0 k with
      | .wait => s.stall
      | .fault f => s.fail f
      | .unit slot a =>
        let t := s.preTile slot
        match t.stated m.alay m.afmt false with
        | some c => s.fault c
        | none =>
          match s.pre.latch with
          | none => s.fault .ringMisuse
          | some l =>
            if l.bfmt ≠ m.bfmt ∨ l.sp ≠ m.sp then s.fault .formatMismatch
            else if s.pastFill o k then s.fault .ringMisuse
            else s.countLines a k (fun s =>
              let r := macBank s.pre m l (s.curCore.spRead a (128 * k)) (t.layout == 6)
                (s.pre.bank o.bank).toNat
              let s := (s.putBank o.bank r.1 6).raise r.2
              if o.adv = 1 then s.moveConsumer o.ring k else s))

/-! ### DRAIN (R192, R193) -/

/-- The chunk of a bank in the output format (R192, R84), zero past its 64 elements. -/
def drainChunk (m : BeatFmt) (bank : Nat) : Nat × Flags :=
  let src : Nat := match pairRow m.afmt m.bfmt with
    | some (false, _) => 10
    | _ => 0
  let cells := (List.range 64).map (fun i =>
    if m.ofmt = 10 then (el 32 bank i, fNone) else convert src m.ofmt false m.osat (el 32 bank i))
  (packEl (elemBits m.ofmt) (cells.map Prod.fst), cells.foldl (fun f c => f ||| c.2) fNone)

/-- A DRAIN's chunk is on its way into the scratchpad; it lands at the end of cycle +9 (R184). A slot that a `padv` of the
bundle has left is DRAINING until then: the events of a cycle take effect in the order of Table 3 (R205). -/
def State.putDrain (s : State) (slot a chunk : Nat) : State :=
  let now := s.now s.issue.ctx
  let s := s.updCurCore (fun c => { c with writes := c.writes ++ [⟨now + 9, 0, a, 256, chunk, some slot⟩] })
  s.updTile (coreOf s.issue.ctx) slot (fun t =>
    if t.state = .empty then { t with state := .filling, fill := none, drains := t.drains + 1 }
    else { t with state := if t.state = .ready then .draining else t.state, drains := t.drains + 1 })

/-- The slot and address of the chunk at a producer cursor. -/
def State.producerSpan (s : State) (h : BitVec 4) : Option (Nat × Nat) :=
  let r := s.pre.ring h
  if r.n = 0 then none
  else match ringAt s.preTile r r.pc.toNat with
    | none => none
    | some (slot, o) =>
      if (s.preTile slot).lines.toNat < o + 2 then none
      else some (slot, (s.preTile slot).byteBase + 128 * o)

/-- DRAIN (R192): a slot that an engine fill holds is refused before the ring's room is looked at. A chunk that would take the
fill level past the ring's length waits, whatever the slot's state, as where the slot is READY (R182, R210); one whose adv
would do so only after a `padv` of its bundle raises `RING_MISUSE`, as that `padv` would (R212; assumption log 86). -/
def execDrain (o : BeatOp) (s : State) : Out :=
  let m := s.beatFmt o.mft
  .next (match m.check .drain with
    | some c => s.fault c
    | none =>
      match s.producerSpan o.ring with
      | none => s.fault .ringMisuse
      | some (slot, a) =>
        let t := s.preTile slot
        let r := s.pre.ring o.ring
        if t.state = .ready ∨ t.state = .draining then s.stall
        else if t.inflight then s.fault .ringMisuse
        else if ringLen s.preTile r < r.fill + 2 then s.stall
        else if o.adv == 1 && decide (ringLen s.preTile r < (s.cur.ring o.ring).fill + 2) then s.fault .ringMisuse
        else match t.stated m.alay m.ofmt false with
          | some c => s.fault c
          | none =>
            let d := drainChunk m (s.pre.bank o.bank).toNat
            let s := ((s.putDrain slot a d.1).putBank o.bank 0 1).raise d.2
            if o.adv = 1 then s.moveProducer o.ring 2 else s)

/-- `drain h15` (R193): of the entry only the reserved bits are checked; a set adv bit is refused at decode. -/
def execDrainDiscard (o : DiscardOp) (s : State) : Out :=
  .next (if (s.beatFmt o.mft).rsv ≠ 0 then s.fault .reservedField else s.putBank o.bank 0 1)

/-! ### Scale loads (R215) -/

/-- 64 bytes reach a scale register once the load is complete: they are read as a ring operand at issue, and
readable from the fourth cycle after it (R215). -/
def loadScale (o : SclOp) (slot a : Nat) (s : State) : State :=
  match s.slotReady slot with
  | .error none => s.stall
  | .error (some f) => s.fail f
  | .ok _ =>
    if (s.preTile slot).badChunk then s.fault .formatMismatch
    else if s.scattering (linesAt (a / 128 * 128) 1) then s.stall
    else s.countLines (a / 128 * 128) 1 (fun s =>
      let now := s.now s.issue.ctx
      s.updCur (fun c => { c with
        scl := c.scl ++ [(now + 3, o.e.toNat, BitVec.ofNat 512 (s.curCore.spRead a 64))] }))

/-- `scl`: the offset counts from the consumer cursor. -/
def execScl (o : SclOp) (s : State) : Out :=
  let off := 64 * o.off.toNat
  .next (match s.ringSpan o.h (off / 128) 1 with
    | .error f => s.fail f
    | .ok (slot, a) => loadScale o slot (a + off % 128) s)

/-- `scl.tile`: the offset counts from the start of the slot at the cursor. -/
def execSclTile (o : SclOp) (s : State) : Out :=
  let off := 64 * o.off.toNat
  let r := s.pre.ring o.h
  .next (match (if r.n = 0 then none else ringAt s.preTile r r.cc.toNat) with
    | none => s.fault .ringMisuse
    | some (slot, _) =>
      let t := s.preTile slot
      if t.bytes < off + 64 then s.fault .ringMisuse else loadScale o slot (t.byteBase + off) s)

end Sys2Proof.Machine
end

