-- ==== Sys2Proof/Machine/Transfers.lean ====
section
/-! DEFINITION. The transfer units and `hctld` (R38, R279 to R283). -/

namespace Sys2Proof.Machine

/-! ### A transfer as its registers describe it (R267, R283) -/

/-- The source and destination bases, pattern and modes of a transfer. `src` and `dst` are byte addresses, or
offsets into the scratchpad; `dims` are (count, source stride, destination stride), dimension 0 first. -/
structure Xfer where
  pad : Bool
  src : Int
  kind : Nat
  dst : Int
  ring : Nat
  esz : Nat
  layout : Nat
  rw : Bool
  bfx : Bool
  bpn : Bool
  dims : List (Nat × Int × Int)
  deriving DecidableEq, Repr

def Cmd.xfer (k : Cmd) : Xfer :=
  let s := k.reg 0x008
  let d := k.reg 0x009
  let c := k.reg 0x00A
  let pad := bit s 63
  let kind := bits d 63 62
  { pad := pad,
    src := if pad then (bits s 59 0 + k.r1.toNat : Nat) else ((bits s 59 0 + k.r1.toNat) % 2 ^ 60 : Nat),
    kind := kind,
    dst := if kind = 0 then ((bits d 59 0 + k.r2.toNat) % 2 ^ 60 : Nat)
      else if kind = 1 then (bits d 59 0 + k.r2.toNat : Nat) else 0,
    ring := bits d 3 0, esz := 2 ^ bits c 2 0, layout := bits c 5 3, rw := bit c 10, bfx := bit c 8,
    bpn := bit c 9,
    dims := (List.range (bits c 7 6 + 1)).map (fun i =>
      (bits (k.reg (0x010 + 4 * i)) 31 0, sextInt (k.reg (0x011 + 4 * i)) 48,
        sextInt (k.reg (0x012 + 4 * i)) 48)) }

/-- Elements of the pattern. -/
def Xfer.count (x : Xfer) : Nat := (x.dims.map Prod.fst).foldl (· * ·) 1

/-- Source and destination offsets of the elements, i0 fastest (R279). -/
def offsets : List (Nat × Int × Int) → List (Int × Int)
  | [] => [(0, 0)]
  | (n, a, b) :: r =>
    (offsets r).flatMap (fun o => (List.range n).map (fun (i : Nat) => (o.1 + i * a, o.2 + i * b)))

def Xfer.elems (x : Xfer) : List (Int × Int) := offsets x.dims

/-- Least and greatest offset along one side. -/
def sideMin (l : List (Nat × Int)) : Int := l.foldl (fun a p => a + min 0 ((p.1 - 1 : Int) * p.2)) 0
def sideMax (l : List (Nat × Int)) : Int := l.foldl (fun a p => a + max 0 ((p.1 - 1 : Int) * p.2)) 0

def Xfer.srcSide (x : Xfer) : List (Nat × Int) := x.dims.map (fun d => (d.1, d.2.1))
def Xfer.dstSide (x : Xfer) : List (Nat × Int) := x.dims.map (fun d => (d.1, d.2.2))

/-! ### Bit-field extraction and plane expansion (R281, R282) -/

/-- Planes that `bpn` reads: the field of three bits names eight as 0, as R72 and R282 admit 2 to 8 (assumption log 76). -/
def Cmd.planes (k : Cmd) : Nat := let n := bits (k.reg 0x020) 18 16; if n = 0 then 8 else n
def Cmd.period (k : Cmd) : Nat := bits (k.reg 0x020) 6 0 + 1
def Cmd.fieldCount (k : Cmd) : Nat := bits (k.reg 0x020) 11 8 + 1
def Cmd.outSize (k : Cmd) : Nat := 2 ^ bits (k.reg 0x020) 14 12
def Cmd.planeStride (k : Cmd) : Nat := bits (k.reg 0x021) 47 0

/-- One output element of a period (R281): field `f` as its register describes it. -/
def fieldOut (period f osz : Nat) : Nat :=
  let o := bits f 6 0
  let w := bits f 10 7 + 1
  let v := bits period (o + w - 1) o
  let v : Int := if bit f 11 then sextInt v w else (v : Int)
  ((v * 2 ^ bits f 15 12) % (2 : Int) ^ (8 * osz)).toNat

/-- The outputs of `bfx` from `n` periods of a bit string. -/
def Cmd.bfxOut (k : Cmd) (s n : Nat) : List Nat :=
  (List.range n).flatMap (fun j => (List.range k.fieldCount).map (fun i =>
    fieldOut (s / 2 ^ (k.period * j) % 2 ^ k.period) (k.reg (0x030 + i)) k.outSize))

/-- The byte of `bpn` for bit `i` of the planes, plane 0 first (R282). -/
def planeByte (ps : List Nat) (i : Nat) : Nat :=
  let v := ps.foldl (fun a p => 2 * a + p / 2 ^ i % 2) 0
  ((sextInt v ps.length * 2 ^ (8 - ps.length)) % 256).toNat

/-- Bytes that the transfer writes. -/
def Cmd.outBytes (k : Cmd) : Nat :=
  let x := k.xfer
  let n := x.count * x.esz
  if x.bfx then 8 * n / k.period * k.fieldCount * k.outSize
  else if x.bpn then 8 * n else n

/-! ### Checks at issue -/

/-- Reserved bits and invalid codes of the registers read (R268), and rs2 for a ring (R283). That a scratchpad destination has bits
[59:20] zero, as Table 1 of R267 demands of a scratchpad source, is the model's choice (assumption log 95). -/
def Cmd.xferReserved (k : Cmd) (rs2 : BitVec 6) : Bool :=
  let s := k.reg 0x008
  let d := k.reg 0x009
  let c := k.reg 0x00A
  let b := k.reg 0x020
  let nd := bits c 7 6 + 1
  decide (bits s 62 60 ≠ 0) || (bit s 63 && decide (bits s 59 20 ≠ 0)) || decide (bits d 61 60 ≠ 0) ||
    decide (bits d 63 62 = 3) || (decide (bits d 63 62 = 1) && decide (bits d 59 20 ≠ 0)) ||
    (decide (bits d 63 62 = 2) && (decide (bits d 59 4 ≠ 0) || rs2 != 0)) || decide (bits c 63 11 ≠ 0) ||
    decide (4 < bits c 2 0) || decide (bits c 5 3 = 7) || (bit c 10 && decide (bits c 5 3 ≠ 6)) ||
    (List.range nd).any (fun i => decide (bits (k.reg (0x010 + 4 * i)) 63 32 ≠ 0) ||
      decide (bits (k.reg (0x011 + 4 * i)) 63 48 ≠ 0) || decide (bits (k.reg (0x012 + 4 * i)) 63 48 ≠ 0)) ||
    ((bit c 8 || bit c 9) &&
      (decide (bits b 63 19 ≠ 0) || bit b 15 || bit b 7 || decide (2 < bits b 14 12))) ||
    (bit c 8 && (decide (k.period % 8 ≠ 0) ||
      (List.range k.fieldCount).any (fun i => decide (bits (k.reg (0x030 + i)) 63 16 ≠ 0)))) ||
    (bit c 9 && decide (bits (k.reg 0x021) 63 48 ≠ 0))

/-- Bases and used strides are multiples of the element size (R279). -/
def Xfer.misaligned (x : Xfer) : Option Nat :=
  let bad (v : Int) : Bool := v % x.esz != 0
  if bad x.src then some x.src.toNat
  else if bad x.dst then some x.dst.toNat
  else if x.dims.any (fun d => bad d.2.1 || bad d.2.2) then some x.src.toNat
  else none

/-- A side that lies in the scratchpad stays within it (R280); an empty pattern reads and writes nothing. -/
def Cmd.padRange (k : Cmd) : Bool :=
  let x := k.xfer
  let extra := if x.bpn then k.planeStride * (k.planes - 1) else 0
  let inside (lo hi : Int) : Bool := decide (0 ≤ lo) && decide (hi ≤ 2 ^ 20)
  x.count == 0 ||
    ((!x.pad || inside (x.src + sideMin x.srcSide) (x.src + sideMax x.srcSide + x.esz + extra)) &&
      (x.kind != 1 ||
        (if x.bfx || x.bpn then inside x.dst (x.dst + k.outBytes)
        else inside (x.dst + sideMin x.dstSide) (x.dst + sideMax x.dstSide + x.esz))))

/-- Marks bytes `b` to `b + n - 1` of a set of `size` bytes; none where one lies outside it or is marked. -/
def markBytes (size : Nat) : Nat → Int → Nat → Option Nat
  | 0, _, m => some m
  | n + 1, b, m =>
    if b < 0 ∨ (size : Int) ≤ b ∨ m.testBit b.toNat then none
    else markBytes size n (b + 1) (m + 2 ^ b.toNat)

/-- Every element marks its own bytes. -/
def markAll (size esz : Nat) : List (Int × Int) → Nat → Bool
  | [], _ => true
  | o :: r, m =>
    match markBytes size esz o.2 m with
    | none => false
    | some m => markAll size esz r m

/-- The pattern writes every byte of `size` exactly once (R280). -/
def Cmd.covers (k : Cmd) (size : Nat) : Bool :=
  let x := k.xfer
  k.outBytes == size && (x.bfx || x.bpn || markAll size x.esz x.elems 0)

/-- The slot that a fill of a ring arms, where Pc stands at its start and it is EMPTY (R211, R280); one that would push the fill
level past the ring's length (R210) counts as not to be filled, which R280 does not list (assumption log 95). -/
def State.fillSlot (s : State) (h : BitVec 4) : Option Nat :=
  let r := s.pre.ring h
  if r.n = 0 then none
  else match ringAt s.preTile r r.pc.toNat with
    | some (slot, 0) =>
      let t := s.preTile slot
      if t.state = .empty ∧ r.fill + t.lines.toNat ≤ ringLen s.preTile r then some slot else none
    | _ => none

/-- The checks of R279 to R282, in order, after those of R268. -/
def State.xferCheck (s : State) (k : Cmd) : Except (Code × Nat) (Option Nat) :=
  let x := k.xfer
  match x.misaligned with
  | some a => .error (.misaligned, a)
  | none =>
    if !k.padRange then .error (.permission, 0)
    else
      let slot := if x.kind = 2 then s.fillSlot (BitVec.ofNat 4 x.ring) else none
      let t := match slot with
        | some i => s.preTile i
        | none => TileEnt.reset
      if x.kind = 2 ∧ (slot.isNone ∨ !k.covers t.bytes) then .error (.ringMisuse, 0)
      else if x.kind = 2 ∧ x.layout ≠ 0 ∧ x.layout ≠ t.layout.toNat then .error (.layoutMismatch, 0)
      else if x.bfx && (decide (8 * (x.count * x.esz) % k.period ≠ 0) ||
          (List.range k.fieldCount).any (fun i =>
            let f := k.reg (0x030 + i)
            decide (k.period < bits f 6 0 + bits f 10 7 + 1)) ||
          x.dims.any (fun d => d.2.2 != 0)) then .error (.reservedField, 0)
      else if x.bfx && decide (x.kind = 2) && t.badChunk then .error (.formatMismatch, 0)
      else if x.bpn && (x.bfx || decide (k.outSize ≠ 1)) then .error (.reservedField, 0)
      else if x.bpn && decide (k.planes < 2) then .error (.formatMismatch, 0)
      else .ok slot

/-- A fill is accepted: the slot becomes FILLING with the fill in flight, and Pc moves to its end (R280). -/
def State.armSlot (s : State) (h : BitVec 4) (slot : Nat) (k : Cmd) : State :=
  let n := (s.tile (coreOf k.ctx) slot).lines.toNat
  let s := s.updTile (coreOf k.ctx) slot (fun t => { t with
    state := .filling, inflight := true, cid := k.cid, fill := some k, faulted := false, fcode := 0 })
  s.updCtx k.ctx (fun c => c.setRing h { c.ring h with pc := (c.ring h).pc + BitVec.ofNat 32 n })

/-- `xfer` on a queue (R283). -/
def issueXfer (q : Nat) (o : EngOp) (s : State) : State :=
  command s (fun s =>
    let k := s.newCmd (.xfer q) (bits (s.pre.engReg 0x009).toNat 63 62 == 0) o.ord (s.pre.x o.rs1)
      (s.pre.x o.rs2)
    if k.xferReserved o.rs2 then s.fault .reservedField
    else match s.xferCheck k with
      | .error (c, a) => s.faultAt c a
      | .ok slot =>
        s.submit k o.pm (fun k s =>
          match slot with
          | none => (k, s)
          | some i =>
            let k := { k with slot := some i }
            (k, s.armSlot (BitVec.ofNat 4 k.xfer.ring) i k)))

def execXfer (o : EngOp) (s : State) : Out := guarded o.g (issueXfer 0 o) s
def execXferQ1 (o : EngOp) (s : State) : Out := guarded o.g (issueXfer 1 o) s

/-! ### The transfer itself (R279) -/

/-- emask bit of a transfer unit (R219). -/
def Cmd.unit (k : Cmd) : Nat :=
  match k.kind with
  | .xfer q => 8 + q
  | _ => 12

/-- The address of an offset on a device side. -/
def devAddr (base off : Int) : Nat := ((base + off) % (2 : Int) ^ 60).toNat

/-- Reads `n` bytes at an offset of the source. -/
def State.xferRead (s : State) (k : Cmd) (x : Xfer) (off : Int) (n : Nat) : Except (Code × Nat) Nat × State :=
  if x.pad then (.ok (cellsRead (s.core k.core).scratch 20 (x.src + off).toNat n), s)
  else s.engRead k.pen k.unit (.cluster (k.core / 16)) 3 (devAddr x.src off) n

/-- Where byte `o` of an AROW stream stands in a SWZ slot of `size` bytes with rows of `rl` bytes (R209, R280). -/
def swizzle (size rl o : Nat) : Nat :=
  if size / rl * rl ≤ o then o
  else rl * (o / rl) + 16 * (o % rl / 16 ^^^ o / rl % 8) + o % 16

/-- Writes bytes into the scratchpad of a core. -/
def State.padPut (s : State) (core a n v : Nat) : State :=
  s.updCore core (fun c => { c with scratch := cellsWrite c.scratch 20 a n v })

/-- The bytes `v` of a ring fill, each at its place. -/
def State.slotPut (s : State) (k : Cmd) (x : Xfer) (slot : Nat) : Nat → Nat → Nat → State
  | _, 0, _ => s
  | o, n + 1, v =>
    let t := s.tile k.core slot
    let at_ := if x.layout = 6 then swizzle t.bytes (if x.rw then 768 else 384) o else o
    (s.padPut k.core (t.byteBase + at_) 1 (v % 256)).slotPut k x slot (o + 1) n (v / 256)

/-- Writes `n` bytes at an offset of the destination; one in the scratchpad is seen while the command lives. -/
def State.xferWrite (s : State) (k : Cmd) (x : Xfer) (off : Int) (n v : Nat) :
    Except (Code × Nat) Unit × State :=
  match x.kind with
  | 0 => s.engWrite k.pen k.unit (.cluster (k.core / 16)) 3 (devAddr x.dst off) n v
  | 1 => (.ok (), if s.lives k then s.padPut k.core (x.dst + off).toNat n v else s)
  | _ =>
    match k.slot with
    | some i =>
      (.ok (), if s.lives k && (s.tile k.core i).cid == k.cid then s.slotPut k x i off.toNat n v else s)
    | none => (.ok (), s)

/-- Byte ranges [a, a + n) and [b, b + m) meet. -/
def rangesMeet (a : Int) (n : Nat) (b : Int) (m : Nat) : Bool := decide (a < b + m) && decide (b < a + n)

/-- Some byte that the pattern reads is one that it writes (R279): both in one address space. -/
def State.xferOverlap (s : State) (k : Cmd) (x : Xfer) : Bool :=
  let dst := match x.kind, k.slot with
    | 2, some i => ((s.tile k.core i).byteBase : Int)
    | _, _ => x.dst
  let same := if x.pad then decide (x.kind ≠ 0) else decide (x.kind = 0)
  let one := x.bfx || x.bpn
  let dlo := if one then dst else dst + sideMin x.dstSide
  let dn := if one then k.outBytes else (sideMax x.dstSide - sideMin x.dstSide).toNat + x.esz
  let planes := if x.bpn then k.planes else 1
  let slo := x.src + sideMin x.srcSide
  let sn := (sideMax x.srcSide - sideMin x.srcSide).toNat + x.esz + (planes - 1) * k.planeStride
  same && rangesMeet slo sn dlo dn &&
    x.elems.any (fun a => (List.range planes).any (fun (j : Nat) =>
      let at_ := x.src + a.1 + j * k.planeStride
      if one then rangesMeet at_ x.esz dst k.outBytes
      else x.elems.any (fun b => rangesMeet at_ x.esz (dst + b.2) x.esz)))

/-- Distinct 64 KiB pages that fault among some accesses, as the tables stand (R232). -/
def State.badPages (s : State) (pen unit : Nat) (via : Via) (l : List (Nat × Bool)) : Nat :=
  let bad := l.filter (fun a => match (s.xlate (engAccess pen unit via a.2) a.1).1 with
    | .error _ => true
    | .ok _ => false)
  ((bad.map (fun a => a.1 / 2 ^ 16)).dedup).length

/-- Where `n` bytes from `va` meet pages: `va` itself, and the starts of the pages that follow. -/
def pageStarts (va n : Nat) : List Nat :=
  (List.range ((va + n + 2 ^ 16 - 1) / 2 ^ 16 - va / 2 ^ 16)).map (fun i => if i = 0 then va else (va / 2 ^ 16 + i) * 2 ^ 16)

/-- How far a run has come: done, held by budgets with so many accesses of its next step admitted, or failed. -/
inductive Pause where
  | done
  | held (paid : Nat)
  | failed (f : FailAt)
  deriving DecidableEq, Repr

/-- Device accesses that some elements of a plain transfer make. -/
def Xfer.reaches (x : Xfer) (l : List (Int × Int)) : List (Nat × Bool) :=
  l.flatMap (fun o =>
    (if x.pad then [] else [(devAddr x.src o.1, false)]) ++ (if x.kind = 0 then [(devAddr x.dst o.2, true)] else []))

/-- Device accesses that write outputs `i` up to `n` of `osz` bytes (R281, R282). -/
def Xfer.outReaches (x : Xfer) (osz i n : Nat) : List (Nat × Bool) :=
  if x.kind = 0 then (List.range (n - i)).map (fun j => (devAddr x.dst ((i + j) * osz : Nat), true)) else []

/-- A failure, with the elements not done and the pages that fault among the accesses left (R231, R232). -/
def State.xferFail (s : State) (k : Cmd) (e : Code × Nat) (left : Nat) (l : List (Nat × Bool)) : FailAt :=
  ⟨e.1.num, e.2, left, Nat.max 1 (s.badPages k.pen k.unit (.cluster (k.core / 16)) l)⟩

/-- One element moves (R279). Where source and destination overlap the bytes are free values. -/
def State.moveElem (s : State) (k : Cmd) (x : Xfer) (free : Bool) (o : Int × Int) : Except (Code × Nat) Unit × State :=
  let (v, s) := s.xferRead k x o.1 x.esz
  match v with
  | .error e => (.error e, s)
  | .ok v =>
    let (v, s) := if free then s.freeBytes x.esz else (v, s)
    s.xferWrite k x o.2 x.esz v

/-- Elements move in pattern order (R279), each once budgets have admitted its accesses, `paid` of the first before; answers
what ended the run, the elements moved and the state. -/
def State.moveElems (s : State) (k : Cmd) (x : Xfer) (free : Bool) :
    List (Int × Int) → Nat → Nat → Pause × Nat × State
  | [], n, _ => (.done, n, s)
  | o :: r, n, paid =>
    match s.metered 0 0 true paid (fun s => s.moveElem k x free o) with
    | (.error p, s) => (.held p, n, s)
    | (.ok (.error e), s) => (.failed (s.xferFail k e (r.length + 1) (x.reaches (o :: r))), n, s)
    | (.ok (.ok _), s) => s.moveElems k x free r (n + 1) 0

/-- Source offsets of a bit-field transfer, plane 0 first (R281, R282). -/
def Cmd.sources (k : Cmd) : List Int :=
  let x := k.xfer
  (List.range (if x.bpn then k.planes else 1)).flatMap (fun j =>
    x.elems.map (fun o => o.1 + (j * k.planeStride : Nat)))

/-- Outputs of a transfer and the bytes of each. -/
def Cmd.outSizes (k : Cmd) : Nat × Nat :=
  let n := if k.xfer.bpn then 1 else k.outSize
  (k.outBytes / n, n)

/-- The source elements of a bit-field transfer are read in order, behind those of `got`. -/
def State.gatherElems (s : State) (k : Cmd) (x : Xfer) : List Int → List Nat → Nat → Pause × List Nat × State
  | [], got, _ => (.done, got, s)
  | o :: r, got, paid =>
    let here (l : List Int) : List (Nat × Bool) := if x.pad then [] else l.map (fun o => (devAddr x.src o, false))
    match s.metered 0 0 true paid (fun s => s.xferRead k x o x.esz) with
    | (.error p, s) => (.held p, got, s)
    | (.ok (.error e), s) =>
      let (n, osz) := k.outSizes
      (.failed (s.xferFail k e (r.length + 1) (here (o :: r) ++ x.outReaches osz 0 n)), got, s)
    | (.ok (.ok v), s) => s.gatherElems k x r (got ++ [v]) 0

/-- The bit strings of the planes, plane 0 first, from the elements read. -/
def Cmd.bitStrings (k : Cmd) : List Nat :=
  let x := k.xfer
  (List.range (if x.bpn then k.planes else 1)).map (fun j =>
    ofBytes (((k.got.drop (j * x.count)).take x.count).flatMap (bytesOf x.esz)))

/-- One output of `n` bytes is written. -/
def State.writeOut (s : State) (k : Cmd) (x : Xfer) (free : Bool) (n i v : Nat) : Except (Code × Nat) Unit × State :=
  let (v, s) := if free then s.freeBytes n else (v, s)
  s.xferWrite k x (i * n : Nat) n v

/-- Outputs of `n` bytes are written one after the other from the destination base. -/
def State.writeOuts (s : State) (k : Cmd) (x : Xfer) (free : Bool) (n : Nat) :
    List Nat → Nat → Nat → Pause × Nat × State
  | [], i, _ => (.done, i, s)
  | v :: r, i, paid =>
    match s.metered 0 0 true paid (fun s => s.writeOut k x free n i v) with
    | (.error p, s) => (.held p, i, s)
    | (.ok (.error e), s) => (.failed (s.xferFail k e (r.length + 1) (x.outReaches n i (i + r.length + 1))), i, s)
    | (.ok (.ok _), s) => s.writeOuts k x free n r (i + 1) 0

/-- The outputs of a bit-field transfer whose source has been read. -/
def Cmd.outs (k : Cmd) : List Nat :=
  let x := k.xfer
  let n := 8 * (x.count * x.esz)
  if x.bpn then (List.range n).map (planeByte k.bitStrings) else k.bfxOut (k.bitStrings.getD 0 0) (n / k.period)

/-- Runs a transfer from where it stands as far as budgets let it: how it ended, the bytes written, the command as it then
stands, and the state. -/
def State.runXfer (s : State) (k : Cmd) : Pause × Nat × Cmd × State :=
  let x := k.xfer
  let free := s.xferOverlap k x
  if x.count = 0 then (.done, 0, k, s)
  else if x.bfx || x.bpn then
    let left := k.sources.drop k.got.length
    let (p, got, s) := s.gatherElems k x left k.got k.paid
    let k := { k with got := got }
    match p with
    | .done =>
      let osz := k.outSizes.2
      let (p, m, s) := s.writeOuts k x free osz (k.outs.drop k.done) k.done (if left.isEmpty then k.paid else 0)
      (p, m * osz, { k with done := m }, s)
    | _ => (p, 0, k, s)
  else
    let (p, m, s) := s.moveElems k x free (x.elems.drop k.done) k.done k.paid
    (p, m * x.esz, { k with done := m }, s)

/-- The step of a unit that a budget holds waits (R396): the state notes it; none where nothing holds. -/
def State.heldBy (s : State) (kind sel : Nat) : Option State :=
  if s.budgetBlocked kind sel then some (s.budgetHold kind sel) else none

/-- A command whose work is done retires, or waits until the links have acknowledged what it has sent (R407): it stays
RUNNING with mark 1. -/
def State.concludeCmd (s : State) (k : Cmd) (progress : Nat) : State :=
  if s.sending k then s.updCmd k (fun c => { c with pos := 1, fail := some ⟨0, progress, 0, 0⟩ })
  else s.finishCmd k progress

/-- The acknowledgements of a command's sends have come. -/
def State.ackedCmd (s : State) (k : Cmd) : State :=
  s.finishCmd k (match k.fail with
    | some f => f.addr
    | none => 0)

/-- A transfer moves on, and ends once its elements have moved (R275). One whose sends await the links has moved them. -/
def State.retireXfer (s : State) (k : Cmd) : State :=
  if k.pos = 1 then s
  else
    let ((p, n, k'), s) := s.asCmd k (fun s => let r := s.runXfer k; ((r.1, r.2.1, r.2.2.1), r.2.2.2))
    match p with
    | .done => s.concludeCmd k n
    | .held p => s.updCmd k (fun c => { c with done := k'.done, got := k'.got, paid := p })
    | .failed f => s.failCmd k f false false n

/-- ENGINE_FILL_RETIRE (R205): a transfer into a ring slot. -/
def execEngineFillRetire (ctx cid : Nat) (s : State) : Out :=
  .next (match s.cmd ctx (BitVec.ofNat 16 cid) with
    | some k => match k.kind with
      | .xfer _ => if k.st = .running ∧ k.slot.isSome then s.retireXfer k else s
      | _ => s
    | none => s)

/-! ### `hctld` (R38) -/

/-- Index range of a load. -/
def Cmd.hctFirst (k : Cmd) : Nat := bits k.r2.toNat 8 0
def Cmd.hctCount (k : Cmd) : Nat := bits k.r2.toNat 25 16

/-- `hctld`: an immediate command; its entries become loading. -/
def issueHctld (o : EngOp) (s : State) : State :=
  command s (fun s =>
    let a := s.pre.x o.rs1
    let r := (s.pre.x o.rs2).toNat
    if a.toNat % 32 ≠ 0 then s.faultAt .misaligned (va60 a)
    else if bits r 25 16 = 0 ∨ 512 < bits r 8 0 + bits r 25 16 ∨ bits r 15 9 ≠ 0 ∨ bits r 63 26 ≠ 0 then
      s.fault .reservedField
    else
      s.submit (s.newCmd .hctld false o.ord a (s.pre.x o.rs2)) o.pm (fun k s =>
        (k, s.updCur (fun c =>
          (List.range k.hctCount).foldl (fun c i => c.setHct (k.hctFirst + i) .loading) c))))

def execHctld (o : EngOp) (s : State) : Out := guarded o.g (issueHctld o) s

/-- The word at an index of the load is read with the core's own permission. -/
def State.hctRead (s : State) (k : Cmd) (i : Nat) : Except Code HWord × State :=
  let a : Access := ⟨k.pen, true, false, false, none, some (k.core / 16), some k.core⟩
  let (r, s) := s.xlate a (va60 k.r1 + 32 * i)
  match r with
  | .error c => (.error c, s)
  | .ok t =>
    if s.elsewhere t.pa then
      let (v, s) := s.asCmd k (fun s => s.readAway t.pa 32)
      (.ok (BitVec.ofNat 256 v), s)
    else
      (.ok (BitVec.ofNat 256 (s.physRead t.pa 32)),
        s.touchLines (k.core / 16) k.pen t.cpol t.evp (s.home t.pa) 32)

/-- A load ends with a fault on its source: the entries that it has not written are unloaded, with the code (R38). -/
def State.hctStops (s : State) (k : Cmd) (code : Nat) : State :=
  let i := k.pos
  let idx := k.hctFirst + i
  (s.updTaskCtx k.task (fun c => (List.range (k.hctCount - i)).foldl
    (fun c j => c.setHct (idx + j) (.unloaded code)) c)).updCmd k (fun c =>
      { c with pos := k.hctCount, fail := some (c.fail.getD ⟨code, 0, idx, 0⟩) })

/-- The next word of a load arrives (R38): it is loaded, or its entry is left unloaded; a fault on the source
leaves the rest unloaded. The first failure gives the command's code and progress. -/
def State.hctArrival (s : State) (k : Cmd) : State :=
  let i := k.pos
  let idx := k.hctFirst + i
  let (r, s) := s.hctRead k i
  match r with
  | .ok w =>
    match decodeHcw w with
    | some _ =>
      (s.updTaskCtx k.task (fun c => c.setHct idx (.loaded w))).updCmd k (fun c => { c with pos := i + 1 })
    | none =>
      (s.updTaskCtx k.task (fun c => c.setHct idx (.unloaded Code.hctInvalid.num))).updCmd k (fun c =>
        { c with pos := i + 1, fail := some (c.fail.getD ⟨Code.hctInvalid.num, 0, idx, 0⟩) })
  | .error e => s.hctStops k e.num

/-- HCTLD_WORD_ARRIVAL (R38). -/
def execHctldWordArrival (ctx cid : Nat) (s : State) : Out :=
  .next (match s.cmd ctx (BitVec.ofNat 16 cid) with
    | some k =>
      if k.st = .running ∧ k.kind = .hctld ∧ k.pos < k.hctCount then s.paying k 0 0 (fun s => s.hctArrival k) else s
    | none => s)

/-- The end of a load. -/
def State.retireHctld (s : State) (k : Cmd) : State :=
  if k.pos < k.hctCount then s
  else match k.fail with
    | some f => s.retire k f.code false 5 f.extent
    | none => s.finishCmd k k.hctCount

end Sys2Proof.Machine
end

