-- ==== Sys2Proof/Machine/Transform.lean ====
section
/-! DEFINITION. The transform unit (R286 to R288). -/

namespace Sys2Proof.Machine

/-! ### Ports (Table 5 of R286) -/

/-- Bits that Table 5 marks zero: LEN [63:32], FMT [63:10]. -/
def portReserved (p v : Nat) : Bool :=
  (p == 2 && decide (bits v 63 32 ≠ 0)) || (p == 3 && decide (bits v 63 10 ≠ 0))

/-- `tmov` to an operand port (R288). -/
def tmovPort (p : Nat) (v : Word) (s : State) : State :=
  if portReserved p v.toNat then s.fault .reservedField else s.updCur (fun c => c.setPort p v)

def execTmov (o : TmovOp) (s : State) : Out := guarded o.g (fun s => tmovPort o.port.toNat (s.pre.x o.rs1) s) s

/-- A released transform operation of the task has not retired. -/
def State.transforming (s : State) (task : Nat) : Bool :=
  s.cmds.any (fun c => c.task == task && decide (c.st ≠ CmdSt.held) && (match c.kind with
    | .trig _ => true
    | _ => false))

/-- `tget` (R288): operand ports and result ports; any other raises `RESERVED_FIELD`. -/
def portGet (rd : BitVec 6) (a : Word) (s : State) : State :=
  let p := a.toNat % 256
  if p < 7 then s.putX rd (s.pre.port p) 1
  else if 0x80 ≤ p ∧ p ≤ 0x83 then
    if s.transforming s.pre.task then s.stall else s.putX rd (s.pre.port p) 1
  else s.fault .reservedField

def execTget (o : RUnOp) (s : State) : Out := guarded o.g (fun s => portGet o.rd (s.pre.x o.rs1) s) s

/-! ### Triggers (R286, R288) -/

/-- A destination port that names device memory; 0 names nothing. -/
def portDevice (v : Word) : Bool := v != 0 && !v.getLsbD 63

/-- A trigger: the port set is copied with SRC and DST, and the operation is queued. -/
def issueTrig (port : Nat) (o : TrigOp) (s : State) : State :=
  command s (fun s =>
    let d := s.pre.x o.rs2
    let k := s.newCmd (.trig port) (portDevice d || portDevice (s.pre.port 4)) o.ord (s.pre.x o.rs1) d
    let k := { k with ports := sput 0 (sput 0 k.ports 0 (s.pre.x o.rs1)) 1 d }
    s.submit k 0 (fun k s => (k, s)))

def execConv (o : TrigOp) (s : State) : Out := guarded o.g (issueTrig 0x40 o) s
def execQfp8 (o : TrigOp) (s : State) : Out := guarded o.g (issueTrig 0x41 o) s
def execQmx4 (o : TrigOp) (s : State) : Out := guarded o.g (issueTrig 0x42 o) s
def execCmpr (o : TrigOp) (s : State) : Out := guarded o.g (issueTrig 0x43 o) s
def execExpd (o : TrigOp) (s : State) : Out := guarded o.g (issueTrig 0x44 o) s
def execCsum (o : TrigOp) (s : State) : Out := guarded o.g (issueTrig 0x45 o) s

/-! ### The operations (R287) -/

def Cmd.port (k : Cmd) (p : Nat) : Nat := (sget (0 : Word) k.ports p).toNat
def Cmd.len (k : Cmd) : Nat := bits (k.port 2) 31 0
def Cmd.srcFmt (k : Cmd) : Nat := bits (k.port 3) 3 0
def Cmd.dstFmt (k : Cmd) : Nat := bits (k.port 3) 7 4
def Cmd.blk (k : Cmd) : Nat := k.port 5

/-- What an operation yields: its value, the largest magnitude, events, and the bytes for DST and SCL. -/
structure TrigOut where
  value : Nat
  amax : Nat
  events : Flags
  out : List Byte
  scales : List Byte
  deriving DecidableEq, Repr

/-- Elements of width `w` packed into bytes (R69); what the last byte has left, past an odd number of 4-bit elements, is 0
(assumption log 96). -/
def packBytes (w : Nat) (l : List Nat) : List Byte := bytesOf ((l.length * w + 7) / 8) (packEl w l)

/-- The exact value of an element of a format code. -/
def valueOf (f v : Nat) : FV :=
  match ffmtOf f, ifmtOf f with
  | some g, _ => g.decode v
  | none, some g => intFV (g.value v)
  | none, none => .nan

/-- Lists of `n` elements each. -/
def blocksOf {α : Type} (n : Nat) : Nat → List α → List (List α)
  | 0, _ => []
  | k + 1, l => l.take n :: blocksOf n k (l.drop n)

/-- Blocks under a scale rule: elements, scales, events. -/
def quantise (scale : List FV → Nat) (elem : Nat → FV → Nat × Flags) (bs : List (List FV)) :
    List Nat × List Byte × Flags :=
  bs.foldr (fun b acc =>
    let c := scale b
    let es := b.map (elem c)
    (es.map Prod.fst ++ acc.1, BitVec.ofNat 8 c :: acc.2.1, es.foldl (fun f e => f ||| e.2) acc.2.2)) ([], [], fNone)

/-- The largest source magnitude as FP32; `free` where some element is NaN, for which the spec names none. -/
def amaxBits (free : Nat) (l : List FV) : Nat :=
  if l.any FV.isNan then free
  else if l.any FV.isInf then 0x7F800000
  else (roundFV fmtF32 false false (maxMag l)).1

/-- Checks made before any element is read (R287). -/
def Cmd.trigCheck (k : Cmd) (port : Nat) : Option Code :=
  match port with
  | 0x40 => if k.srcFmt ≤ 10 ∧ k.dstFmt ≤ 10 then none else some .formatMismatch
  | 0x41 =>
    if k.srcFmt ≤ 2 ∧ k.dstFmt = 3 ∧ k.blk ∈ [32, 64, 128, 256, 512, 1024, 2048, 4096] ∧ k.len % k.blk = 0 then none
    else some .formatMismatch
  | 0x42 => if k.srcFmt ≤ 10 ∧ k.dstFmt = 5 ∧ k.len % 32 = 0 then none else some .formatMismatch
  | 0x45 => none
  | _ => if k.len % 256 = 0 then none else some .reservedField

/-- Bytes of source that an operation reads; EXPD reads its header first. -/
def Cmd.trigBytes (k : Cmd) (port : Nat) : Nat :=
  match port with
  | 0x40 | 0x41 | 0x42 => (k.len * elemBits k.srcFmt + 7) / 8
  | 0x44 => 16
  | _ => k.len

/-- The result from the source bytes. The stream that CMPR writes and EXPD expects names FMT's source code as its fmt, and holds its
count of chunks modulo 2^16 (R330; assumption log 96). -/
def Cmd.trigOut (k : Cmd) (port free v : Nat) : TrigOut :=
  let n := k.len
  let w := elemBits k.srcFmt
  let els := (List.range n).map (el w v)
  match port with
  | 0x40 =>
    let cs := els.map (convert k.srcFmt k.dstFmt (bit (k.port 3) 9) (bit (k.port 3) 8))
    ⟨n, 0, cs.foldl (fun f c => f ||| c.2) fNone, packBytes (elemBits k.dstFmt) (cs.map Prod.fst), []⟩
  | 0x41 =>
    let vs := els.map (valueOf k.srcFmt)
    let (es, sc, fl) := quantise fp8Scale fp8Elem (blocksOf k.blk (n / k.blk) vs)
    ⟨n / k.blk, amaxBits free vs, fl, packBytes 8 es, sc⟩
  | 0x42 =>
    let vs := els.map (valueOf k.srcFmt)
    let (es, sc, fl) := quantise mx4Scale mx4Elem (blocksOf 32 (n / 32) vs)
    ⟨n / 32, amaxBits free vs, fl, packBytes 4 es, sc⟩
  | 0x43 =>
    let out := compress k.srcFmt (bytesOf n v)
    ⟨out.length, 0, fNone, out, []⟩
  | _ => ⟨crcBytes (k.port 6 % 2 ^ 32) (bytesOf n v), 0, fNone, [], []⟩

/-- Pages that `n` bytes at a port's address meet in device memory, and whether they are written; none in the scratchpad. -/
def devicePages (a n : Nat) (w : Bool) : List (Nat × Bool) :=
  if bit a 63 || a == 0 && w then [] else (pageStarts (a % 2 ^ 60) n).map (fun va => (va % 2 ^ 60, w))

/-- Reads `n` bytes at a port's address plus an offset: the issuing core's scratchpad, or device memory. A failure gives the
address, and the distinct pages that fault (R232). -/
def State.portRead (s : State) (k : Cmd) (a off n : Nat) : Except (Code × Nat × Nat) Nat × State :=
  if bit a 63 then
    if 2 ^ 20 < a % 2 ^ 20 + off + n then (.error (.permission, a % 2 ^ 20 + off, 0), s)
    else (.ok (cellsRead (s.core k.core).scratch 20 (a % 2 ^ 20 + off) n), s)
  else match s.engRead k.pen 12 (.cluster (k.core / 16)) (pageFuel n) (a + off) n with
    | (.error (c, x), s) => (.error (c, x, s.badPages k.pen 12 (.cluster (k.core / 16)) (devicePages (a + off) n false)), s)
    | (.ok v, s) => (.ok v, s)

/-- Writes bytes at a port's address; a port of 0 takes none. -/
def State.portWrite (s : State) (k : Cmd) (a : Nat) (l : List Byte) : Except (Code × Nat) Unit × State :=
  if a = 0 ∨ l = [] then (.ok (), s)
  else if bit a 63 then
    if 2 ^ 20 < a % 2 ^ 20 + l.length then (.error (.permission, a % 2 ^ 20), s)
    else (.ok (), if s.lives k then s.padPut k.core (a % 2 ^ 20) l.length (ofBytes l) else s)
  else s.engWrite k.pen 12 (.cluster (k.core / 16)) (pageFuel l.length) a l.length (ofBytes l)

/-- The source of EXPD: header, then the whole stream, then its expansion (R330). -/
def State.expdRun (s : State) (k : Cmd) : Except (Code × Nat × Nat) TrigOut × State :=
  let (r, s) := s.portRead k (k.port 0) 0 16
  match r with
  | .error e => (.error e, s)
  | .ok h =>
    match headerTotal h k.srcFmt (k.len / 256) with
    | none => (.error (.formatMismatch, 0, 0), s)
    | some t =>
      let (r, s) := s.portRead k (k.port 0) 0 t
      match r with
      | .error e => (.error e, s)
      | .ok v =>
        match expand (k.len / 256) (bytesOf t v) with
        | none => (.error (.formatMismatch, 0, 0), s)
        | some d => (.ok ⟨k.len, 0, fNone, d, []⟩, s)

/-- Runs an operation: its result, with its bytes written, or its failure. -/
def State.trigRun (s : State) (k : Cmd) (port : Nat) : Except (Code × Nat × Nat) TrigOut × State :=
  match k.trigCheck port with
  | some c => (.error (c, 0, 0), s)
  | none =>
    let (r, s) : Except (Code × Nat × Nat) TrigOut × State :=
      if port = 0x44 then s.expdRun k
      else
        let (r, s) := s.portRead k (k.port 0) 0 (k.trigBytes port)
        match r with
        | .error e => (.error e, s)
        | .ok v =>
          (.ok (k.trigOut port ((Config.freeWord s.free).toNat % 2 ^ 32) v), { s with free := s.free + 1 })
    match r with
    | .error e => (.error e, s)
    | .ok o =>
      let bad (s : State) : Nat := s.badPages k.pen 12 (.cluster (k.core / 16))
        (devicePages (k.port 1) o.out.length true ++ devicePages (k.port 4) o.scales.length true)
      let (w, s) := s.portWrite k (k.port 1) o.out
      match w with
      | .error (c, a) => (.error (c, a, bad s), s)
      | .ok _ =>
        let (w, s) := s.portWrite k (k.port 4) o.scales
        match w with
        | .error (c, a) => (.error (c, a, bad s), s)
        | .ok _ => (.ok o, s)

/-- Elements not done from a faulting address, where it lies in the source. -/
def Cmd.trigLeft (k : Cmd) (a : Nat) : Nat :=
  let w := elemBits k.srcFmt
  if bit (k.port 0) 63 || a < k.port 0 % 2 ^ 60 || w = 0 then k.len
  else k.len - (a - k.port 0 % 2 ^ 60) * 8 / w

/-- An operation retires (R286, R287), once budgets have admitted its accesses: it writes the result ports; its progress is the
elements, or for CMPR, EXPD and CSUM the bytes, that it has taken (R273; assumption log 47). -/
def State.retireTrig (s : State) (k : Cmd) (port : Nat) : State :=
  if k.pos = 1 then s
  else
    match s.metered 0 0 true k.paid (fun s => s.asCmd k (fun s => s.trigRun k port)) with
    | (.error n, s) => s.updCmd k (fun c => { c with paid := n })
    | (.ok (.error (c, a, m)), s) => s.failCmd k ⟨c.num, a, k.trigLeft a, m⟩ false false 0
    | (.ok (.ok o), s) => (s.putResults k (o.events.toNat * 2 ^ 8) o.value o.amax).concludeCmd k k.len

/-- An earlier released operation of the same task has not retired: they run in trigger order (R286). -/
def State.trigEarlier (s : State) (k : Cmd) : Bool :=
  (s.cmdsBefore k).any (fun c => c.task == k.task && decide (c.st ≠ CmdSt.held) && (match c.kind with
    | .trig _ => true
    | _ => false))

/-- TRANSFORM_OP_RETIRE (R286). -/
def execTransformOpRetire (ctx cid : Nat) (s : State) : Out :=
  .next (match s.cmd ctx (BitVec.ofNat 16 cid) with
    | some k => match k.kind with
      | .trig p =>
        if k.st = .running ∧ k.pos ≠ 1 ∧ ¬ s.trigEarlier k then s.retireTrig k p else s
      | _ => s
    | none => s)

end Sys2Proof.Machine
end

