-- ==== Sys2Proof/Machine/KvSeq.lean ====
section
/-! DEFINITION. Sequences: descriptors, handles, extents, the stacks of a pool, the buddy allocator of stall
numbers, and releases (R295, R297 to R301, R307, R312). -/

namespace Sys2Proof.Machine

/-! ### Descriptors (R299, Table 3) -/

/-- An extent: base, page count, stall stride. -/
abbrev Extent := Nat × Nat × Int

structure Desc where
  gen : Nat
  live : Bool
  pool : Nat
  cls : Nat
  written : Nat
  committed : Nat
  pages : Nat
  resv : Nat
  ext : List Extent
  lprog : Nat
  cnt : Nat
  bias : Nat
  gram : Nat
  board : Nat
  deriving DecidableEq, Repr

/-- A 16-bit field as a signed number. -/
def signed16 (v : Nat) : Int := if v < 2 ^ 15 then v else (v : Int) - 2 ^ 16

/-- Extent `i` of the 192 bytes of a descriptor. -/
def extentAt (v i : Nat) : Extent :=
  let w := v / 2 ^ (512 + 64 * i) % 2 ^ 64
  (bits w 31 0, bits w 47 32, signed16 (bits w 63 48))

def Desc.unpack (v : Nat) : Desc :=
  { gen := bits v 63 56, live := bit v 55, pool := bits v 54 52, cls := bits v 51 50,
    ext := (List.range (Nat.min 16 (bits v 49 45))).map (extentAt v),
    written := v / 2 ^ 96 % 2 ^ 32, committed := v / 2 ^ 64 % 2 ^ 32,
    pages := v / 2 ^ 160 % 2 ^ 32, resv := v / 2 ^ 128 % 2 ^ 32,
    lprog := v / 2 ^ 192 % 2 ^ 60, cnt := v / 2 ^ 256 % 2 ^ 60, bias := v / 2 ^ 320 % 2 ^ 60,
    gram := v / 2 ^ 384 % 2 ^ 60, board := v / 2 ^ 448 % 2 ^ 16 }

/-- Word 0 of a descriptor. -/
def Desc.word0 (d : Desc) : Nat :=
  d.gen % 256 * 2 ^ 56 + (if d.live then 2 ^ 55 else 0) + d.pool % 8 * 2 ^ 52 + d.cls % 4 * 2 ^ 50 +
    d.ext.length % 32 * 2 ^ 45

/-- One extent as a word. -/
def extentWord (e : Extent) : Nat :=
  e.1 % 2 ^ 32 + e.2.1 % 2 ^ 16 * 2 ^ 32 + (e.2.2 % 2 ^ 16).toNat * 2 ^ 48

def Desc.pack (d : Desc) : Nat :=
  d.word0 + (d.written % 2 ^ 32 * 2 ^ 32 + d.committed % 2 ^ 32) * 2 ^ 64 +
    (d.pages % 2 ^ 32 * 2 ^ 32 + d.resv % 2 ^ 32) * 2 ^ 128 + d.lprog % 2 ^ 60 * 2 ^ 192 +
    d.cnt % 2 ^ 60 * 2 ^ 256 + d.bias % 2 ^ 60 * 2 ^ 320 + d.gram % 2 ^ 60 * 2 ^ 384 +
    d.board % 2 ^ 16 * 2 ^ 448 +
    d.ext.foldr (fun e a => extentWord e + 2 ^ 64 * a) 0 * 2 ^ 512

/-- The sequence table of a pen: its size as a power of two; none outside 1 to 22 (R299). -/
def Pen.seqSize (p : Pen) : Option Nat :=
  let l := bits p.kvsLsize.toNat 4 0
  if 1 ≤ l ∧ l ≤ 22 then some (2 ^ l) else none

/-- Where a descriptor stands. -/
def Pen.descPa (p : Pen) (i : Nat) : Nat := bits p.kvsBase.toNat 51 12 * 2 ^ 12 + 192 * i

def State.desc (s : State) (pen i : Nat) : Desc := Desc.unpack (s.physRead ((s.pen pen).descPa i) 192)

def State.setDesc (s : State) (pen i : Nat) (d : Desc) : State :=
  (s.physWrite none ((s.pen pen).descPa i) 192 d.pack).noteEntry pen ((s.pen pen).descPa i) 192

/-- Index and generation of a handle. -/
def hIndex (h : Nat) : Nat := bits h 23 2
def hGen (h : Nat) : Nat := bits h 31 24

/-- A pool is in force and belongs to a pen. -/
def State.poolOk (s : State) (pool pen : Nat) : Bool := (s.pool pool).enable && (s.pool pool).pen == pen

/-- The index of a handle is one of the pen's table (R301). -/
def State.seqIndex (s : State) (pen h : Nat) : Option Nat :=
  match (s.pen pen).seqSize with
  | none => none
  | some n => if hIndex h = 0 ∨ n ≤ hIndex h then none else some (hIndex h)

/-- Resolves a handle (R301); a stale one is counted. -/
def State.resolve (s : State) (pen h : Nat) : Except Code (Nat × Desc) × State :=
  match s.seqIndex pen h with
  | none => (.error .permission, s)
  | some i =>
    let d := s.desc pen i
    let s := s.noteEntry pen ((s.pen pen).descPa i) 192
    if !d.live || d.gen != hGen h then
      (.error .kvStale,
        if s.poolOk d.pool pen then
          s.updPool d.pool (fun p => { p with stale := Nat.min (2 ^ 32 - 1) (p.stale + 1) })
        else s)
    else if !s.poolOk d.pool pen then (.error .permission, s)
    else (.ok (i, d), s)

/-! ### Extents (R300, R305, R306) -/

/-- The stall of a logical page; none past the sequence. -/
def pageStall : List Extent → Nat → Option Nat
  | [], _ => none
  | (b, c, st) :: r, g => if g < c then some ((b : Int) + st * g).toNat else pageStall r (g - c)

/-- The stalls of the first `n` pages, in page order. -/
def stallsOf (ext : List Extent) (n : Nat) : List Nat := (List.range n).filterMap (pageStall ext)

/-- The last extent and a new one join (the merge rule of R305). -/
def joins (a b : Extent) : Bool :=
  a.2.2 == 1 && b.2.2 == 1 && a.1 + a.2.1 == b.1 && decide (a.2.1 + b.2.1 ≤ 65535)

/-- Extents from page 0 upward under the merge rule: each joins the last one before it, or stands alone; `a` is that last
one. -/
def mergeFrom : Extent → List Extent → List Extent
  | a, [] => [a]
  | a, e :: r => if joins a e then mergeFrom (a.1, a.2.1 + e.2.1, 1) r else a :: mergeFrom e r

def mergeExt : List Extent → List Extent
  | [] => []
  | e :: r => mergeFrom e r

/-- A new extent joins the last one, where the merge rule lets it, or follows it (R305). -/
def addExt (l : List Extent) (e : Extent) : List Extent :=
  match l.getLast? with
  | some a => if joins a e then l.dropLast ++ [(a.1, a.2.1 + e.2.1, 1)] else l ++ [e]
  | none => [e]

/-- The extents of a run of stall numbers from `b`: of at most 65,535 pages each (R305); `f` is fuel. -/
def runExt : Nat → Nat → Nat → List Extent
  | 0, _, _ => []
  | f + 1, b, n => if n ≤ 65535 then [(b, n, 1)] else (b, 65535, 1) :: runExt f (b + 65535) (n - 65535)

/-- Runs of stall numbers are appended to the extents of a sequence, one after another. -/
def addRuns (l : List Extent) (runs : List (Nat × Nat)) : List Extent :=
  (runs.flatMap (fun r => runExt (r.2 / 65535 + 1) r.1 r.2)).foldl addExt l

/-- Page `g` gets a stall of its own (the extent split of R306). -/
def splitExt : List Extent → Nat → Nat → List Extent
  | [], _, _ => []
  | (b, c, st) :: r, g, n =>
    if g < c then
      (if 0 < g then [(b, g, st)] else []) ++ [(n, 1, 1)] ++
        (if g + 1 < c then [(((b : Int) + st * (g + 1)).toNat, c - g - 1, st)] else []) ++ r
    else (b, c, st) :: splitExt r (g - c) n

/-- Extents cut after the first `n` pages (R310). -/
def cutExt : List Extent → Nat → List Extent
  | [], _ => []
  | (b, c, st) :: r, n => if n = 0 then [] else (b, Nat.min c n, st) :: cutExt r (n - c)

/-! ### Stacks (R294, R295, R326): 0 to 5 free stacks, 6 scales, 7 agisted -/

def Pool.stackBase (p : Pool) (k : Nat) : Nat :=
  let w := if k < 6 then sget 0 p.fsBase k else if k = 6 then p.scsBase else p.agstBase
  bits w.toNat 51 3 * 8

def Pool.stackCnt (p : Pool) (k : Nat) : Nat :=
  (if k < 6 then sget 0 p.fsCnt k else if k = 6 then p.scsCnt else p.agstCnt).toNat

def Pool.stackFree (p : Pool) (k : Nat) : Nat := bits (p.stackCnt k) 31 0

/-- `free` of a stack takes a value; its cap is kept. -/
def Pool.setFree (p : Pool) (k n : Nat) : Pool :=
  let w : Word := BitVec.ofNat 64 (bits (p.stackCnt k) 63 32 * 2 ^ 32 + n % 2 ^ 32)
  if k < 6 then { p with fsCnt := sput 0 p.fsCnt k w }
  else if k = 6 then { p with scsCnt := w }
  else { p with agstCnt := w }

/-- Takes the top entry of a stack. -/
def State.popStack (s : State) (pool k : Nat) : Option (Nat × State) :=
  let p := s.pool pool
  let n := p.stackFree k
  if n = 0 then none
  else
    let at_ := p.stackBase k + 8 * (n - 1)
    some (s.physRead at_ 8, (s.hbmRequest p.pen at_ 8).setPool pool (p.setFree k (n - 1)))

/-- Puts an address on a stack; past its cap it is dropped and noted (R295). -/
def State.pushStack (s : State) (pool k a : Nat) : State :=
  let p := s.pool pool
  let n := p.stackFree k
  if n = bits (p.stackCnt k) 63 32 then s.logEvent .stackFull pool p.pen [pool, k, a]
  else
    let at_ := p.stackBase k + 8 * n
    ((s.physWrite none at_ 8 a).hbmRequest p.pen at_ 8).setPool pool (p.setFree k (n + 1))

/-- Form of a stored page (R323). -/
def Stall.form (e : Stall) : Nat := if e.fmt = 3 then 1 else if e.fmt = 5 then 2 else 0

/-- The free stack of a tier and form (R294). -/
def stackOf (tier form : Nat) : Nat := 3 * (if tier = 1 then 1 else 0) + form

/-- Native near blocks free beyond what reservations hold; negative where they hold more than there are. -/
def Pool.spare (p : Pool) : Int := (p.stackFree 0 : Int) - p.resv

/-- The pressure test after a step that allocates from stack 0 (R333). -/
def State.pressureTest (s : State) (pool : Nat) : State :=
  s.updPool pool (fun p =>
    if p.spare < (bits p.tpol.toNat 63 48 : Int) ∧ bits p.tpol.toNat 9 8 ≠ 0 then { p with pressing := true } else p)

/-! ### Stall numbers (R297) -/

/-- The free run of order `k` with the lowest base. -/
def lowestRun (runs : List (Nat × Nat)) (k : Nat) : Option Nat :=
  match (runs.filter (fun r => r.1 == k)).map Prod.snd with
  | [] => none
  | b :: r => some (r.foldl Nat.min b)

/-- The smallest order from `k` up to 20 that has a run. -/
def runOrder (runs : List (Nat × Nat)) (k : Nat) : Option Nat :=
  ((List.range 21).filter (fun j => decide (k ≤ j))).find? (fun j => (lowestRun runs j).isSome)

/-- The upper halves that remain when a run of order `j` at `b` is halved down to order `k`. -/
def upperHalves (b k : Nat) : Nat → List (Nat × Nat)
  | 0 => []
  | j + 1 => if k ≤ j then (j, b + 2 ^ j) :: upperHalves b k j else []

/-- Takes a run of order `k`. -/
def allocRun (runs : List (Nat × Nat)) (k : Nat) : Option (Nat × List (Nat × Nat)) :=
  match runOrder runs k with
  | none => none
  | some j =>
    match lowestRun runs j with
    | none => none
    | some b => some (b, runs.filter (fun r => !(r.1 == j && r.2 == b)) ++ upperHalves b k j)

/-- Frees a run, merging it with its buddy while that is free; `n` bounds the merges. -/
def freeRun (runs : List (Nat × Nat)) (top k b : Nat) : Nat → List (Nat × Nat)
  | 0 => (k, b) :: runs
  | n + 1 =>
    let buddy := b ^^^ 2 ^ k
    if k < top ∧ runs.contains (k, buddy) then
      freeRun (runs.filter (fun r => r != (k, buddy))) top (k + 1) (Nat.min b buddy) n
    else (k, b) :: runs

/-- One number returns to the allocator. -/
def Pool.freeNumber (p : Pool) (n : Nat) : Pool := { p with runs := freeRun p.runs p.lstalls 0 n 21 }

/-- Runs of the orders given, in order. -/
def allocRuns (runs : List (Nat × Nat)) : List Nat → Option (List (Nat × Nat) × List (Nat × Nat))
  | [] => some ([], runs)
  | k :: r =>
    match allocRun runs k with
    | none => none
    | some (b, runs) =>
      match allocRuns runs r with
      | none => none
      | some (l, runs) => some ((b, 2 ^ k) :: l, runs)

/-- Orders of the set bits of a page count, highest first. -/
def setOrders (m : Nat) : List Nat := ((List.range 21).filter (fun k => m.testBit k)).reverse

/-- A stall number allocated: LIVE, with a new incarnation. -/
def State.freshStall (s : State) (pool n : Nat) (e : Stall) : State :=
  let old := s.stallAt pool n
  s.setStall pool n { e with
    state := 1, count := 1, incarn := (old.incarn + 1) % 256, stamp := (s.pool pool).period % 256 }

/-- A near native stall as `kvres` and copy-on-write make it, but for its block. -/
def freshNative (p : Pool) (block cls fill : Nat) : Stall :=
  { block := block, count := 1, heat := 0, stamp := 0, state := 1, tier := 0, fmt := p.nfmt, cls := cls,
    fill := fill, scales := 0, incarn := 0, lender := 0 }

/-! ### Releases (R298) -/

/-- The extents that a stream keeps name a stall: it has resolved it (R298). -/
def Stream.names (x : Stream) (n : Nat) : Bool :=
  x.seen.contains n || x.ext.any (fun e => (List.range e.2.1).any (fun i => decide ((e.1 : Int) + e.2.2 * i = n)))

/-- No stream that resolved the stall before the release still runs, and no drover moves it (R298). -/
def State.deferDone (s : State) (pool : Nat) (d : Defer) : Bool :=
  !(s.cmds.any (fun c => c.stream.started && c.stream.pool == pool && decide (c.stream.seq < d.seq) &&
    c.stream.names d.stall)) &&
  !((s.pool pool).moves.any (fun m => m.stall == d.stall && decide (m.seq < d.seq)))

/-- What a release does in the end; a block that has gone back to its lender is in no RECALL any more (R337). -/
def State.settleDefer (s : State) (pool : Nat) (d : Defer) : State :=
  match d.kind with
  | 0 => s.updPool pool (fun p => p.freeNumber d.val)
  | 1 => s.pushStack pool d.stack d.val
  | _ => (s.updPool pool (fun p => { p with
      recalls := p.recalls.map (fun r => (r.1, r.2.filter (· != d.val))) })).send (.giveBack d.stack [d.val])

/-- Every release of a pool that nothing holds back any more takes effect, in order; a budget of the pool's pen holds the write
to a stack (R298, R396). -/
def State.settleDefers (s : State) (pool : Nat) : State :=
  (s.pool pool).defers.foldl (fun s d =>
    if !s.deferDone pool d then s
    else if d.kind = 1 ∧ !s.mayAsk (s.pool pool).pen ((s.pool pool).stackBase d.stack) then s.budgetHold 3 (s.pool pool).pen
    else (s.updPool pool (fun p => { p with defers := p.defers.erase d })).settleDefer pool d) s

/-- Adds releases to a pool. -/
def State.addDefers (s : State) (pool : Nat) (l : List Defer) : State :=
  (s.updPool pool (fun p => { p with defers := p.defers ++ l })).settleDefers pool

/-- DEFERRED_BLOCK_RELEASE (R298). -/
def execDeferredBlockRelease (pool : Nat) (s : State) : Out := .next (s.settleDefers pool)

/-- The releases of a stall's block and scale area; a tier 2 block goes back to its lender (R312, R324). -/
def blockDefers (q n : Nat) (e : Stall) : List Defer :=
  [if e.tier = 2 then ⟨q, n, 2, e.lender, e.block⟩ else ⟨q, n, 1, stackOf e.tier e.form, e.block⟩] ++
    (if e.scales = 0 then [] else [⟨q, n, 1, 6, e.scales⟩])

/-- A page move of a stall that is given up returns what it had taken (R332). -/
def State.abandonMove (s : State) (pool n : Nat) : State :=
  match (s.pool pool).moves.find? (fun m => m.stall == n) with
  | none => s
  | some m =>
    let s := s.updPool pool (fun p => { p with moves := p.moves.filter (fun x => x.stall != n) })
    let s := s.pushStack pool (if m.tier = 2 then 7 else stackOf m.tier m.form) m.block
    if m.area = 0 then s else s.pushStack pool 6 m.area

/-- A stall is busy (R332). -/
def State.stallBusy (s : State) (pool n : Nat) : Bool := (s.pool pool).moves.any (fun m => m.stall == n)

/-- One holder of a stall leaves it (R312); says whether the stall was released. `keep` leaves the block and the
area to another owner (R341). -/
def State.dropHolder (s : State) (pool q n : Nat) (keep : Bool) : Bool × State :=
  let e := s.stallAt pool n
  if e.count ≤ 1 then
    let s := s.abandonMove pool n
    let s := s.setStall pool n { e with count := 0, state := 0 }
    (true, s.addDefers pool ((if keep then [] else blockDefers q n e) ++ [⟨q, n, 0, 0, n⟩]))
  else (false, s.setStall pool n { e with count := e.count - 1 })

/-- Retires a sequence (R312); answers how many stalls were released. -/
def State.freeSeq (s : State) (pen i : Nat) (d : Desc) (keep : Stall → Bool) : Nat × State :=
  let (q, s) := s.draw
  let (n, s) := (stallsOf d.ext d.pages).foldl (fun (acc : Nat × State) n =>
    let (gone, s) := acc.2.dropHolder d.pool q n (keep (acc.2.stallAt d.pool n))
    (acc.1 + (if gone then 1 else 0), s)) (0, s)
  let s := s.updPool d.pool (fun p => { p with resv := p.resv - d.resv })
  (n, s.setDesc pen i { d with
    gen := (d.gen + 1) % 256, live := false, written := 0, committed := 0, pages := 0, resv := 0, ext := [] })

/-! ### Compaction (R307) -/

/-- The smallest k with n ≤ 2^k. -/
def ceilLog2 (n : Nat) : Nat := if n ≤ 1 then 0 else Nat.log2 (n - 1) + 1

/-- A stream that has resolved a stall has resolved what the stall holds under its new number (R298). -/
def Cmd.renumbered (pool old new : Nat) (c : Cmd) : Cmd :=
  if c.stream.started && c.stream.pool == pool && c.stream.names old then
    { c with stream := { c.stream with seen := new :: c.stream.seen } }
  else c

/-- Moves the entry of a stall to a number; the old one is released, and streams that read under it hold the new one too. -/
def State.renumber (s : State) (pool q old new : Nat) : State :=
  let e := s.stallAt pool old
  let s := s.setStall pool new { e with incarn := ((s.stallAt pool new).incarn + 1) % 256 }
  let s := s.setStall pool old { e with state := 0, count := 0 }
  let s := s.updPool pool (fun p => { p with
    moves := p.moves.map (fun (m : PageMove) => if m.stall = old then { m with stall := new } else m) })
  let s := { s with cmds := s.cmds.map (Cmd.renumbered pool old new) }
  s.addDefers pool [⟨q, old, 0, 0, old⟩]

/-- New extents for the pages after the numbers of `olds` have become a run from `b`. -/
def renumbered (stalls olds : List Nat) (b : Nat) : List Extent :=
  mergeExt (stalls.map (fun n => ((match olds.findIdx? (· == n) with
    | some j => b + j
    | none => n), 1, (1 : Int))))

/-- Compacts the extents of a sequence of `pages` pages where they exceed 16. -/
def State.compact (s : State) (pool pages : Nat) (ext : List Extent) : Except Code (List Extent × State) :=
  if ext.length ≤ 16 then .ok (ext, s)
  else
    let stalls := stallsOf ext pages
    let olds := stalls.filter (fun n => (s.stallAt pool n).count == 1)
    let m := olds.length
    if m = 0 then .error .kvExtent
    else
      let k := ceilLog2 m
      match allocRun (s.pool pool).runs k with
      | none => .error .yardFull
      | some (b, runs) =>
        let ext := renumbered stalls olds b
        if 16 < ext.length then .error .kvExtent
        else
          let (q, s) := s.draw
          let s := s.updPool pool (fun p =>
            (List.range (2 ^ k - m)).foldl (fun p i => p.freeNumber (b + m + i)) { p with runs := runs })
          .ok (ext, ((List.range m).zip olds).foldl (fun s jo => s.renumber pool q jo.2 (b + jo.1)) s)

end Sys2Proof.Machine
end

