-- ==== Sys2Proof/Machine/Kv.lean ====
section
/-! DEFINITION. The key-value commands of one step, and heat (R302 to R314, R321). -/

namespace Sys2Proof.Machine

/-! ### Issue (R302, R303) -/

/-- Bits of x[rs2] that the packed operand of an operation has (Table 5). -/
def kvMask (op : Nat) : Nat :=
  match op with
  | 0 => 2 ^ 32 - 1
  | 1 => 2 ^ 48 - 1
  | 2 => 2 ^ 32 - 4
  | 3 => 0
  | 4 => 2 ^ 32 - 1
  | 5 => 2 ^ 32 - 1
  | 6 => 7
  | 7 => 3
  | _ => 2 ^ 64 - 1

/-- A register that holds a handle has no other bits. -/
def badHandle (v : Nat) : Bool := decide (2 ^ 32 ≤ v) || decide (v % 4 ≠ 0)

/-- Reserved bits of an engine register of Table 4, by the width of its field. -/
def Cmd.wide (k : Cmd) (r w : Nat) : Bool := decide (2 ^ w ≤ k.reg r)

/-- Reserved bits of `kv.src`. -/
def Cmd.badSrc (k : Cmd) : Bool :=
  decide (bits (k.reg 0x101) 62 60 ≠ 0) || (bit (k.reg 0x101) 63 && decide (bits (k.reg 0x101) 59 20 ≠ 0))

/-- A count of `kv.planes` or `kv.heads` runs past 255 (R315). -/
def Cmd.runsPast (k : Cmd) (r : Nat) : Bool := decide (255 < bits (k.reg r) 7 0 + bits (k.reg r) 15 8)

/-- Reserved bits of what a command reads (R303). -/
def Cmd.kvReserved (k : Cmd) (op : Nat) : Bool :=
  badHandle k.r1.toNat || decide (k.r2.toNat &&& kvMask op ≠ k.r2.toNat) ||
  (match op with
   | 1 => k.badSrc || k.wide 0x102 32 || k.wide 0x103 48 || k.wide 0x104 16
   | 2 => k.r1 == 0 && k.wide 0x100 3
   | 6 => decide (k.r2.toNat = 4 ∨ k.r2.toNat = 5) && k.wide 0x109 32
   | 8 => k.wide 0x104 16 || k.wide 0x105 16 || k.wide 0x106 4 || k.wide 0x107 4 || k.wide 0x108 4 ||
     k.runsPast 0x104 || k.runsPast 0x105
   | _ => false)

/-- Any command of major 0x32 but `kvatt`. -/
def issueKv (op : Nat) (deferred : Bool) (o : EngOp) (s : State) : State :=
  command s (fun s =>
    let k := s.newCmd (.kv op) deferred o.ord (s.pre.x o.rs1) (s.pre.x o.rs2)
    if k.kvReserved op then s.fault .reservedField else s.submit k o.pm (fun k s => (k, s)))

def execKvres (o : EngOp) (s : State) : Out := guarded o.g (issueKv 0 true o) s
def execKvapp (o : EngOp) (s : State) : Out := guarded o.g (issueKv 1 true o) s
def execKvfork (o : EngOp) (s : State) : Out := guarded o.g (issueKv 2 true o) s
def execKvfree (o : EngOp) (s : State) : Out := guarded o.g (issueKv 3 true o) s
def execKvcommit (o : EngOp) (s : State) : Out := guarded o.g (issueKv 4 true o) s
def execKvtrunc (o : EngOp) (s : State) : Out := guarded o.g (issueKv 5 true o) s
def execKvq (o : EngOp) (s : State) : Out := guarded o.g (issueKv 6 false o) s
def execKvclass (o : EngOp) (s : State) : Out := guarded o.g (issueKv 7 true o) s

/-! ### Steps (R304) -/

/-- How a step fails: its code, the address word, whether that holds a handle and page, and the distinct 64 KiB pages that
faulted (R231, R232). -/
abbrev KvFail := Code × Nat × Bool × Nat

/-- What a step gives: its progress and the state, or its failure with nothing changed. -/
abbrev KvStep := Except KvFail (Nat × State)

def kvFail (c : Code) : KvStep := .error (c, 0, false, 0)

/-- The address word of a handle and page (R231). -/
def kvAddr (h g : Nat) : Nat := h % 2 ^ 32 * 2 ^ 32 + g % 2 ^ 32

/-- `n` bytes of a block: free values where it lies in another package (R320). -/
def State.blockRead (s : State) (pen pa n : Nat) : Nat × State :=
  let s := s.noteData pen pa n
  if s.elsewhere pa then s.readAway pa n else (s.physRead pa n, s)

/-- Writes bytes of a block. -/
def State.blockWrite (s : State) (pen pa n v : Nat) : State :=
  (if s.elsewhere pa then s.sendEng pen pa n v else s.physWrite none pa n v).noteData pen pa n

/-- `kvres` (R305). -/
def State.kvRes (s : State) (k : Cmd) (i : Nat) (d : Desc) : KvStep :=
  let m := bits k.r2.toNat 15 0
  let n := bits k.r2.toNat 31 16
  let p := s.pool d.pool
  if m = 0 ∧ n = 0 then .ok (0, s)
  else if 16 * 65535 < d.pages + m then kvFail .kvExtent
  else match allocRuns p.runs (setOrders m) with
    | none => kvFail .yardFull
    | some (runs, left) =>
      if p.stackFree 0 < p.resv + m + n then kvFail .yardFull
      else
        let s := s.setPool d.pool { p with runs := left }
        let nums := runs.flatMap (fun r => (List.range r.2).map (r.1 + ·))
        let s := nums.foldl (fun s n =>
          match s.popStack d.pool 0 with
          | none => s
          | some (b, s) => s.freshStall d.pool n (freshNative p b d.cls 0)) s
        let ext := addRuns d.ext runs
        match s.compact d.pool (d.pages + m) ext with
        | .error c => kvFail c
        | .ok (ext, s) =>
          let s := s.updPool d.pool (fun p => { p with resv := p.resv + n })
          let s := s.setDesc k.pen i { d with ext := ext, pages := d.pages + m, resv := d.resv + n }
          .ok (m, if m = 0 then s else s.pressureTest d.pool)

/-- Bytes of one token row of one head in the native format. -/
def Pool.row (p : Pool) : Nat := 2 * p.dim

/-- Bytes of one half of a page's plane in the native format. -/
def Pool.half (p : Pool) : Nat := p.toks * p.heads * p.row

/-- Copies the first `keep` tokens of every plane, K and V (R306). -/
def State.copyTokens (s : State) (p : Pool) (src dst keep : Nat) : State :=
  (List.range p.planes).foldl (fun s l =>
    (List.range 2).foldl (fun s kv =>
      (List.range p.heads).foldl (fun s h =>
        let o := l * p.stride + kv * p.half + h * p.toks * p.row
        let (v, s) := s.blockRead p.pen (src + o) (keep * p.row)
        s.blockWrite p.pen (dst + o) (keep * p.row) v) s) s) s

/-- Reads the source of one token and plane: K then V of all heads (R306). -/
def State.appSource (s : State) (k : Cmd) (off n : Nat) : Except (Code × Nat) Nat × State :=
  let a := k.reg 0x101
  if bit a 63 then
    if 2 ^ 20 < a % 2 ^ 20 + off + n then (.error (.permission, a % 2 ^ 20 + off), s)
    else (.ok (cellsRead (s.core k.core).scratch 20 (a % 2 ^ 20 + off) n), s)
  else s.engRead k.pen 10 (.cluster (k.core / 16)) (pageFuel n) ((a + off) % 2 ^ 60) n

/-- Reads the sources of a list of (plane, token) pairs. -/
def State.appSources (s : State) (k : Cmd) (n : Nat) :
    List (Nat × Nat) → Except (Code × Nat) (List Nat) × State
  | [] => (.ok [], s)
  | (l, t) :: r =>
    let (v, s) := s.appSource k ((l - bits (k.reg 0x104) 7 0) * k.reg 0x103 + t * k.reg 0x102) n
    match v with
    | .error e => (.error e, s)
    | .ok v =>
      let (vs, s) := s.appSources k n r
      match vs with
      | .error e => (.error e, s)
      | .ok vs => (.ok (v :: vs), s)

/-- Distinct pages that fault among the sources of a list of (plane, token) pairs. -/
def State.appFaults (s : State) (k : Cmd) (n : Nat) (l : List (Nat × Nat)) : Nat :=
  if bit (k.reg 0x101) 63 then 0
  else
    let at_ (x : Nat × Nat) : Nat := (x.1 - bits (k.reg 0x104) 7 0) * k.reg 0x103 + x.2 * k.reg 0x102
    s.badPages k.pen 10 (.cluster (k.core / 16)) (l.flatMap (fun x =>
      (pageStarts ((k.reg 0x101 + at_ x) % 2 ^ 60) n).map (fun va => (va, false))))

/-- Writes one token of one plane into a block from its source bytes (R295, R306). -/
def State.putToken (s : State) (p : Pool) (block l t v : Nat) : State :=
  (List.range 2).foldl (fun s kv =>
    (List.range p.heads).foldl (fun s h =>
      s.blockWrite p.pen (block + l * p.stride + kv * p.half + (h * p.toks + t) * p.row) p.row
        (v / 2 ^ (8 * ((kv * p.heads + h) * p.row)) % 2 ^ (8 * p.row))) s) s

/-- A shared page gets a stall of its own (the copy of R306): the descriptor and the new stall. -/
def State.copyPage (s : State) (d : Desc) (g n : Nat) : Except Code (Desc × Nat × State) :=
  let p := s.pool d.pool
  let e := s.stallAt d.pool n
  match allocRun p.runs 0 with
  | none => .error .yardFull
  | some (n2, runs) =>
    match ((s.setPool d.pool { p with runs := runs, resv := if 0 < d.resv then p.resv - 1 else p.resv }).popStack
        d.pool 0) with
    | none => .error .yardFull
    | some (b, s) =>
      let keep := Nat.min e.fill (Nat.min p.toks (d.written - g * p.toks))
      let s := s.copyTokens p e.block b keep
      let s := s.freshStall d.pool n2 (freshNative p b d.cls keep)
      let s := s.setStall d.pool n { e with count := e.count - 1 }
      .ok ({ d with resv := d.resv - 1, ext := splitExt d.ext g n2 }, n2, s)

/-- The tokens of `kvapp` on one page: a copy where it is shared, then its own stall takes the data. -/
def State.appendPage (s : State) (k : Cmd) (d : Desc) (g : Nat) (data : List ((Nat × Nat) × Nat)) :
    Except Code (Desc × State) :=
  let p := s.pool d.pool
  let pos := bits k.r2.toNat 31 0
  let n := bits k.r2.toNat 47 32
  match pageStall d.ext g with
  | none => .error .kvExtent
  | some st =>
    let r := if 1 < (s.stallAt d.pool st).count then s.copyPage d g st else .ok (d, st, s)
    match r with
    | .error c => .error c
    | .ok (d, st, s) =>
      let e := s.stallAt d.pool st
      let mine := data.filter (fun x => x.1.2 / p.toks == g)
      let s := mine.foldl (fun s x => s.putToken p e.block x.1.1 (x.1.2 % p.toks) x.2) s
      let upTo := Nat.min (pos + n) ((g + 1) * p.toks) - g * p.toks
      .ok (d, s.setStall d.pool st { e with fill := Nat.max e.fill upTo })

def State.appendPages (s : State) (k : Cmd) (d : Desc) (data : List ((Nat × Nat) × Nat)) :
    List Nat → Except Code (Desc × State)
  | [] => .ok (d, s)
  | g :: r =>
    match s.appendPage k d g data with
    | .error c => .error c
    | .ok (d, s) => s.appendPages k d data r

/-- Pages that the tokens of a `kvapp` fall on. -/
def Cmd.appPages (k : Cmd) (toks : Nat) : List Nat :=
  let pos := bits k.r2.toNat 31 0
  let n := bits k.r2.toNat 47 32
  if n = 0 then [] else (List.range ((pos + n - 1) / toks - pos / toks + 1)).map (pos / toks + ·)

/-- The pages of a `kvapp` are made its own and its tokens written, and the extents brought within 16. -/
def State.appendAll (s : State) (k : Cmd) (d : Desc) (data : List ((Nat × Nat) × Nat)) (pages : List Nat) :
    Except Code (Desc × State) :=
  match s.appendPages k d data pages with
  | .error c => .error c
  | .ok (d, s) =>
    match s.compact d.pool d.pages (mergeExt d.ext) with
    | .error c => .error c
    | .ok (ext, s) => .ok ({ d with ext := ext }, s)

/-- `kvapp` (R306). Every check, that the splits leave no more than 16 extents among them, comes before the sources are
read. -/
def State.kvApp (s : State) (k : Cmd) (i : Nat) (d : Desc) : KvStep :=
  let p := s.pool d.pool
  let pos := bits k.r2.toNat 31 0
  let n := bits k.r2.toNat 47 32
  let first := bits (k.reg 0x104) 7 0
  let count := bits (k.reg 0x104) 15 8 + 1
  if n = 0 ∨ pos < d.committed ∨ d.written < pos ∨ d.pages * p.toks < pos + n ∨ p.planes < first + count then
    kvFail .kvExtent
  else
    let pages := k.appPages p.toks
    let entry (g : Nat) : Stall := s.stallAt d.pool ((pageStall d.ext g).getD 0)
    match pages.find? (fun g => (entry g).state == 2) with
    | some g => .error (.kvRecalled, kvAddr k.r1.toNat g, true, 0)
    | none =>
      match pages.find? (fun g => (entry g).tier != 0 || (entry g).fmt != p.nfmt) with
      | some g => .error (.kvNotNear, kvAddr k.r1.toNat g, true, 0)
      | none =>
        let c := (pages.filter (fun g => decide (1 < (entry g).count))).length
        if p.spare < ((c - d.resv : Nat) : Int) ∨ (p.runs.map (fun r => 2 ^ r.1)).foldl (· + ·) 0 < c then kvFail .yardFull
        else
          let what := (List.range count).flatMap (fun l => (List.range n).map (fun t => (first + l, pos + t)))
          match s.appendAll k d [] pages with
          | .error c => kvFail c
          | .ok _ =>
            match (s.appSources k (2 * p.heads * p.row) what) with
            | (.error (c, a), _) => .error (c, a, false, s.appFaults k (2 * p.heads * p.row) what)
            | (.ok vs, s) =>
              match s.appendAll k d (what.zip vs) pages with
              | .error c => kvFail c
              | .ok (d, s) =>
                let s := s.setDesc k.pen i { d with written := Nat.max d.written (pos + n) }
                .ok (n, if 0 < c then s.pressureTest d.pool else s)

/-- A destination of `kvfork` or `kvimport` (R310): its index, its descriptor, and whether a live sequence is retired
there; `src` is the index of the source, 0 for none. -/
def State.openDest (s : State) (pen hd src : Nat) : Except Code (Nat × Desc × Bool) :=
  match s.seqIndex pen hd with
  | none => .error .permission
  | some i =>
    let x := s.desc pen i
    if src ≠ 0 ∧ i = src then .error .kvStale
    else if !x.live && x.gen == hGen hd then .ok (i, x, false)
    else if x.live && hGen hd == (x.gen + 1) % 256 then .ok (i, x, true)
    else .error .kvStale

/-- Retires the sequence at a destination where it is live and of the pen's own pool. -/
def State.retireDest (s : State) (pen i : Nat) (x : Desc) (live : Bool) : State :=
  if live && s.poolOk x.pool pen then (s.freeSeq pen i x (fun _ => false)).2 else s

/-- `kvfork` (R310) from a source descriptor; `src` is its index, 0 for the null handle. -/
def State.kvFork (s : State) (k : Cmd) (src : Nat) (d : Desc) : KvStep :=
  match s.openDest k.pen k.r2.toNat src with
  | .error c => kvFail c
  | .ok (i, x, live) =>
    let t := (s.pool d.pool).toks
    let pages := (d.committed + t - 1) / t
    let stalls := stallsOf d.ext pages
    if stalls.any (fun n => (s.stallAt d.pool n).count == 65535) then kvFail .kvExtent
    else
      let s := s.retireDest k.pen i x live
      let s := stalls.foldl (fun s n =>
        let e := s.stallAt d.pool n
        s.setStall d.pool n { e with count := e.count + 1 }) s
      .ok (pages, s.setDesc k.pen i { d with
        gen := hGen k.r2.toNat, live := true, written := d.committed, pages := pages, resv := 0,
        ext := cutExt d.ext pages, board := 0xFFFF })

/-- The empty sequence of a pool (R310). -/
def Desc.empty (pool : Nat) : Desc :=
  { gen := 0, live := false, pool := pool, cls := 1, written := 0, committed := 0, pages := 0, resv := 0, ext := [],
    lprog := 0, cnt := 0, bias := 0, gram := 0, board := 0xFFFF }

/-- `kvcommit` (R309). -/
def State.kvCommit (s : State) (k : Cmd) (i : Nat) (d : Desc) : KvStep :=
  let n := k.r2.toNat
  if n < d.committed ∨ d.written < n then kvFail .kvExtent
  else .ok (n, s.setDesc k.pen i { d with committed := n })

/-- Pages that a truncation may change. -/
def truncPages (len written toks : Nat) : List Nat :=
  (List.range ((written + toks - 1) / toks - len / toks)).map (len / toks + ·)

/-- `kvtrunc` (R309). -/
def State.kvTrunc (s : State) (k : Cmd) (i : Nat) (d : Desc) : KvStep :=
  let n := k.r2.toNat
  let t := (s.pool d.pool).toks
  if n < d.committed ∨ d.written < n then kvFail .kvExtent
  else
    let s := (truncPages n d.written t).foldl (fun s g =>
      match pageStall d.ext g with
      | none => s
      | some st =>
        let e := s.stallAt d.pool st
        if e.count = 1 then s.setStall d.pool st { e with fill := Nat.min e.fill (Nat.min t (n - g * t)) } else s) s
    .ok (n, s.setDesc k.pen i { d with written := n })

/-- `kvclass` (R313). -/
def State.kvClass (s : State) (k : Cmd) (i : Nat) (d : Desc) : KvStep :=
  let c := k.r2.toNat
  let s := (stallsOf d.ext d.pages).foldl (fun s n =>
    let e := s.stallAt d.pool n
    s.setStall d.pool n { e with cls := if e.count = 1 then c else Nat.min e.cls c }) s
  .ok (d.pages, s.setDesc k.pen i { d with cls := c })

/-- The value that a selector of `kvq` names (Table 6). -/
def State.kvqValue (s : State) (k : Cmd) (d : Desc) (n : Nat) : Nat :=
  match k.r2.toNat with
  | 0 => d.committed
  | 1 => d.written
  | 2 => d.resv
  | 3 => d.pages
  | 4 => stallField d.pool n (s.stallAt d.pool n)
  | 5 => s.physRead ((s.pool d.pool).stallPa n + 8) 8
  | 6 => d.word0
  | _ => d.ext.length

/-- `kvq` (R314); one that retires CANCELLED leaves `kv.qres` (R302). -/
def State.kvQuery (s : State) (k : Cmd) (d : Desc) : KvStep :=
  let paged := k.r2.toNat = 4 ∨ k.r2.toNat = 5
  if paged ∧ d.pages ≤ k.reg 0x109 then kvFail .kvExtent
  else
    let v := s.kvqValue k d ((pageStall d.ext (k.reg 0x109)).getD 0)
    let s := if paged then 
        s.noteEntry (s.pool d.pool).pen ((s.pool d.pool).stallPa ((pageStall d.ext (k.reg 0x109)).getD 0)) 32 else s
    .ok (v % 2 ^ 32, if k.aborted then s else s.updTaskCtx k.task (fun c => { c with
      eng := sput 0 c.eng 0x10A (BitVec.ofNat 64 v) }))

/-- The step of a command whose handle has resolved. -/
def State.kvStep (s : State) (k : Cmd) (op i : Nat) (d : Desc) : KvStep :=
  match op with
  | 0 => s.kvRes k i d
  | 1 => s.kvApp k i d
  | 2 => s.kvFork k i d
  | 3 =>
    let (n, s) := s.freeSeq k.pen i d (fun _ => false)
    .ok (n, s)
  | 4 => s.kvCommit k i d
  | 5 => s.kvTrunc k i d
  | 6 => s.kvQuery k d
  | _ => s.kvClass k i d

/-- The step of a command, with the state that its failure leaves (a stale handle is counted). -/
def State.runKv (s : State) (k : Cmd) (op : Nat) : KvStep × State :=
  if op = 2 ∧ k.r1 = 0 then
    let pool := k.reg 0x100 % 8
    (if s.poolOk pool k.pen then s.kvFork k 0 (Desc.empty pool) else kvFail .permission, s)
  else
    match s.resolve k.pen k.r1.toNat with
    | (.error c, s) => (kvFail c, s)
    | (.ok (i, d), s) => (s.kvStep k op i d, s)

/-! ### When a step applies -/

/-- A stall that the step would change is busy (R332). -/
def State.kvWaits (s : State) (k : Cmd) (op : Nat) : Bool :=
  match (s.resolve k.pen k.r1.toNat).1 with
  | .error _ => false
  | .ok (_, d) =>
    let t := (s.pool d.pool).toks
    let pages := match op with
      | 1 => k.appPages t
      | 5 => truncPages k.r2.toNat d.written t
      | _ => []
    pages.any (fun g => match pageStall d.ext g with
      | some n => s.stallBusy d.pool n
      | none => false)

/-- A key-value command that is one step. -/
def Cmd.kvOne (c : Cmd) : Bool :=
  match c.kind with
  | .kv op => decide (op < 8)
  | _ => false

/-- A command of the same task that was released earlier has not applied its step (R304). -/
def State.kvBehind (s : State) (k : Cmd) : Bool :=
  s.cmds.any (fun c => c.task == k.task && c.kvOne && decide (c.st ≠ CmdSt.held) && decide (c.rel < k.rel))

/-- Index of the sequence that a command acts for: for `kvfork`, the destination (R304). -/
def Cmd.actsFor (k : Cmd) : Nat := if k.kind = CmdKind.kv 2 then hIndex k.r2.toNat else hIndex k.r1.toNat

/-- The sequences that a command's step is applied on: a `kvfork` is one step on both of its own (R304). -/
def Cmd.seqs (k : Cmd) : List Nat :=
  if k.kind = CmdKind.kv 2 then
    if k.r1 = 0 then [hIndex k.r2.toNat] else [hIndex k.r1.toNat, hIndex k.r2.toNat]
  else [hIndex k.r1.toNat]

/-- The stalls that a command's step touches, in the pool of its sequence. -/
def State.kvStalls (s : State) (k : Cmd) : List (Nat × Nat) :=
  match (s.resolve k.pen k.r1.toNat).1 with
  | .error _ => []
  | .ok (_, d) =>
    let t := (s.pool d.pool).toks
    let of (l : List Nat) : List (Nat × Nat) := (l.filterMap (pageStall d.ext)).map (fun n => (d.pool, n))
    match k.kind with
    | .kv 1 => of (k.appPages t)
    | .kv 2 => of (List.range ((d.committed + t - 1) / t))
    | .kv 3 => of (List.range d.pages)
    | .kv 5 => of (truncPages k.r2.toNat d.written t)
    | .kv 7 => of (List.range d.pages)
    | _ => []

/-- A step has arrived, and nothing else than the order among steps holds it. -/
def State.kvHere (s : State) (c : Cmd) : Bool :=
  c.at_ != 0 && (match c.kind with
    | .kv op => decide (op < 8) && decide (c.st ≠ CmdSt.held) && !c.refused && !s.kvBehind c && !s.kvWaits c op
    | _ => false)

/-- `c` arrives before `k`, or in the same cycle with the smaller `tie`. Cycles of two clusters are not compared (R13;
assumption log 52). -/
def Cmd.before (c k : Cmd) (tie : Cmd → Nat) : Bool :=
  decide (clusterOf c.ctx = clusterOf k.ctx) && c.task != k.task && decide (c.pen = k.pen) &&
    (decide (c.at_ < k.at_) || (decide (c.at_ = k.at_) && decide (tie c < tie k)))

/-- A step on a sequence of `k` stands before it: it arrived earlier, or in the same cycle from a lower context (R304). -/
def State.kvSeqLater (s : State) (k : Cmd) : Bool :=
  s.cmds.any (fun c => s.kvHere c && c.before k Cmd.ctx && c.seqs.any (fun i => k.seqs.contains i))

/-- A step stands before that of `k`: on one of its sequences; or at one of its stalls, which it reached earlier, or in the same
cycle for a lower sequence (R304, R308). -/
def State.kvLater (s : State) (k : Cmd) : Bool :=
  s.kvSeqLater k || s.cmds.any (fun c =>
    s.kvHere c && c.before k Cmd.actsFor && !s.kvSeqLater c && (s.kvStalls c).any (fun x => (s.kvStalls k).contains x))

/-- Elements of a command whose step has failed: the pages or tokens that it would have dealt with (R231, R303; assumption log
27). -/
def State.kvElems (s : State) (k : Cmd) (op : Nat) : Nat :=
  match op with
  | 0 => bits k.r2.toNat 15 0
  | 1 => bits k.r2.toNat 47 32
  | 2 => match (s.resolve k.pen k.r1.toNat).1 with
    | .error _ => 0
    | .ok (_, d) => (d.committed + (s.pool d.pool).toks - 1) / (s.pool d.pool).toks
  | _ => 0

/-- A running key-value command applies its step and retires. -/
def State.applyKv (s : State) (k : Cmd) (op : Nat) : State :=
  match s.asCmd k (fun s => match s.runKv k op with
    | (.error e, t) => (.error e, t)
    | (.ok (n, t), _) => ((.ok n : Except KvFail Nat), t)) with
  | (.error (c, a, kv, m), s) => s.failCmd k ⟨c.num, a, s.kvElems k op, m⟩ kv false 0
  | (.ok n, s) => s.finishCmd k n

/-- The step is applied in its order (R304), once budgets have admitted its accesses (R394, R396). -/
def State.retireKv (s : State) (k : Cmd) (op : Nat) : State :=
  if s.kvBehind k || s.kvWaits k op || s.kvLater k then s
  else s.paying k 2 (k.core / 16) (fun s => s.applyKv k op)

/-! ### Heat (R294, R321) -/

/-- The ostler rewrites heat and stamp of a LIVE stall; the effective heat stays. -/
def State.refreshHeat (s : State) (pool n : Nat) : State :=
  let p := s.pool pool
  let e := s.stallAt pool n
  if e.state = 1 then s.setStall pool n { e with heat := p.effHeat e, stamp := p.period % 256 } else s

/-- The ostler of a pool's sweep, by cluster (R321 names none; assumption log 54). -/
def heatOstler (pool : Nat) : Nat := pool

/-- HEAT_REFRESH: the next stall of the sweep, once budgets admit it (R396). -/
def execHeatRefresh (pool : Nat) (s : State) : Out :=
  let p := s.pool pool
  .next (if p.enable then
    match s.metered 2 (heatOstler pool) true 0 (fun s => ((), s.refreshHeat pool p.sweep)) with
    | (.error _, s) => s
    | (.ok _, s) => s.updPool pool (fun p => { p with sweep := (p.sweep + 1) % 2 ^ p.lstalls })
  else s)

/-- KV_DECAY_PERIOD: the period count increments; a stall that the sweep has not reached for 128 periods is
rewritten then, which no budget may put off (R321). -/
def execKvDecayPeriod (pool : Nat) (s : State) : Out :=
  let p := s.pool pool
  .next (if p.enable ∧ p.decay.toNat % 2 ^ 32 ≠ 0 then
    let s := s.updPool pool (fun p => { p with period := (p.period + 1) % 2 ^ 32 })
    let now := (p.period + 1) % 2 ^ 32
    (List.range (2 ^ p.lstalls)).foldl (fun s n =>
      if (now + 256 - (s.stallAt pool n).stamp) % 256 < 128 then s
      else (s.metered 2 (heatOstler pool) false 0 (fun s => ((), s.refreshHeat pool n))).2) s
  else s)

end Sys2Proof.Machine
end

