-- ==== Sys2Proof/Machine/KvStream.lean ====
section
/-! DEFINITION. `kvatt`: the attention stream (R315 to R320). -/

namespace Sys2Proof.Machine

/-! ### Issue (R315) -/

/-- The ring that a stream fills: 0 K, 1 V, 2 headers. -/
def Cmd.ringOf (k : Cmd) (ix : Nat) : BitVec 4 := BitVec.ofNat 4 (k.reg (0x106 + ix))

/-- An undefined ring, two equal ones, or a header ring whose slots are not of 2 lines. -/
def State.badRings (s : State) (k : Cmd) : Bool :=
  let r (ix : Nat) : Ring := s.pre.ring (k.ringOf ix)
  (List.range 3).any (fun ix => (r ix).n == 0) || k.ringOf 0 == k.ringOf 1 || k.ringOf 0 == k.ringOf 2 ||
    k.ringOf 1 == k.ringOf 2 || (r 2).slots.any (fun i => (s.preTile i).lines != 2)

/-- `kvatt`: an immediate command that counts as a fill. -/
def issueKvatt (o : EngOp) (s : State) : State :=
  command s (fun s =>
    let k := s.newCmd (.kv 8) false o.ord (s.pre.x o.rs1) (s.pre.x o.rs2)
    if k.kvReserved 8 then s.fault .reservedField
    else if s.badRings k then s.fault .ringMisuse
    else s.submit k o.pm (fun k s => (k, s)))

def execKvatt (o : EngOp) (s : State) : Out := guarded o.g (issueKvatt o) s

/-! ### What a stream fills -/

def Cmd.start (k : Cmd) : Nat := k.r2.toNat % 2 ^ 32
def Cmd.tokens (k : Cmd) : Nat := k.r2.toNat / 2 ^ 32
def Cmd.plane0 (k : Cmd) : Nat := bits (k.reg 0x104) 7 0
def Cmd.planeCount (k : Cmd) : Nat := bits (k.reg 0x104) 15 8 + 1
def Cmd.head0 (k : Cmd) : Nat := bits (k.reg 0x105) 7 0
def Cmd.headCount (k : Cmd) : Nat := bits (k.reg 0x105) 15 8 + 1

/-- Pages of the token range, with tokens `t` to a page. -/
def Cmd.pageCount (k : Cmd) (t : Nat) : Nat :=
  if k.tokens = 0 then 0 else (k.start + k.tokens - 1) / t - k.start / t + 1

/-- (plane, page) pairs of a stream: planes outer, pages inner. -/
def Cmd.pairs (k : Cmd) (t : Nat) : Nat := k.planeCount * k.pageCount t
def Cmd.planeAt (k : Cmd) (t : Nat) : Nat := k.plane0 + k.stream.pos / k.pageCount t
def Cmd.pageAt (k : Cmd) (t : Nat) : Nat := k.start / t + k.stream.pos % k.pageCount t

/-- The 8 columns of a B unit of 3,072 bytes: `get c kk` is element `kk` of column `c`. -/
def unitBytes (w : Nat) (get : Nat → Nat → Nat) : List Byte :=
  let n := 3072 / w
  bytesOf 3072 (packEl w ((List.range 8).flatMap (fun c => (List.range n).map (get c))))

/-- What the pages of a pool look like in one form: element width, tokens, head dimension. -/
structure Geo where
  w : Nat
  t : Nat
  d : Nat
  h : Nat
  deriving DecidableEq, Repr

def Pool.geo (p : Pool) (form : Nat) : Geo := ⟨if form = 0 then 16 else if form = 1 then 8 else 4, p.toks, p.dim, p.heads⟩

/-- Bytes of one half of a page's plane. -/
def Geo.half (g : Geo) : Nat := g.t * g.h * g.d * g.w / 8

/-- K head chunks and V token chunks of 384 bytes (J and Q of R318). -/
def Geo.j (g : Geo) : Nat := (g.d * g.w / 8 + 383) / 384
def Geo.q (g : Geo) : Nat := (g.t * g.w + 3071) / 3072

/-- Element of a half by head, token and position (R295). -/
def Geo.elem (g : Geo) (v head tok j : Nat) : Nat :=
  if tok < g.t ∧ j < g.d then el g.w v ((head * g.t + tok) * g.d + j) else 0

/-- The KVK units of one head (R209, R318). -/
def Geo.kUnits (g : Geo) (v head : Nat) : List Byte :=
  (List.range ((g.t + 7) / 8)).flatMap (fun u => (List.range g.j).flatMap (fun j =>
    unitBytes g.w (fun c kk => g.elem v head (8 * u + c) (j * (3072 / g.w) + kk))))

/-- The KVV units of one head. -/
def Geo.vUnits (g : Geo) (v head : Nat) : List Byte :=
  (List.range ((g.d + 7) / 8)).flatMap (fun u => (List.range g.q).flatMap (fun j =>
    unitBytes g.w (fun c kk => g.elem v head (j * (3072 / g.w) + kk) (8 * u + c))))

/-- Scale groups along a run of `n` elements (R325). -/
def groupsOf (n : Nat) : Nat := (n + 31) / 32

/-- Where a K or V group scale stands in a plane's scales (R324). -/
def Geo.kScaleAt (g : Geo) (head tok grp : Nat) : Nat := (head * g.t + tok) * groupsOf g.d + grp
def Geo.vScaleAt (g : Geo) (head j grp : Nat) : Nat :=
  g.h * g.t * groupsOf g.d + (head * g.d + j) * groupsOf g.t + grp

/-- The scales of one unit (R318): 8 column scales, or 8 × 24 block scales in the order of R180. -/
def unitScales (form : Nat) (one : Nat) (block : Nat → Nat → Nat) : List Byte :=
  if form = 1 then List.replicate 8 (BitVec.ofNat 8 one) ++ List.replicate 56 0
  else (List.range 8).flatMap (fun c => (List.range 24).map (fun b => BitVec.ofNat 8 (block c b)))

/-- The scale areas of the K and V slots of one head, from a plane's scale bytes `sc` (R325). -/
def Geo.kScales (g : Geo) (form sc head : Nat) : List Byte :=
  (List.range ((g.t + 7) / 8)).flatMap (fun u => (List.range g.j).flatMap (fun j =>
    unitScales form (el 8 sc head) (fun c b =>
      if 8 * u + c < g.t ∧ 24 * j + b < groupsOf g.d then el 8 sc (g.kScaleAt head (8 * u + c) (24 * j + b)) else 127)))

def Geo.vScales (g : Geo) (form sc head : Nat) : List Byte :=
  (List.range ((g.d + 7) / 8)).flatMap (fun u => (List.range g.q).flatMap (fun j =>
    unitScales form (el 8 sc (g.h + head)) (fun c b =>
      if 8 * u + c < g.d ∧ 24 * j + b < groupsOf g.t then el 8 sc (g.vScaleAt head (8 * u + c) (24 * j + b)) else 127)))

/-- Units of a slot, per head and in all. -/
def Geo.units (g : Geo) (isV : Bool) (heads : Nat) : Nat :=
  heads * (if isV then (g.d + 7) / 8 * g.q else (g.t + 7) / 8 * g.j)

/-- Offset of the scale area of a slot in units of 64 bytes; 0 for native pages (Table 7). -/
def Geo.scaleOff (g : Geo) (form : Nat) (isV : Bool) (heads : Nat) : Nat :=
  if form = 0 then 0 else g.units isV heads * 48

/-- Stride of planes in a block of a form, in bytes (R323). -/
def Pool.planeStride (p : Pool) (form : Nat) : Nat := p.stride / 2 ^ form

/-- The bytes of a K or V slot for one (plane, page): units, then scales. -/
def State.kvSlotBytes (s : State) (k : Cmd) (e : Stall) (plane : Nat) (isV : Bool) : List Byte × State :=
  let p := s.pool k.stream.pool
  let g := p.geo e.form
  let heads := (List.range k.headCount).map (k.head0 + ·)
  let at_ := e.block + plane * p.planeStride e.form + (if isV then g.half else 0)
  let (v, s) := s.blockRead p.pen at_ g.half
  let units := heads.flatMap (fun h => if isV then g.vUnits v h else g.kUnits v h)
  if e.form = 0 then (units, s)
  else
    let (sc, s) := s.blockRead p.pen (e.scales + plane * p.sstr) p.sstr
    (units ++ heads.flatMap (fun h => if isV then g.vScales e.form sc h else g.kScales e.form sc h), s)

/-- The lanes of a page header or of the end marker (Table 7), from lane 0. -/
def headerBytes (l : List Nat) : List Byte := bytesOf 256 (packEl 32 l)

/-- Token map of the range within page `g`. -/
def Cmd.tokenMap (k : Cmd) (t g : Nat) : Nat :=
  let lo := Nat.max k.start (g * t) - g * t
  let hi := Nat.min (k.start + k.tokens) ((g + 1) * t) - g * t
  2 ^ hi - 2 ^ lo

def Cmd.pageHeader (k : Cmd) (p : Pool) (n : Nat) (e : Stall) : List Byte :=
  let t := p.toks
  let g := k.pageAt t
  let geo := p.geo e.form
  let map := k.tokenMap t g
  headerBytes ([k.planeAt t * 2 ^ 8, g, stallField k.stream.pool n e, g * t,
    Nat.min (k.start + k.tokens) ((g + 1) * t) - Nat.max k.start (g * t), e.fmt * 16 + e.fmt,
    geo.scaleOff e.form false k.headCount, geo.scaleOff e.form true k.headCount] ++
    (List.range 8).map (fun i => el 32 map i))

def Cmd.endMarker (k : Cmd) : List Byte := headerBytes [1, 0, 0xFFFFFFFF, k.start + k.tokens]

/-! ### Filling a slot (R317) -/

/-- The slot at a ring's producer cursor: none where the ring is undefined or the cursor stands within a slot. -/
def State.slotAtPc (s : State) (ctx : Nat) (h : BitVec 4) : Option Nat :=
  let r := (s.ctx ctx).ring h
  if r.n = 0 then none
  else match ringAt (s.tile (coreOf ctx)) r r.pc.toNat with
    | some (slot, 0) => some slot
    | _ => none

/-- The stream arms again a slot that was armed before its task left: the slot keeps its mass (R207, R353). -/
def State.rearming (s : State) (k : Cmd) (slot : Nat) : Bool := (s.ctx k.ctx).rearm.contains (k.cid, slot + 1)

/-- Pc moves to the end of a slot that a stream has filled or marked, which records its command and pair (R320). -/
def State.streamSlot (s : State) (k : Cmd) (slot : Nat) (f : TileEnt → TileEnt) : State :=
  let h := k.ringOf k.stream.ix
  let n := (s.tile k.core slot).lines.toNat
  let again := s.rearming k slot
  let s := s.updTile k.core slot (fun t => f { t with
    state := .ready, inflight := false, cid := k.cid, fill := some k, mass := if again then t.mass else 0, pend := none,
    stall := 0xFFFFFFFF })
  s.updCtx k.ctx (fun c => c.setRing h { c.ring h with pc := (c.ring h).pc + BitVec.ofNat 32 n })

/-- The slot is marked faulted (R206, R316). -/
def State.markSlot (s : State) (k : Cmd) (slot : Nat) (f : FailAt) : State :=
  s.streamSlot { k with fail := some f } slot (fun t => { t with faulted := true, fcode := BitVec.ofNat 8 f.code })

/-- Layouts of the three rings (R317). -/
def ringLayout (ix : Nat) : Nat := 3 + ix

/-- Why a slot cannot be filled. -/
def badSlot (t : TileEnt) (ix need : Nat) : Option Code :=
  if t.layout.toNat ≠ ringLayout ix then some .layoutMismatch
  else if t.bytes < need then some .ringMisuse
  else if ix < 2 ∧ t.group = 0 then some .ringMisuse
  else none

/-- The stream stops: it retires FAILED with the code of its failure; the fault is reported at the consumption of
the slots it has marked. -/
def State.stopStream (s : State) (k : Cmd) (f : FailAt) : State :=
  let s := s.retire k f.code false 5 k.pos
  s.settleDefers k.stream.pool

/-- A slot takes its bytes, zero past the need, and its fields. -/
def State.fillStream (s : State) (k : Cmd) (slot : Nat) (l : List Byte) (page : Option (Nat × Stall)) : State :=
  let t := s.tile k.core slot
  let s := s.padPut k.core t.byteBase t.bytes (ofBytes l)
  s.streamSlot k slot (fun t => match page with
    | some (n, e) => { t with
        faulted := false, fcode := 0, fmt := BitVec.ofNat 4 e.fmt,
        stall := BitVec.ofNat 32 (stallField k.stream.pool n e) }
    | none => { t with faulted := false, fcode := 0 })

/-! ### The stream as it runs -/

/-- Changes the stream of a command. -/
def State.updStream (s : State) (k : Cmd) (f : Stream → Stream) : State :=
  s.updCmd k (fun c => { c with stream := f c.stream })

/-- A failure: the slots still to be marked are those of `ix` upward. -/
def State.streamFails (s : State) (k : Cmd) (f : FailAt) (ix : Nat) : State :=
  s.updCmd k (fun c => { c with fail := some f, stream := { c.stream with ix := ix } })

/-- The stream resolves its handle and makes the checks of R316; what it resolved it keeps. -/
def State.startStream (s : State) (k : Cmd) : State :=
  let (q, s) := s.draw
  let (r, s) := s.resolve k.pen k.r1.toNat
  let bad (c : Code) : State :=
    s.updCmd k (fun x => { x with
      fail := some ⟨c.num, 0, 0, 0⟩, stream := { x.stream with started := true, seq := q, ix := 2 } })
  match r with
  | .error c => bad c
  | .ok (_, d) =>
    let p := s.pool d.pool
    if d.written < k.start + k.tokens ∨ p.planes < k.plane0 + k.planeCount ∨ p.heads < k.head0 + k.headCount then
      bad .kvExtent
    else s.updStream k (fun x => { x with started := true, seq := q, pool := d.pool, ext := d.ext, ix := 0 })

/-- The next pair begins: its stall entry is read once (R304), as one access (R394). -/
def State.readPair (s : State) (k : Cmd) : State :=
  let p := s.pool k.stream.pool
  let g := k.pageAt p.toks
  match pageStall k.stream.ext g with
  | none => s.streamFails k ⟨Code.kvExtent.num, kvAddr k.r1.toNat g, 0, 0⟩ 2
  | some n =>
    let e := s.stallAt k.stream.pool n
    let s := s.noteEntry p.pen (p.stallPa n) 32
    let s := s.updStream k (fun x => { x with
      cur := some (n, e.pack), seen := if x.seen.contains n then x.seen else n :: x.seen })
    if e.state = 2 then s.streamFails k ⟨Code.kvRecalled.num, kvAddr k.r1.toNat g, 0, 0⟩ 0
    else if e.tier = 1 then s.streamFails k ⟨Code.kvNotNear.num, kvAddr k.r1.toNat g, 0, 0⟩ 0
    else s

/-- The stall entry that a stream has read. -/
def unpackStall (v : Nat) : Stall := Stall.ofWords (el 64 v 0) (el 64 v 1) (el 64 v 2) (el 64 v 3)

/-- The bytes of the slot that comes next, and what it records of its page. -/
def State.nextSlot (s : State) (k : Cmd) : (List Byte × Option (Nat × Stall)) × State :=
  match k.stream.cur with
  | none => ((k.endMarker, none), s)
  | some (n, v) =>
    let e := unpackStall v
    let p := s.pool k.stream.pool
    if k.stream.ix = 2 then ((k.pageHeader p n e, none), s)
    else
      let (l, s) := s.kvSlotBytes k e (k.planeAt p.toks) (decide (k.stream.ix = 1))
      ((l, some (n, e)), s)

/-- After a slot: the next ring, then the next pair. -/
def Stream.advance (x : Stream) : Stream :=
  if x.ix < 2 then { x with ix := x.ix + 1 } else { x with ix := 0, pos := x.pos + 1, cur := Option.none }

/-- The slot of a pair that an earlier stream has filled in this ring, and that the ring has left, is not filled again
(R353; assumption log 17). -/
def Stream.skipped (x : Stream) : Bool := decide (x.pos < x.skips.getD x.ix 0)

/-- The slot at Pc takes its bytes, once budgets have admitted the fill and what it reads (R394, R396). -/
def State.streamTake (s : State) (k : Cmd) (slot : Nat) (last : Bool) : State :=
  let t := s.tile k.core slot
  match s.heldBy 2 (k.core / 16) with
  | some s => s
  | none =>
    let next (s : State) := s.asCmd k (fun s => s.nextSlot k)
    let l := (next s).1.1
    match badSlot t k.stream.ix l.length with
    | some c =>
      let f : FailAt := ⟨c.num, kvAddr k.r1.toNat (if last then 0 else k.pageAt (s.pool k.stream.pool).toks), 0, 0⟩
      (s.markSlot k slot f).stopStream k f
    | none =>
      match s.metered 2 (k.core / 16) true k.paid next with
      | (.error n, s) => s.updCmd k (fun c => { c with paid := n })
      | (.ok (l, page), s) =>
        let s := s.fillStream k slot l page
        let s := s.budgetCharge 2 (k.core / 16) ((l.length + 63) / 64)
        if last then (s.finishCmd k (k.pos + 1)).settleDefers k.stream.pool
        else s.updCmd k (fun c => { c with pos := c.pos + 1, paid := 0, stream := c.stream.advance })

/-- A persistent slot that holds the pair whose turn it is stands as it was saved, and is passed over (R207). -/
def State.passes (s : State) (k : Cmd) (t : TileEnt) : Bool :=
  decide ((s.ctx k.ctx).st = .parked .rearm) && t.persist && t.armed && (match t.fill with
    | some f => decide (f.kind = CmdKind.kv 8) && f.stream.ix == k.stream.ix && f.stream.pos == k.stream.pos
    | none => false)

/-- Pc moves past a slot, and the stream goes on. -/
def State.passSlot (s : State) (k : Cmd) (t : TileEnt) (last : Bool) : State :=
  let h := k.ringOf k.stream.ix
  let s := s.updCtx k.ctx (fun c => c.setRing h { c.ring h with pc := (c.ring h).pc + t.lines.setWidth 32 })
  if last then (s.finishCmd k k.pos).settleDefers k.stream.pool else s.updStream k Stream.advance

/-- The slot at Pc of the ring whose turn it is, once it is EMPTY and the ring has room for it (R210), is filled, or marked
with a failure. -/
def State.streamFill (s : State) (k : Cmd) (last : Bool) : State :=
  let h := k.ringOf k.stream.ix
  match s.slotAtPc k.ctx h with
  | none => s.stopStream k ⟨Code.ringMisuse.num, 0, 0, 0⟩
  | some slot =>
    let t := s.tile k.core slot
    let r := (s.ctx k.ctx).ring h
    if k.fail.isNone && s.passes k t then s.passSlot k t last
    else if t.state ≠ .empty ∨ ringLen (s.tile k.core) r < r.fill + t.lines.toNat then s
    else match k.fail with
      | some f =>
        let s := s.markSlot k slot f
        if k.stream.ix = 2 then s.stopStream k f else s.updStream k (fun x => { x with ix := x.ix + 1 })
      | none => s.streamTake k slot last

/-- The next step of a running stream. -/
def State.streamStep (s : State) (k : Cmd) : State :=
  let x := k.stream
  let t := (s.pool x.pool).toks
  if !s.lives k then (s.retire k 0 false 6 k.pos).settleDefers x.pool
  else if !x.started then s.paying k 2 (k.core / 16) (fun s => s.startStream k)
  else if k.fail.isSome then
    -- a ring that has had the pair and left it is not marked (R353)
    if x.cur.isSome && x.skipped then
      (match k.fail with
        | some f => if x.ix = 2 then s.stopStream k f else s.updStream k (fun x => { x with ix := x.ix + 1 })
        | none => s)
    else s.streamFill k false
  else if k.pairs t ≤ x.pos then
    if x.ix < 2 then s.updStream k (fun x => { x with ix := 2, cur := Option.none }) else s.streamFill k true
  else if x.skipped then s.updStream k Stream.advance
  else if x.cur.isNone then s.paying k 2 (k.core / 16) (fun s => s.readPair k)
  else s.streamFill k false

/-- KVATT_SLOT_FILL (R317): the stream of a command moves on. -/
def execKvattSlotFill (ctx cid : Nat) (s : State) : Out :=
  .next (match s.cmd ctx (BitVec.ofNat 16 cid) with
    | some k => if k.st = .running ∧ k.kind = .kv 8 then s.streamStep k else s
    | none => s)

end Sys2Proof.Machine
end

