-- ==== Sys2Proof/Machine/Rearm.lean ====
section
/-! DEFINITION. Re-arming the rings of a task before it restarts (R108, R320). -/

namespace Sys2Proof.Machine

/-- Owned slots that R108 refills: armed by an engine fill and not persistent, or armed by the fill that the fault record
names as the cause, which R108 reissues `as well`, also where the slot is persistent (R207; assumption log 93); with the
fill that armed each. -/
def State.armedFills (s : State) (ctx : Nat) : List (Nat × Cmd) :=
  (s.ownedSlots ctx).filterMap (fun i =>
    let t := s.tile (coreOf ctx) i
    if t.armed && (!t.persist || (s.ctx ctx).cause == some t.cid) then t.fill.map (fun k => (i, k)) else none)

/-- The first pair that a reissued stream fills in ring `ix`: the earliest that is armed there; where none is, the
pair that the stream would have filled next in that ring (assumption log 17). `live` is the stream where it was stopped,
`none` where it had ended. -/
def skipOf (live : Option Cmd) (armed : List Cmd) (ix : Nat) : Nat :=
  let after (x : Stream) : Nat := if x.ix ≤ ix then x.pos else x.pos + 1
  match (armed.filter (fun k => k.stream.ix == ix)).map (fun k => k.stream.pos) with
  | p :: r => r.foldl Nat.min p
  | [] =>
    match live with
    | some k => Nat.max (k.stream.skips.getD ix 0) (after k.stream)
    | none =>
      match armed.find? (fun k => k.fail.isSome) with
      | some k =>
        Nat.max (k.stream.skips.getD ix 0) (if k.stream.cur.isNone then k.stream.pos else after k.stream)
      | none => 2 ^ 64

/-- A stream as it is issued again, from where it stopped (`live`) and the slots that it armed: it starts at one pair for all
three rings, the earliest armed, or the one it would have filled next (R320); from there on, a ring takes no pair again that
it has had and left, so that the rerun meets the data of the first run (R353). -/
def restream (live : Option Cmd) (armed : List Cmd) : Option Cmd :=
  match live.or armed.head? with
  | none => none
  | some k =>
    let sk := (List.range 3).map (skipOf live armed)
    some { k with
      pos := 0, done := 0, paid := 0, fail := Option.none, aborted := false,
      stream := { Stream.none with pos := sk.foldl Nat.min (sk.getD 0 0), skips := sk } }

/-- Pc of a stream's ring moves back over a slot. -/
def State.rewindPc (s : State) (ctx slot : Nat) (k : Cmd) : State :=
  let h := k.ringOf k.stream.ix
  let n := (s.tile (coreOf ctx) slot).lines
  s.updCtx ctx (fun c => c.setRing h { c.ring h with pc := (c.ring h).pc - n.setWidth 32 })

/-- A slot that a stream is to fill again: it is EMPTY but for its mass (R207), and Pc stands before it. -/
def State.rewindSlot (s : State) (ctx slot : Nat) (k : Cmd) : State :=
  (s.rewindPc ctx slot k).updTile (coreOf ctx) slot (fun t => { t with
    state := .empty, inflight := false, fill := none, faulted := false, fcode := 0 })

/-- Persistent slots of the streams `st` that stand behind a slot to be filled again in its ring: Pc moves back over them
too. -/
def State.keptSlots (s : State) (ctx : Nat) (st : List (Nat × Cmd)) : List (Nat × Cmd) :=
  (s.ownedSlots ctx).filterMap (fun i =>
    let t := s.tile (coreOf ctx) i
    match t.fill with
    | none => none
    | some k =>
      if t.armed && t.persist && !st.any (fun f => f.1 == i) && st.any (fun f =>
          f.2.cid == k.cid && f.2.stream.ix == k.stream.ix && decide (f.2.stream.pos < k.stream.pos)) then some (i, k)
      else none)

/-- The context begins to re-arm: the streams and the slots that it reissues are noted (R108). Slots that an earlier re-arming,
which a pre-emption has cut short, had still to fill again stay noted, so that they keep their mass (R353). -/
def State.rearmStart (s : State) (ctx : Nat) : State :=
  let fills := s.armedFills ctx
  let isStream (k : Cmd) : Bool := decide (k.kind = CmdKind.kv 8)
  let st := fills.filter (fun f => isStream f.2)
  let stopped := (s.ctx ctx).halted
  let ids := (stopped.map (fun (k : Cmd) => k.cid) ++ st.map (fun f => f.2.cid)).dedup
  let streams := ids.filterMap (fun id =>
    restream (stopped.find? (fun (k : Cmd) => k.cid == id)) ((st.filter (fun f => f.2.cid == id)).map Prod.snd))
  let kept := s.keptSlots ctx st
  let s := kept.foldl (fun (s : State) (f : Nat × Cmd) => s.rewindPc ctx f.1 f.2) s
  let s := st.foldl (fun (s : State) (f : Nat × Cmd) => s.rewindSlot ctx f.1 f.2) s
  s.updCtx ctx (fun c => { c with
    st := .parked .rearm, halted := streams, todo := (fills.filter (fun f => !isStream f.2)).map Prod.fst,
    rearm := c.rearm.filter (fun r => r.2 != 0 && decide ((s.tile (coreOf ctx) (r.2 - 1)).state = .empty)) ++
      st.map (fun f => (f.2.cid, f.1 + 1)), cause := none, leave := none })

/-- A command of the context as it is issued again: a new one, under the next id, with no predecessor. -/
def State.anew (s : State) (ctx : Nat) (k : Cmd) : Cmd :=
  { k with
    ctx := ctx, core := coreOf ctx, task := (s.ctx ctx).task, cid := (s.ctx ctx).nextcid, st := .waiting, inRegion := false,
    aborted := false, preds := [], ord := 0, pos := 0, fail := Option.none, done := 0, got := [],
    paid := 0, rel := s.nextRel, at_ := 0 }

/-- A command of the context is issued again, once its id is free and its queue has room. -/
def State.issueAgain (s : State) (ctx : Nat) (k : Cmd) : Option (Cmd × State) :=
  let n := s.anew ctx k
  if (s.ctx ctx).idBusy then none
  else match s.arrive n with
    | (false, _) => none
    | (true, s) => some (n, s.updCtx ctx (fun c => { c with
        nextcid := n.cid + 1,
        status := sput 0 c.status (n.cid.toNat % 64) (statusWord n.cid 0 false 2 0) }))

/-- The command enters the machine. -/
def State.enter (s : State) (k : Cmd) : State :=
  let s := { s with cmds := s.cmds ++ [k] }
  (s.tryStart k).getD (s.updCmd k (fun c => { c with at_ := s.arrival k }))

/-- What a reissue must have done before the task restarts: a fill has retired, a stream has armed the slot again. -/
def State.rearmed (s : State) (ctx : Nat) (r : BitVec 16 × Nat) : Bool :=
  (s.cmd ctx r.1).isNone || (r.2 != 0 && decide ((s.tile (coreOf ctx) (r.2 - 1)).state ≠ .empty))

/-- The next step of the re-arming: a stream or a fill is reissued, or the task restarts. -/
def State.rearmStep (s : State) (ctx : Nat) : State :=
  let c := s.ctx ctx
  if c.st ≠ .parked .rearm then s
  else match c.halted, c.todo with
    | k :: r, _ =>
      match s.issueAgain ctx k with
      | none => s
      | some (n, s) =>
        (s.updCtx ctx (fun c => { c with
          halted := r, rearm := c.rearm.map (fun x => if x.1 = k.cid then (n.cid, x.2) else x) })).enter n
    | [], i :: r =>
      match (s.tile (coreOf ctx) i).fill with
      | none => s.updCtx ctx (fun c => { c with todo := r })
      | some k =>
        match s.issueAgain ctx k with
        | none => s
        | some (n, s) =>
          let s := s.updCtx ctx (fun c => { c with todo := r, rearm := c.rearm ++ [(n.cid, 0)] })
          let n := { n with slot := some i }
          (s.updTile (coreOf ctx) i (fun t => { t with
            state := .filling, inflight := true, cid := n.cid, fill := some n, faulted := false, fcode := 0 })).enter n
    | [], [] =>
      if c.rearm.all (s.rearmed ctx) then s.updCtx ctx (fun c => { c with st := .ready, rearm := [] }) else s

/-- TASK_RESTART (R108). -/
def execTaskRestart (ctx : Nat) (s : State) : Out := .next (s.rearmStep ctx)

end Sys2Proof.Machine
end

