-- ==== Sys2Proof/Machine/Routes.lean ====
section
/-! DEFINITION. Routes of the torus: directions, links that take flits, and the path of a request (R400, R401, R404). -/

namespace Sys2Proof.Machine

def State.link (s : State) (n : Nat) : Link := sget Link.reset s.links n
def State.setLink (s : State) (n : Nat) (l : Link) : State := { s with links := sput Link.reset s.links n l }
def State.updLink (s : State) (n : Nat) (f : Link → Link) : State := s.setLink n (f (s.link n))

/-- The direction of the first hop from package `a` to `b`: x, then y, then z; the shorter way, at distance 2 the + way.
Link n is link n mod 2 of direction n / 2, with directions numbered as in Table 1 of R411. -/
def firstHop (a b : Nat) : Option Nat :=
  let d (sh : Nat) : Nat := (b / sh % 4 + 4 - a / sh % 4) % 4
  let way (dim dist : Nat) : Nat := 2 * dim + (if dist = 3 then 1 else 0)
  if d 1 ≠ 0 then some (way 0 (d 1)) else if d 4 ≠ 0 then some (way 1 (d 4))
  else if d 16 ≠ 0 then some (way 2 (d 16)) else none

/-- The package at the other end of the links of a direction. -/
def neighbour (p dir : Nat) : Nat :=
  let sh := 4 ^ (dir / 2)
  let c := p / sh % 4
  p - c * sh + (if dir % 2 = 0 then c + 1 else c + 3) % 4 * sh

/-- A link takes new flits: it is up, and its controller is not being updated (R404, R411). -/
def State.linkOk (s : State) (n : Nat) : Bool := (s.link n).up && !s.updating (2 + n)

/-- The direction in which a message for a package sets out: that of its path, or, where it has been sent round the ring the
other way, the one in which it travels (R404). -/
def headed (pkg dst : Nat) (travel : Option Nat) : Option Nat :=
  (firstHop pkg dst).map (fun d => match travel with
    | some t => if t / 2 = d / 2 then t else d
    | none => d)

/-- The links that a destination and a class may take, first the one of R401: bits(dst ^ class, 0, 0) of the direction; its
sibling; the other way around the ring (R404). -/
def linksFor (pkg dst cls : Nat) (travel : Option Nat) : List Nat :=
  match headed pkg dst travel with
  | none => []
  | some d =>
    let b := (dst ^^^ cls) % 2
    [2 * d + b, 2 * d + (1 - b), 2 * (d ^^^ 1) + b, 2 * (d ^^^ 1) + (1 - b)]

/-- Class of a message (Table 2), and its destination. -/
def Outbound.head : Outbound → Nat × Nat
  | .store _ d _ _ => (0, d)
  | .load _ d _ _ => (0, d)
  | .atomic _ d _ _ _ _ _ => (0, d)
  | .response d _ _ => (1, d)
  | .send bulk _ _ d _ _ => (if bulk then 2 else 0, d)
  | .giveBack d _ => (3, d)
  | .lend d _ _ => (3, d)
  | .recall d _ _ => (3, d)
  | .event d _ => (3, d)
  | .transit c d _ _ => (c, d)

/-- The direction in which a message travels, for one that has come over a link. -/
def Outbound.travel : Outbound → Option Nat
  | .transit _ _ t _ => some t
  | _ => none

/-- The link that a message takes now. -/
def State.route (s : State) (m : Outbound) : Option Nat :=
  (linksFor s.pkg m.head.2 m.head.1 m.travel).find? s.linkOk

end Sys2Proof.Machine
end

