-- ==== Sys2Proof/Machine/KvTiers.lean ====
section
/-! DEFINITION. Pages across tiers: requantisation, the drover's moves, agistment, and the service of
`KV_NOT_NEAR` (R323 to R337). -/

namespace Sys2Proof.Machine

/-! ### Requantisation (R327, R328) -/

/-- Bytes of a block of a form (Table 1). -/
def Pool.blockBytes (p : Pool) (form : Nat) : Nat := p.planes * p.planeStride form

/-- One plane's half: scale codes and elements, in order. -/
structure Half where
  scales : List Nat
  elems : List Nat
  deriving DecidableEq, Repr

/-- A native half in the FP8 form: one scale for each head. -/
def halfFp8 (g : Geo) (nfmt v fill : Nat) : Half :=
  let x (i : Nat) : FV := valueOf nfmt (el 16 v i)
  let n := g.t * g.d
  let heads := (List.range g.h).map (fun h =>
    (fp8Scale ((List.range (Nat.min fill g.t * g.d)).map (fun i => x (h * n + i))), h))
  ⟨heads.map Prod.fst, heads.flatMap (fun ch => (List.range n).map (fun i =>
    if fill * g.d ≤ i then 0 else if ch.1 = 0xFF then 0x7F else (fp8Elem ch.1 (x (ch.2 * n + i))).1))⟩

/-- An FP8 half in the MXFP4 form: groups along the head for K, along tokens for V (R325). -/
def halfMx4 (g : Geo) (isV : Bool) (a : Half) (fill : Nat) : Half :=
  let codes := packEl 8 a.scales
  let v := packEl 8 a.elems
  let x (h tok j : Nat) : FV :=
    if tok < fill then scaledFV (el 8 codes h) (fmtE4m3.decode (el 8 v ((h * g.t + tok) * g.d + j))) else .fin false 0 0
  let part (n grp : Nat) : List Nat := (List.range (Nat.min 32 (n - 32 * grp))).map (32 * grp + ·)
  let scales := if isV then
      (List.range g.h).flatMap (fun h => (List.range g.d).flatMap (fun j => (List.range (groupsOf g.t)).map (fun grp =>
        mx4Scale ((part g.t grp).map (fun tok => x h tok j)))))
    else
      (List.range g.h).flatMap (fun h => (List.range g.t).flatMap (fun tok => (List.range (groupsOf g.d)).map (fun grp =>
        mx4Scale ((part g.d grp).map (fun j => x h tok j)))))
  let sc := packEl 8 scales
  let at_ (h tok j : Nat) : Nat :=
    if isV then (h * g.d + j) * groupsOf g.t + tok / 32 else (h * g.t + tok) * groupsOf g.d + j / 32
  ⟨scales, (List.range g.h).flatMap (fun h => (List.range g.t).flatMap (fun tok => (List.range g.d).map (fun j =>
    if fill ≤ tok then 0 else (mx4Elem (el 8 sc (at_ h tok j)) (x h tok j)).1)))⟩

/-- A plane of a page in its target form, from the plane's source bytes and scales: halves and scales. -/
def Pool.requantPlane (p : Pool) (form0 form fill data sc : Nat) : List Half :=
  let g := p.geo 0
  (List.range 2).map (fun kv =>
    let fp8 : Half := if form0 = 0 then halfFp8 g p.nfmt (data / 2 ^ (8 * (kv * p.half))) fill
      else
        let n := g.h * g.t * g.d
        ⟨(List.range g.h).map (fun h => el 8 sc (kv * g.h + h)), (List.range n).map (fun i => el 8 data (kv * n + i))⟩
    if form = 1 then fp8 else halfMx4 g (kv == 1) fp8 fill)

/-- Writes the planes of a requantised page and its scale area. -/
def State.requant (s : State) (p : Pool) (e : Stall) (form block area data : Nat) : State :=
  let w := if form = 1 then 8 else 4
  (List.range p.planes).foldl (fun s l =>
    let (sc, s) := if e.scales = 0 then (0, s) else s.blockRead p.pen (e.scales + l * p.sstr) p.sstr
    let hs := p.requantPlane e.form form e.fill (data / 2 ^ (8 * (l * p.planeStride e.form))) sc
    let els := hs.flatMap Half.elems
    let s := s.blockWrite p.pen (block + l * p.planeStride form) ((els.length * w + 7) / 8) (packEl w els)
    s.blockWrite p.pen (area + l * p.sstr) p.sstr (packEl 8 (hs.flatMap Half.scales))) s

/-- A page that keeps its form takes its scales with it to a new area. -/
def State.copyScales (s : State) (p : Pool) (e : Stall) (area : Nat) : State :=
  let n := p.sstr * p.planes
  let (v, s) := s.blockRead p.pen e.scales n
  s.blockWrite p.pen area n v

/-! ### Moves (R332) -/

/-- The bytes of a page's block, expanded where it is far (R330); none where the stream is malformed. -/
def State.pageBytes (s : State) (p : Pool) (e : Stall) : Option Nat × State :=
  let b := p.blockBytes e.form
  if e.tier ≠ 1 then
    let (v, s) := s.blockRead p.pen e.block b
    (some v, s)
  else
    let n := (b + 255) / 256
    let (h, s) := s.blockRead p.pen e.block 16
    match headerTotal h e.fmt n with
    | none => (none, s)
    | some t =>
      let (v, s) := s.blockRead p.pen e.block t
      ((expand n (bytesOf t v)).map (fun l => ofBytes (l.take b)), s)

/-- `n` bytes from a near address meet a marked table frame (R223). -/
def State.inTframe (s : State) (pa n : Nat) : Bool :=
  decide (pa < 2 ^ 39) && s.tframes.any (fun f => decide (pa / 2 ^ 16 ≤ f) && decide (f ≤ (pa + n - 1) / 2 ^ 16))

/-- Step 1 of R332: the target block, and a scale area where the target form is quantised; none where a stack is empty,
and where the page stands in a marked frame, which the drover refuses to migrate (R223; assumption log 78). -/
def State.beginMove (s : State) (pool n die : Nat) (why : MoveWhy) (tier form : Nat) : Option State :=
  let e := s.stallAt pool n
  if s.inTframe e.block ((s.pool pool).blockBytes e.form) then none
  else match s.popStack pool (if tier = 2 then 7 else stackOf tier form) with
  | none => none
  | some (b, s) =>
    let r : Option (Nat × State) := if form = 0 then some (0, s) else s.popStack pool 6
    match r with
    | none => none
    | some (a, s) =>
      let (q, s) := s.draw
      let s := s.updPool pool (fun p => { p with moves := p.moves ++ [⟨die, n, why, b, a, form, tier, q, 0⟩] })
      some (if tier = 0 ∧ form = 0 then s.pressureTest pool else s)

/-- Format code of a form in a pool. -/
def Pool.formFmt (p : Pool) (form : Nat) : Nat := if form = 0 then p.nfmt else if form = 1 then 3 else 5

/-- Steps 3 to 5 of R332; false where the source does not expand, and the move is undone. -/
def State.endMove (s : State) (pool : Nat) (m : PageMove) : Bool × State :=
  let p := s.pool pool
  let e := s.stallAt pool m.stall
  match s.pageBytes p e with
  | (none, s) => (false, s.abandonMove pool m.stall)
  | (some v, s) =>
    let b := p.blockBytes e.form
    let s := if m.form ≠ e.form then s.requant p e m.form m.block m.area v
      else if m.tier = 1 then
        let l := compress e.fmt (bytesOf b v)
        s.blockWrite p.pen m.block l.length (ofBytes l)
      else s.blockWrite p.pen m.block b v
    let s := if m.form = e.form ∧ m.form ≠ 0 then s.copyScales p e m.area else s
    let s := s.setStall pool m.stall { e with
      block := m.block, tier := m.tier, fmt := p.formFmt m.form, scales := m.area,
      lender := if m.tier = 2 then pkgOf m.block else 0 }
    let (q, s) := s.draw
    let s := s.updPool pool (fun p => { p with moves := p.moves.filter (fun x => x.stall != m.stall) })
    (true, s.addDefers pool (blockDefers q m.stall e))

/-! ### Pressure (R322, R333) -/

/-- `a` gives up its block before `b`: class, heat, age, number. -/
def evictBefore (p : Pool) (a b : Nat × Stall) : Bool :=
  let age (x : Stall) : Nat := (p.period + 256 - x.stamp) % 256
  if a.2.cls ≠ b.2.cls then decide (b.2.cls < a.2.cls)
  else if p.effHeat a.2 ≠ p.effHeat b.2 then decide (p.effHeat a.2 < p.effHeat b.2)
  else if age a.2 ≠ age b.2 then decide (age b.2 < age a.2)
  else decide (a.1 ≤ b.1)

/-- The candidates of a pool, in order (R322), those whose move has begun among them. -/
def State.candidates (s : State) (pool : Nat) : List (Nat × Stall) :=
  let p := s.pool pool
  isort (evictBefore p) (((List.range (2 ^ p.lstalls)).map (fun n => (n, s.stallAt pool n))).filter (fun ne =>
    ne.2.state == 1 && ne.2.tier == 0 && ne.2.cls != 0 && ne.2.fill == p.toks))

/-- Where a candidate goes: tier and form. -/
def Pool.pressTo (p : Pool) (e : Stall) : Nat × Nat :=
  let step := bits p.tpol.toNat 9 8
  if (step = 1 ∨ step = 2) ∧ e.form < step then (0, step)
  else if bit p.tpol.toNat 10 ∧ p.stackFree 7 ≠ 0 then (2, e.form)
  else (1, e.form)

/-- The first candidate whose move can begin; those whose move fails are passed over, and a busy one waits (R332, R333). -/
def State.pressOne (s : State) (pool die : Nat) (but : Option Nat) : Option State :=
  if bits (s.pool pool).tpol.toNat 9 8 = 0 then none
  else (s.candidates pool).findSome? (fun ne =>
    if some ne.1 = but ∨ s.stallBusy pool ne.1 then none
    else
      let t := (s.pool pool).pressTo ne.2
      s.beginMove pool ne.1 die .pressure t.1 t.2)

/-- Pressure moves of a pool go on until the value reaches high or no candidate remains. -/
def State.pressStep (s : State) (pool die : Nat) : Option State :=
  let p := s.pool pool
  if !p.pressing then none
  else if (bits p.tpol.toNat 47 32 : Int) ≤ p.spare then some (s.updPool pool (fun p => { p with pressing := false }))
  else match s.pressOne pool die none with
    | some s => some s
    | none =>
      if (s.candidates pool).any (fun ne => s.stallBusy pool ne.1) then none
      else some (s.updPool pool (fun p => { p with pressing := false }))

/-! ### `KV_NOT_NEAR` (R334) -/

/-- The service of a task ends: it becomes placeable, or re-arms its rings on its context (R108). -/
def State.serviceDone (s : State) (task : Nat) : State :=
  match sfind s.tasks task with
  | none => s
  | some t =>
    match t.st with
    | .near _ _ => { s with tasks := sset s.tasks task { t with st := .saved, relief := false } }
    | .on c =>
      let s := { s with tasks := sset s.tasks task { t with relief := false } }
      match (s.ctx c).st with
      | .parked (.near _ _) => s.rearmStart c
      | _ => s
    | _ => s

/-- Handle and page that a task waits for, and the context it faulted on. A task that is to be saved has been before its
service begins (R334). -/
def State.nearWait (s : State) (task : Nat) : Option (Nat × Nat × Nat) :=
  match sfind s.tasks task with
  | none => none
  | some t =>
    match t.st with
    | .near h g => some (h, g, t.last)
    | .on c => match (s.ctx c).st with
      | .parked (.near h g) => if (s.ctx c).leave.isSome then none else some (h, g, c)
      | _ => none
    | _ => none

/-- Pen of a task's job. -/
def State.taskPen (s : State) (task : Nat) : Nat :=
  match sfind s.tasks task with
  | none => 0
  | some t => match sfind s.jobs t.job with
    | some j => j.pen
    | none => 0

/-- The drover takes up the page of a task: it ends the service, begins the promotion, or makes room for it. -/
def State.nearStep (s : State) (task : Nat) : State :=
  match s.nearWait task with
  | none => s
  | some (h, g, ctx) =>
    match s.resolve (s.taskPen task) h with
    | (.error _, s) => s.serviceDone task
    | (.ok (_, d), s) =>
      match pageStall d.ext g with
      | none => s.serviceDone task
      | some n =>
        let e := s.stallAt d.pool n
        if e.state = 2 then s.draw.2.terminate Code.kvRecalled.num s.seq task
        else if e.tier ≠ 1 then s.serviceDone task
        else if s.stallBusy d.pool n then s
        else match s.heldBy 1 (ctx / 256) with
          | some s => s
          | none =>
            match s.beginMove d.pool n (ctx / 256) (.near task) 0 e.form with
            | some s => s
            | none =>
              match sfind s.tasks task with
              | none => s
              | some t =>
                if t.relief then s
                else match s.pressOne d.pool (ctx / 256) (some n) with
                  | none => s
                  | some s => { s with tasks := sset s.tasks task { t with relief := true } }

/-- A die's drover has a move that has not ended. -/
def State.droverBusy (s : State) (die : Nat) : Bool :=
  s.pools.any (fun kp => kp.2.moves.any (fun m => m.die == die))

/-! ### Agistment (R335 to R337) -/

/-- A block in the remote range, as this package names it to others (R217). -/
def State.afar (s : State) (b : Nat) : Nat := if b < 2 ^ 39 then 2 ^ 51 + s.pkg * 2 ^ 40 + b else b

/-- LEND (R335): the blocks join the agisted stack. -/
def execLendMessage (pool : Nat) (blocks : List Nat) (s : State) : Out :=
  .next (blocks.foldl (fun s b => s.pushStack pool 7 b) s)

/-- A lent block is back with its lender, on free stack 0; one that is not lent, having passed back already, is ignored
(R336). -/
def State.takeBack (s : State) (pool b : Nat) : State :=
  if (s.pool pool).lent.any (fun l => l.block == b) then
    (s.updPool pool (fun p => { p with lent := p.lent.filter (fun l => l.block != b) })).pushStack pool 0 (s.home b)
  else s

/-- RETURN (R335). -/
def execReturnMsg (pool : Nat) (blocks : List Nat) (s : State) : Out :=
  .next (blocks.foldl (fun s b => s.takeBack pool b) s)

/-- The entries of a stack, from the bottom. -/
def State.stackList (s : State) (pool k : Nat) : List Nat :=
  let p := s.pool pool
  (List.range (p.stackFree k)).map (fun i => s.physRead (p.stackBase k + 8 * i) 8)

/-- A stack that has been searched holds a list. -/
def State.setStack (s : State) (pool k : Nat) (l : List Nat) : State :=
  let p := s.pool pool
  let s := s.hbmRequest p.pen (p.stackBase k) (8 * p.stackFree k)
  ((s.physWrite none (p.stackBase k) (8 * l.length) (packEl 64 l)).hbmRequest p.pen (p.stackBase k)
    (8 * l.length)).setPool pool (p.setFree k l.length)

/-- Time in ns by the cycles of cluster 0, of 1.25 ns each (R399), in which deadlines of RECALLs are kept (assumption log
79). -/
def State.time (s : State) : Nat := (s.cluster 0).cycle * 5 / 4

/-- A LIVE stall stands on a block of a lender. -/
def State.lentStall (s : State) (pool b : Nat) : Option Nat :=
  (List.range (2 ^ (s.pool pool).lstalls)).find? (fun n =>
    let e := s.stallAt pool n
    e.state == 1 && e.tier == 2 && e.block == b)

/-- A named block is still in use here: a LIVE stall stands on it, or a page is being moved to it. Any other has gone back before
the RECALL came, or is on its way back (R337). -/
def State.recallable (s : State) (pool b : Nat) : Bool :=
  (s.lentStall pool b).isSome || (s.pool pool).moves.any (fun m => m.tier == 2 && m.block == b)

/-- RECALL (R336): named blocks on the agisted stack go back at once; the stalls on the others are moved ahead of
other work, until the deadline, in ns from its receipt. -/
def execRecall (pool : Nat) (blocks : List Nat) (deadline : Nat) (s : State) : Out :=
  let l := s.stackList pool 7
  let back := l.filter (fun b => blocks.contains b)
  let s := if back.isEmpty then s else s.setStack pool 7 (l.filter (fun b => !blocks.contains b))
  let s := back.foldl (fun s b => s.send (.giveBack (pkgOf b) [b])) s
  .next (s.updPool pool (fun p => { p with
    recalls := p.recalls ++ [(s.time + deadline, blocks.filter (fun b => !l.contains b && s.recallable pool b))] }))

/-- The RECALL whose deadline comes first, the older where two are equal. -/
def firstRecall : List (Nat × List Nat) → Option (Nat × List Nat)
  | [] => none
  | r :: l => some (l.foldl (fun a b => if b.1 < a.1 then b else a) r)

/-- At the deadline a stall still on a named block becomes RECALLED, and the block is the lender's. -/
def State.expire (s : State) (pool n : Nat) (blocks : List Nat) : State :=
  let e := s.stallAt pool n
  if e.state = 1 ∧ e.tier = 2 ∧ blocks.contains e.block then
    ((s.abandonMove pool n).setStall pool n { e with state := 2 }).updPool pool (fun p => { p with
      recalled := Nat.min (2 ^ 32 - 1) (p.recalled + 1) })
  else s

/-- The first deadline among the blocks that this package recalls. -/
def firstDue (l : List Lent) : Option Nat :=
  match l.filterMap Lent.recalled with
  | [] => none
  | d :: r => some (r.foldl Nat.min d)

/-- RECALL_DEADLINE (R336): of the RECALL received that is due first; where none is, of the first of what this package recalls
itself: those blocks are back without a RETURN. -/
def execRecallDeadline (pool : Nat) (s : State) : Out :=
  let p := s.pool pool
  .next (match firstRecall p.recalls with
    | some r =>
      let s := (List.range (2 ^ p.lstalls)).foldl (fun s n => s.expire pool n r.2) s
      s.updPool pool (fun p => { p with recalls := p.recalls.erase r })
    | none => match firstDue p.lent with
      | none => s
      | some d => (p.lent.filter (fun l => l.recalled == some d)).foldl (fun s l => s.takeBack pool l.block) s)

/-- The next recall move of a pool: to a near block of its form when one is free, else to the far yard. -/
def State.recallStep (s : State) (pool die : Nat) : Option State :=
  (((s.pool pool).recalls.flatMap Prod.snd).filterMap (s.lentStall pool)).findSome? (fun n =>
    if s.stallBusy pool n then none
    else
      let f := (s.stallAt pool n).form
      match s.beginMove pool n die .recall 0 f with
      | some s => some s
      | none => s.beginMove pool n die .recall 1 f)

/-- The lending firmware takes near blocks off free stack 0, up to `n` (R335). -/
def State.lendBlocks (s : State) (pool : Nat) : Nat → List Nat × State
  | 0 => ([], s)
  | n + 1 =>
    match s.popStack pool 0 with
    | none => ([], s)
    | some (b, s) =>
      let (l, s) := s.lendBlocks pool n
      (s.afar b :: l, s)

/-- The lender's side of Table 5: LEND and RECALL leave for a torus neighbour (R335, R336), which the choice names by its
direction, of as many blocks as one flit names. -/
def State.lendStep (s : State) (pool : Nat) : State :=
  if !(s.pool pool).enable then s
  else
    let c := Config.agistChoice s.free
    let s := { s with free := s.free + 1 }
    match c with
    | [0, d, yard, n] =>
      let dst := neighbour s.pkg (d % 6)
      let (l, s) := s.lendBlocks pool (Nat.min n 16)
      if l.isEmpty then s
      else
        let s := s.updPool pool (fun p => { p with lent := p.lent ++ l.map (fun b => ⟨dst, b, none⟩) })
        (s.pressureTest pool).send (.lend dst yard l)
    | [1, d, ns] =>
      let dst := neighbour s.pkg (d % 6)
      let l := ((s.pool pool).lent.filter (fun l => l.dst == dst && l.recalled.isNone)).take 16
      if l.isEmpty then s
      else
        let s := s.updPool pool (fun p => { p with lent := p.lent.map (fun (x : Lent) =>
          if l.contains x then { x with recalled := some (s.time + ns) } else x) })
        s.send (.recall dst (l.map Lent.block) ns)
    | _ => s

/-! ### The service of `KV_NOT_NEAR` (R334) -/

/-- Pools whose pressure and recall moves run on a die (R331). -/
def diePools (die : Nat) : List Nat := [die, die + 4]

/-- A recall move of a die can begin: it stands ahead of all other work of its drover (R336). -/
def State.recallDue (s : State) (die : Nat) : Bool := (diePools die).any (fun n => (s.recallStep n die).isSome)

/-- KV_NOT_NEAR_SERVICE (R334): once the drover of the faulting context's die is free. -/
def execKvNotNearService (task : Nat) (s : State) : Out :=
  .next (match s.nearWait task with
    | some (_, _, ctx) =>
      let die := ctx / 256
      if s.droverBusy die || s.updating (26 + die) || s.recallDue die then s
      else s.meterUnit (164 + die) 1 die (fun s => s.nearStep task)
    | none => s)

end Sys2Proof.Machine
end

