-- ==== Sys2Proof/Machine/Drover.lean ====
section
/-! DEFINITION. The tier commands and the drovers that run them (R331, R338 to R342). -/

namespace Sys2Proof.Machine

/-! ### Issue (R338) -/

/-- Bits of x[rs2] that the packed operand of an operation has (Table 6). -/
def tierMask (op : Nat) : Nat :=
  match op with
  | 0 => 2 ^ 50 - 1
  | 1 => 2 ^ 48 - 1
  | _ => 2 ^ 60 - 1

def Cmd.tierReserved (k : Cmd) (op : Nat) : Bool :=
  badHandle k.r1.toNat || decide (k.r2.toNat &&& tierMask op ≠ k.r2.toNat) || (op == 3 && k.wide 0x100 3)

/-- A command of major 0x33. -/
def issueTier (op : Nat) (o : EngOp) (s : State) : State :=
  command s (fun s =>
    let k := s.newCmd (.tier op) true o.ord (s.pre.x o.rs1) (s.pre.x o.rs2)
    if k.tierReserved op then s.fault .reservedField else s.submit k o.pm (fun k s => (k, s)))

def execKvdemote (o : EngOp) (s : State) : Out := guarded o.g (issueTier 0 o) s
def execKvpromote (o : EngOp) (s : State) : Out := guarded o.g (issueTier 1 o) s
def execKvexport (o : EngOp) (s : State) : Out := guarded o.g (issueTier 2 o) s
def execKvimport (o : EngOp) (s : State) : Out := guarded o.g (issueTier 3 o) s

/-! ### `kvdemote` and `kvpromote` (R339, R340) -/

/-- A tier command fails with `left` pages not done: its progress counts the pages changed, and its record the 64 KiB pages that
have faulted (R231, R232). -/
def State.failTier (s : State) (k : Cmd) (f : KvFail) (left : Nat) : State :=
  s.failCmd k ⟨f.1.num, f.2.1, left, f.2.2.2⟩ f.2.2.1 false k.stream.pos

/-- One past the last page that a command deals with: of a demotion or promotion, and of an export whose descriptor it has
found (assumption log 27). -/
def State.tierEnd (s : State) (k : Cmd) : Nat :=
  match k.kind, k.stream.cur with
  | .tier 2, some (i, _) => (s.desc k.pen i).pages
  | .tier 2, none => 0
  | _, some (_, last) => last + 1
  | _, none => bits k.r2.toNat 31 0 + bits k.r2.toNat 47 32

/-- The page that a command deals with next. -/
def Cmd.tierPage (k : Cmd) : Nat :=
  match k.kind with
  | .tier 2 => 0
  | _ => bits k.r2.toNat 31 0 + k.pos

/-- It fails with a code alone, or at a page of its sequence. -/
def State.failBare (s : State) (k : Cmd) (c : Code) : State := s.failTier k (c, 0, false, 0) (s.tierEnd k - k.tierPage)
def State.failPage (s : State) (k : Cmd) (c : Code) (g : Nat) : State :=
  s.failTier k (c, kvAddr k.r1.toNat g, true, 0) (s.tierEnd k - g)

/-- A page of the command has been dealt with. -/
def State.nextPage (s : State) (k : Cmd) (changed : Nat) : State :=
  s.updCmd k (fun c => { c with pos := c.pos + 1, stream := { c.stream with pos := c.stream.pos + changed } })

/-- Tier and form that a command moves a page to; none where it is skipped. -/
def tierTarget (op target : Nat) (e : Stall) : Option (Nat × Nat) :=
  if op = 1 then (if e.tier = 0 then none else some (0, e.form))
  else if target ≤ 1 then (if e.tier = 0 ∧ e.form < target + 1 then some (0, target + 1) else none)
  else if target = 2 then (if e.tier = 1 then none else some (1, e.form))
  else if e.tier = 0 then some (2, e.form)
  else none

/-- A demotion or promotion resolves its handle and checks its range, once (R339, R340). -/
def State.rangeStart (s : State) (k : Cmd) : State :=
  match s.resolve k.pen k.r1.toNat with
  | (.error c, s) => s.failBare k c
  | (.ok (i, d), s) =>
    let g0 := bits k.r2.toNat 31 0
    let n := bits k.r2.toNat 47 32
    let last := if n = 0 then d.pages - 1 else g0 + n - 1
    if d.pages ≤ g0 ∨ d.pages ≤ last then s.failBare k .kvExtent
    else s.updStream k (fun x => { x with started := true, pool := d.pool, cur := some (i, last) })

/-- The next page of a demotion or promotion whose descriptor is `i`; its stall is the page's as the descriptor then stands,
and a sequence that has been retired meanwhile is stale (assumption log 80). -/
def State.rangePage (s : State) (k : Cmd) (op i last : Nat) : State :=
  let g := bits k.r2.toNat 31 0 + k.pos
  let d := s.desc k.pen i
  if last < g then s.concludeCmd k k.stream.pos
  else if !d.live || d.gen != hGen k.r1.toNat then s.failBare k .kvStale
  else match pageStall d.ext g with
    | none => s.failBare k .kvExtent
    | some st =>
      let e := s.stallAt d.pool st
      if s.stallBusy d.pool st then s
      else if e.state = 2 then s.failPage k .kvRecalled g
      else match tierTarget op (bits k.r2.toNat 49 48) e with
        | none => s.nextPage k 0
        | some (tier, form) =>
          match s.beginMove d.pool st (k.ctx / 256) (.cmd k.ctx k.cid) tier form with
          | none => s.failPage k .yardFull g
          | some s => s

/-- The next step of a demotion or promotion. -/
def State.rangeStep (s : State) (k : Cmd) (op : Nat) : State :=
  match k.stream.cur with
  | none => s.rangeStart k
  | some (i, last) => s.rangePage k op i last

/-! ### `kvexport` (R341, Table 7) -/

/-- Where the scales of an image begin. -/
def imageScales (pages : Nat) : Nat := (0x40 + 32 * pages + 63) / 64 * 64

/-- `kvp.N.cfg` with enable and pen cleared. -/
def Pool.geometry (p : Pool) : Nat := p.cfg.toNat % 2 ^ 57

/-- What an export has gathered: page entries and scale areas, in page order, and how many pages it has copied. -/
structure ExportAcc where
  entries : List (List Nat)
  scales : List Byte
  copied : Nat
  deriving DecidableEq, Repr

/-- One page of the image; a shared one is copied into a new far block. -/
def State.exportPage (s : State) (p : Pool) (pool n : Nat) (a : ExportAcc) : Except Code (ExportAcc × State) :=
  let e := s.stallAt pool n
  let (sc, s) := if e.scales = 0 then (0, s) else s.blockRead p.pen e.scales (p.planes * p.sstr)
  let scBytes := if e.scales = 0 then 0 else p.planes * p.sstr
  let entry (block total : Nat) (copied : Bool) : ExportAcc :=
    { entries := a.entries ++ [[block, { e with tier := 1 }.word1, total + scBytes * 2 ^ 32, if copied then 1 else 0]],
      scales := a.scales ++ bytesOf scBytes sc, copied := a.copied + (if copied then 1 else 0) }
  if e.count ≤ 1 then
    let (h, s) := s.blockRead p.pen e.block 8
    .ok (entry e.block (bits h 63 32) false, s)
  else
    match s.pageBytes p e with
    | (none, _) => .error .formatMismatch
    | (some v, s) =>
      match s.popStack pool (stackOf 1 e.form) with
      | none => .error .yardFull
      | some (b, s) =>
        let l := compress e.fmt (bytesOf (p.blockBytes e.form) v)
        .ok (entry b l.length true, s.blockWrite p.pen b l.length (ofBytes l))

def State.exportPages (s : State) (p : Pool) (pool : Nat) (a : ExportAcc) : List Nat → Except Code (ExportAcc × State)
  | [] => .ok (a, s)
  | n :: r =>
    match s.exportPage p pool n a with
    | .error c => .error c
    | .ok (a, s) => s.exportPages p pool a r

/-- The bytes of an image. -/
def imageBytes (p : Pool) (d : Desc) (a : ExportAcc) : List Byte :=
  let head := bytesOf 8 (1 + p.ltok * 2 ^ 16 + d.pages * 2 ^ 32) ++ bytesOf 8 p.geometry ++
    bytesOf 8 p.pstride.toNat ++ bytesOf 8 (d.written * 2 ^ 32 + d.committed) ++
    bytesOf 8 (d.cls + p.sstr * 2 ^ 32) ++ List.replicate 24 0
  let body := head ++ a.entries.flatMap (fun e => e.flatMap (bytesOf 8))
  body ++ List.replicate (imageScales d.pages - body.length) 0 ++ a.scales

/-- The drover of a command (R331). -/
def Cmd.drover (k : Cmd) : Via := .die (k.ctx / 256)

/-- The pages of `n` bytes of an image, by the addresses that first meet them. -/
def Cmd.imagePages (k : Cmd) (n : Nat) : List Nat := pageStarts k.r2.toNat n

/-- The first page of an image that cannot be written (R222). -/
def State.imageFault (s : State) (k : Cmd) (n : Nat) : Option (Code × Nat) :=
  (k.imagePages n).findSome? (fun va => match (s.xlate (engAccess k.pen 11 k.drover true) va).1 with
    | .error c => some (c, va)
    | .ok _ => none)

/-- Distinct pages that fault among `n` bytes of an image. -/
def State.imageFaults (s : State) (k : Cmd) (w : Bool) (n : Nat) : Nat :=
  s.badPages k.pen 11 k.drover ((k.imagePages n).map (fun va => (va, w)))

/-- A drover writes or reads an export image: pieces of up to 256 bytes, which its budget sees (R331, R394). -/
def State.noteImage (s : State) (k : Cmd) (n : Nat) : State := s.noteData k.pen (2 ^ 52) n

/-- Steps 2 to 4 of R341, in one step. -/
def State.exportEnd (s : State) (k : Cmd) (i : Nat) (d : Desc) (stalls : List Nat) : KvStep :=
  let p := s.pool d.pool
  match s.exportPages p d.pool ⟨[], [], 0⟩ stalls with
  | .error c => kvFail c
  | .ok (a, s) =>
    let l := imageBytes p d a
    match s.engWrite k.pen 11 k.drover (pageFuel l.length) k.r2.toNat l.length (ofBytes l) with
    | (.error (c, x), _) => .error (c, x, false, s.imageFaults k true l.length)
    | (.ok _, s) =>
      let (_, s) := (s.noteImage k l.length).freeSeq k.pen i d (fun e => e.tier == 1 && decide (e.count ≤ 1))
      .ok (k.stream.pos + a.copied, s)

/-- A step of a command on a drover, once its budgets have admitted what the step reads and writes (R331, R396); a failure
changes nothing else, and leaves `left` pages not done. -/
def State.tierApply (s : State) (k : Cmd) (left : Nat) (f : State → KvStep) : State :=
  s.paying k 1 (k.ctx / 256) (fun s =>
    match s.asCmd k (fun s => match f s with
      | .error e => (.error e, s)
      | .ok (n, t) => ((.ok n : Except KvFail Nat), t)) with
    | (.error e, s) => s.failTier k e left
    | (.ok n, s) => s.concludeCmd k n)

/-- An export resolves its handle and checks its image address, once (R341). -/
def State.exportStart (s : State) (k : Cmd) : State :=
  match s.resolve k.pen k.r1.toNat with
  | (.error c, s) => s.failBare k c
  | (.ok (i, d), s) =>
    let p := s.pool d.pool
    let quant := ((stallsOf d.ext d.pages).filter (fun n => (s.stallAt d.pool n).scales != 0)).length
    let l := imageScales d.pages + quant * p.planes * p.sstr
    if k.r2.toNat % 128 ≠ 0 then s.failTier k (.misaligned, k.r2.toNat, false, 1) d.pages
    else match s.imageFault k l with
      | some (c, a) => s.failTier k (c, a, false, s.imageFaults k true l) d.pages
      | none => s.updStream k (fun x => { x with started := true, pool := d.pool, cur := some (i, 0) })

/-- The next step of an export whose descriptor is `i`: the first page in order that is RECALLED fails it, and the first that is
neither far nor shared moves; when none is left, the image is written and the sequence retired. -/
def State.exportPart (s : State) (k : Cmd) (i : Nat) : State :=
  let d := s.desc k.pen i
  let stalls := stallsOf d.ext d.pages
  let entry (n : Nat) : Stall := s.stallAt d.pool n
  if !d.live || d.gen != hGen k.r1.toNat then s.failBare k .kvStale
  else if stalls.any (s.stallBusy d.pool) then s
  else match stalls.findIdx? (fun n => (entry n).state == 2 || ((entry n).tier != 1 && decide ((entry n).count ≤ 1))) with
    | none => s.tierApply k d.pages (fun s => s.exportEnd k i d stalls)
    | some g =>
      let n := stalls.getD g 0
      if (entry n).state = 2 then s.failPage k .kvRecalled g
      else match s.beginMove d.pool n (k.ctx / 256) (.cmd k.ctx k.cid) 1 (entry n).form with
        | none => s.failPage k .yardFull g
        | some s => s

/-- The next step of an export. -/
def State.exportStep (s : State) (k : Cmd) : State :=
  match k.stream.cur with
  | none => s.exportStart k
  | some (i, _) => s.exportPart k i

/-! ### `kvimport` (R342) -/

/-- One page of an image takes a stall and, where it is quantised, a scale area; answers how many scale bytes it has
used. -/
def State.importPage (s : State) (pool n img at_ g : Nat) : Nat × State :=
  let w (j : Nat) : Nat := img / 2 ^ (8 * (0x40 + 32 * g + 8 * j)) % 2 ^ 64
  let e := Stall.ofWords (w 0) (w 1) 0 0
  let sc := bits (w 2) 63 32
  let p := s.pool pool
  let (area, s) := if sc = 0 then (0, s)
    else match s.popStack pool 6 with
      | none => (0, s)
      | some (a, s) => (a, s.blockWrite p.pen a sc (img / 2 ^ (8 * at_) % 2 ^ (8 * sc)))
  (sc, s.freshStall pool n { e with
    state := 1, tier := 1, count := 1, heat := 0, scales := area, lender := 0 })

/-- The step of an import, with the pool and the destination known. -/
def State.importRun (s : State) (k : Cmd) (pool i : Nat) (x : Desc) (live : Bool) (img : Nat) : KvStep :=
  let p := s.pool pool
  let w (o : Nat) : Nat := img / 2 ^ (8 * o) % 2 ^ 64
  let pages := bits (w 0) 63 32
  let blocks := (List.range pages).map (fun g => bits (w (0x40 + 32 * g)) 51 7 * 128)
  let areas := ((List.range pages).filter (fun g => bits (w (0x50 + 32 * g)) 63 32 ≠ 0)).length
  if blocks.any (fun b => decide (tierOf b ≠ some 1)) then kvFail .permission
  else match allocRuns p.runs (setOrders pages) with
    | none => kvFail .yardFull
    | some _ =>
      if p.stackFree 6 < areas ∨ 2 ^ 21 ≤ pages then kvFail .yardFull
      else
        let s := s.retireDest k.pen i x live
        match allocRuns (s.pool pool).runs (setOrders pages) with
        | none => kvFail .yardFull
        | some (runs, left) =>
          let s := s.updPool pool (fun p => { p with runs := left })
          let nums := runs.flatMap (fun r => (List.range r.2).map (r.1 + ·))
          let (_, s) := ((List.range pages).zip nums).foldl (fun (acc : Nat × State) gn =>
            let (n, s) := acc.2.importPage pool gn.2 img acc.1 gn.1
            (acc.1 + n, s)) (imageScales pages, s)
          match s.compact pool pages (addRuns [] runs) with
          | .error c => kvFail c
          | .ok (ext, s) =>
            .ok (pages, s.setDesc k.pen i { Desc.empty pool with
              gen := hGen k.r1.toNat, live := true, cls := bits (w 0x20) 1 0, written := bits (w 0x18) 63 32,
              committed := bits (w 0x18) 31 0, pages := pages, ext := ext })

/-- Reads the first `n` bytes of an image, of which `m` have been paid for. -/
def State.imagePart (s : State) (k : Cmd) (m n : Nat) : Except KvFail Nat × State :=
  match (s.noteImage k (n - m)).engRead k.pen 11 k.drover (pageFuel n) k.r2.toNat n with
  | (.error (c, a), t) => (.error (c, a, false, s.imageFaults k false n), t)
  | (.ok v, t) => (.ok v, t)

/-- Reads the image: its head, then all of it. -/
def State.imageRead (s : State) (k : Cmd) (p : Pool) : Except KvFail Nat × State :=
  match s.imagePart k 0 0x40 with
  | (.error e, s) => (.error e, s)
  | (.ok h, s) =>
    let w (o : Nat) : Nat := h / 2 ^ (8 * o) % 2 ^ 64
    if bits (w 0) 15 0 ≠ 1 ∨ bits (w 0) 23 16 ≠ p.ltok ∨ w 8 ≠ p.geometry ∨ w 0x10 ≠ p.pstride.toNat ∨
        bits (w 0x20) 63 32 ≠ p.sstr then (.error (.formatMismatch, 0, false, 0), s)
    else
      let pages := bits (w 0) 63 32
      match s.imagePart k 0x40 (0x40 + 32 * pages) with
      | (.error e, s) => (.error e, s)
      | (.ok v, s) =>
        let sc := ((List.range pages).map (fun g => bits (v / 2 ^ (8 * (0x50 + 32 * g)) % 2 ^ 64) 63 32)).foldl (· + ·) 0
        s.imagePart k (0x40 + 32 * pages) (if sc = 0 then 0x40 + 32 * pages else imageScales pages + sc)

/-- `kvimport`, with its checks in order. -/
def State.importImage (s : State) (k : Cmd) : KvStep :=
  let pool := k.reg 0x100 % 8
  if !s.poolOk pool k.pen then kvFail .permission
  else match s.openDest k.pen k.r1.toNat 0 with
    | .error c => kvFail c
    | .ok (i, x, live) =>
      if k.r2.toNat % 128 ≠ 0 then .error (.misaligned, k.r2.toNat, false, 1)
      else match s.imageRead k (s.pool pool) with
        | (.error f, _) => .error f
        | (.ok img, s) => s.importRun k pool i x live img

/-- Pages of the image that a command names; 0 where its head cannot be read (assumption log 27). -/
def State.importPages (s : State) (k : Cmd) : Nat :=
  match (s.imagePart k 0 0x40).1 with
  | .ok h => bits h 63 32
  | .error _ => 0

/-- `kvimport`: one step. -/
def State.importStep (s : State) (k : Cmd) : State := s.tierApply k (s.importPages k) (fun s => s.importImage k)

/-! ### The drover of a die (R331, R332) -/

/-- What follows from a move that has ended, by its reason. -/
def State.moveDone (s : State) (pool : Nat) (m : PageMove) (ok : Bool) : State :=
  match m.why with
  | .cmd ctx cid =>
    match s.cmd ctx cid with
    | none => s
    | some k =>
      if ok then s.nextPage k 1 else s.failPage k .formatMismatch (bits k.r2.toNat 31 0 + k.pos)
  | .pressure =>
    if ok then s.updPool pool (fun p => { p with pmoves := Nat.min (2 ^ 32 - 1) (p.pmoves + 1) }) else s
  | .near task => if ok then s.serviceDone task else s.draw.2.terminate Code.formatMismatch.num s.seq task
  | .recall => s

/-- A move that a die's drover has begun, with its pool: a recall move, or another. -/
def State.moveOf (s : State) (die : Nat) (back : Bool) : Option (Nat × PageMove) :=
  s.pools.findSome? (fun kp => (kp.2.moves.find? (fun m => m.die == die && (decide (m.why = .recall) == back))).map
    (fun m => (kp.1, m)))

/-- The first running tier command of a die whose work is not done. -/
def State.tierCmd (s : State) (die : Nat) : Option (Nat × Cmd) :=
  s.cmds.findSome? (fun c => match c.kind with
    | .tier op => if c.st = .running ∧ c.fail.isNone ∧ c.ctx / 256 = die then some (op, c) else none
    | _ => none)

/-- The next step of a tier command. -/
def State.tierStep (s : State) (k : Cmd) (op : Nat) : State :=
  match op with
  | 0 => s.rangeStep k 0
  | 1 => s.rangeStep k 1
  | 2 => s.exportStep k
  | _ => s.importStep k

/-- What a drover with no move begins: the next page of its first tier command; else a pressure move. -/
def State.droverNext (s : State) (die : Nat) : State :=
  match s.heldBy 1 die with
  | some s => s
  | none =>
    s.meterUnit (160 + die) 1 die (fun s => match s.tierCmd die with
      | some (op, k) => s.tierStep k op
      | none => ((diePools die).findSome? (fun n => s.pressStep n die)).getD s)

/-- Steps 3 to 5 of a move, whose messages name the command that it serves (R332, R407). -/
def State.moveStep (s : State) (pool : Nat) (m : PageMove) : Bool × State :=
  match m.why with
  | .cmd ctx cid =>
    match s.cmd ctx cid with
    | some k => s.asCmd k (fun s => s.endMove pool m)
    | none => s.endMove pool m
  | _ => s.endMove pool m

/-- A move ends once its drover's budget, and its pool's pen's, have admitted what it reads and writes; a recall move waits for
neither (R331, R396, R397). -/
def State.moveOn (s : State) (die pool : Nat) (m : PageMove) : State :=
  match s.metered 1 die (decide (m.why ≠ .recall)) m.paid (fun s => s.moveStep pool m) with
  | (.error n, s) =>
    s.updPool pool (fun p => { p with moves := p.moves.map (fun (x : PageMove) => if x = m then { x with paid := n } else x) })
  | (.ok ok, s) => s.moveDone pool m ok

/-- The work of a die's drover goes on: a recall move goes before all else, a move that has begun and that a budget may hold
included (R331, R336); then the move that has begun ends, or the next one begins. -/
def State.droverStep (s : State) (die : Nat) : State :=
  match s.moveOf die true with
  | some (pool, m) => s.moveOn die pool m
  | none =>
    if s.recallDue die then
      (s.metered 1 die false 0 (fun s => ((), ((diePools die).findSome? (fun n => s.recallStep n die)).getD s))).2
    else
      match s.moveOf die false with
      | some (pool, m) => s.moveOn die pool m
      | none => s.droverNext die

/-- DROVER_PAGE_MOVE (R332): a move of a die's drover ends, or its next one begins. -/
def execDroverPageMove (die : Nat) (s : State) : Out := .next (if s.updating (26 + die) then s else s.droverStep die)

end Sys2Proof.Machine
end

