-- ==== Sys2Proof/Machine/Sfu.lean ====
section
/-! DEFINITION. The special functions (chapter 07, R168 to R173), on one element.

The real values that `tab` of R169 rounds are computed in fixed point with 320 fraction bits, far
beyond the 24 bits any rounding of the construction keeps. Assumption log 12 says what that rests on. -/

namespace Sys2Proof.Machine

/-- Fraction bits of the fixed-point values. -/
def fxP : Nat := 320

def fxOne : Nat := 2 ^ fxP

/-- Newton steps from above for the integer square root. -/
def isqrtGo (n : Nat) : Nat → Nat → Nat
  | 0, x => x
  | k + 1, x =>
    let y := (x + n / x) / 2
    if x ≤ y then x else isqrtGo n k y

/-- floor of the square root. -/
def isqrt (n : Nat) : Nat := if n = 0 then 0 else isqrtGo n 64 (2 ^ (Nat.log2 n / 2 + 1))

/-- Product of two fixed-point values. -/
def fxMul (a b : Nat) : Nat := a * b / fxOne

/-- 2^(k / 2^i) for the bits of k, as a product of iterated square roots of 2: `r` is 2^(1/2^j). -/
def pow2Go : Nat → Nat → Nat → Nat → Nat
  | 0, _, _, acc => acc
  | i + 1, k, r, acc =>
    let r' := isqrt (r * fxOne)
    pow2Go i k r' (if k / 2 ^ i % 2 = 1 then fxMul acc r' else acc)

/-- 2^(k/256) for k from 0 to 256. -/
def fxExp2 (k : Nat) : Nat := if 256 ≤ k then 2 * fxOne else pow2Go 8 k (2 * fxOne) fxOne

/-- Σ z^(2i+1)/(2i+1), alternating when `alt`. -/
def atanGo (alt : Bool) (z2 : Nat) : Nat → Nat → Nat → Int
  | 0, _, _ => 0
  | fuel + 1, i, p =>
    let t : Int := ((p / (2 * i + 1) : Nat) : Int)
    (if alt && i % 2 = 1 then -t else t) + atanGo alt z2 fuel (i + 1) (p * z2 / fxOne)

/-- ln x for x = num/den in [1, 2]. -/
def fxLn (num den : Nat) : Nat :=
  let z := (num - den) * fxOne / (num + den)
  (2 * atanGo false (fxMul z z) 110 0 z).toNat

/-- log2 x for x = num/den in [1, 2]. -/
def fxLog2 (num den : Nat) : Nat := fxLn num den * fxOne / fxLn 2 1

/-- arctan(1/n) with `q` fraction bits. -/
def atanInvGo (n q : Nat) : Nat → Nat → Nat → Int
  | 0, _, _ => 0
  | fuel + 1, i, p =>
    let t : Int := ((p / (2 * i + 1) : Nat) : Int)
    (if i % 2 = 1 then -t else t) + atanInvGo n q fuel (i + 1) (p / (n * n))

/-- π with `q` fraction bits (Machin). -/
def fxPi (q : Nat) : Nat :=
  (16 * atanInvGo 5 q (q / 4 + 8) 0 (2 ^ q / 5) - 4 * atanInvGo 239 q (q / 15 + 8) 0 (2 ^ q / 239)).toNat

/-- Σ (−1)^i x^(2i + s) / (2i + s)! : `s` 1 gives sin, 0 gives cos; `t` is the running term. -/
def trigGo (x2 : Nat) : Nat → Nat → Nat → Bool → Int
  | 0, _, _, _ => 0
  | fuel + 1, k, t, neg =>
    (if neg then -(t : Int) else (t : Int)) +
      trigGo x2 fuel (k + 2) (t * x2 / fxOne / ((k + 1) * (k + 2))) (!neg)

/-- sin(π s / 2) and cos(π s / 2) for s = k/256. -/
def fxSin (k : Nat) : Nat :=
  let x := fxPi fxP * k / 512
  (trigGo (fxMul x x) 60 1 x false).toNat

def fxCos (k : Nat) : Nat :=
  let x := fxPi fxP * k / 512
  (trigGo (fxMul x x) 60 0 fxOne false).toNat

/-- e^x for a fixed-point x from 0 to 2. -/
def expGo (x : Nat) : Nat → Nat → Nat → Nat
  | 0, _, _ => 0
  | fuel + 1, i, t => t + expGo x fuel (i + 1) (t * x / fxOne / (i + 1))

/-- tanh(k/256) for k from 0 to 256. -/
def fxTanh (k : Nat) : Nat :=
  let e := expGo (k * fxOne / 128) 100 0 fxOne
  (e - fxOne) * fxOne / (e + fxOne)

/-- Σ (−1)^i x^(2i+1) / (i! (2i+1)) with `t` = x^(2i+1)/i!. -/
def erfGo (x2 : Nat) : Nat → Nat → Nat → Int
  | 0, _, _ => 0
  | fuel + 1, i, t =>
    let u : Int := ((t / (2 * i + 1) : Nat) : Int)
    (if i % 2 = 1 then -u else u) + erfGo x2 fuel (i + 1) (t * x2 / fxOne / (i + 1))

/-- 2/√π. -/
def fxTwoOverRootPi : Nat := 2 * fxOne * fxOne / isqrt (fxPi fxP * fxOne)

/-- erf(num/den). -/
def fxErf (num den : Nat) : Nat :=
  let x := num * fxOne / den
  fxMul fxTwoOverRootPi (erfGo (fxMul x x) 200 0 x).toNat

/-- A signed fixed-point value rounded to FP32. -/
def fxRound (v : Int) : Nat :=
  (roundEx fmtF32 false false (decide (v < 0)) v.natAbs 1 (-(fxP : Int))).1

/-- One segment of `tab` (R169): from the values at its start, middle and end, and t = tn/2^te. -/
def tabSeg (f0 fm f1 : Nat) (tn : Nat) (te : Int) : Nat :=
  let a : Int := f0
  let b : Int := fm
  let c : Int := f1
  let c0 := fxRound a
  let c1 := fxRound (-3 * a + 4 * b - c)
  let c2 := fxRound (2 * a - 4 * b + 2 * c)
  let t : FV := .fin false tn te
  let s := (arith fmtF32 false false (fmaFV (fmtF32.decode c2) t (fmtF32.decode c1))).1
  (arith fmtF32 false false (fmaFV (fmtF32.decode s) t (fmtF32.decode c0))).1

/-- `tab` over a value u = m * 2^e in segments: `g` gives the function at half-segment points. -/
def tabAt (g : Nat → Nat) (m : Nat) (e : Int) : Nat :=
  let (n, d) := scaleFrac m 1 e
  let j := n / d
  let t := n - j * d
  tabSeg (g (2 * j)) (g (2 * j + 1)) (g (2 * j + 2)) t (-(Nat.log2 d : Int))

/-- An FP32 result with the events of its last rounding. -/
abbrev Y := Nat × Flags

/-- An FP32 pattern scaled by 2^n and rounded once (R170): `n` is brought into a range past which
every result over- or underflows. -/
def scaleY (p : Nat) (n : Int) : Y :=
  roundFV fmtF32 false false (scaleFV (clampInt n (-600) 600) (fmtF32.decode p))

/-- floor of a finite value. -/
def floorFV (neg : Bool) (m : Nat) (e : Int) : Int :=
  let (n, d) := scaleFrac m 1 e
  if neg then -(((n + d - 1) / d : Nat) : Int) else ((n / d : Nat) : Int)

/-- 2^a for finite a (R170). Arguments of magnitude 2^12 or more are past every finite result. The fraction t is kept exact,
as R169 calls it, also where no FP32 number holds it (assumption log 89). -/
def sfuExp2 (neg : Bool) (m : Nat) (e : Int) : Y :=
  if m = 0 then (0x3F800000, fNone)
  else if 12 ≤ (Nat.log2 m : Int) + e then scaleY 0x3F800000 (if neg then -600 else 600)
  else
    let n := floorFV neg m e
    let r := addFin neg m e (decide (0 < n)) n.natAbs 0
    match r with
    | .fin _ rm re => scaleY (tabAt fxExp2 rm (re + 7)) n
    | _ => (0, fNone)

/-- The normal form |a| = 2^n * r with r = m / 2^L in [1, 2). -/
def normExp (m : Nat) (e : Int) : Int := (Nat.log2 m : Int) + e

/-- log2 a for a > 0. -/
def sfuLog2 (m : Nat) (e : Int) : Y :=
  let L := Nat.log2 m
  let y := tabAt (fun k => fxLog2 (256 + k) 256) (m - 2 ^ L) (7 - (L : Int))
  arith fmtF32 false false (addFV (intFV (normExp m e)) (fmtF32.decode y))

/-- 1/|a|. -/
def sfuRcp (m : Nat) (e : Int) : Y :=
  let L := Nat.log2 m
  scaleY (tabAt (fun k => fxOne * 256 / (256 + k)) (m - 2 ^ L) (7 - (L : Int))) (-(normExp m e))

/-- T of R170 for rsqrt and sqrt: a = 2^(2k) r with r in [1, 4); the function `g` takes r = num/den. -/
def sqrtTab (g : Nat → Nat → Nat) (m : Nat) (e : Int) : Nat × Int :=
  let L := Nat.log2 m
  let n := normExp m e
  if n % 2 = 0 then
    (tabAt (fun k => g (128 + k) 128) (m - 2 ^ L) (6 - (L : Int)), n / 2)
  else
    (tabAt (fun k => g (128 + k) 64) (m - 2 ^ L) (6 - (L : Int)), (n - 1) / 2)

def sfuRsqrt (m : Nat) (e : Int) : Y :=
  let (t, k) := sqrtTab (fun a b => isqrt (fxOne * fxOne * b / a)) m e
  scaleY t (-k)

def sfuSqrt (m : Nat) (e : Int) : Y :=
  let (t, k) := sqrtTab (fun a b => isqrt (fxOne * fxOne * a / b)) m e
  scaleY t k

/-- Bits of 1/(2π) kept for the exact reduction of R170. -/
def redQ : Nat := 640

/-- The quadrant q and the reduced argument s (an FP32 pattern) of sine and cosine. -/
def trigReduce (neg : Bool) (m : Nat) (e : Int) : Nat × Nat :=
  let inv := 2 ^ (2 * redQ) / (2 * fxPi redQ)
  let (n, d) := scaleFrac (m * inv) 1 e
  let fr0 := n / d % 2 ^ redQ
  let fr := if neg then 2 ^ redQ - fr0 else fr0
  let v := 4 * fr % 2 ^ (redQ + 2)
  let q := v / 2 ^ redQ
  let s := (roundEx fmtF32 false false false (v % 2 ^ redQ) 1 (-(redQ : Int))).1
  if s = 0x3F800000 then ((q + 1) % 4, 0) else (q % 4, s)

/-- S(s) and C(s) by their tables. -/
def trigTab (sine : Bool) (s : Nat) : Nat :=
  match fmtF32.decode s with
  | .fin _ m e => tabAt (if sine then fxSin else fxCos) m (e + 7)
  | _ => 0

/-- An FP32 pattern with its sign flipped. -/
def f32Neg (p : Nat) : Nat := p ^^^ 0x80000000

def sfuSin (neg : Bool) (m : Nat) (e : Int) (a : Nat) : Y :=
  if m = 0 || normExp m e < -12 then (a, fNone)
  else
    let (q, s) := trigReduce neg m e
    ((match q with
      | 0 => trigTab true s
      | 1 => trigTab false s
      | 2 => f32Neg (trigTab true s)
      | _ => f32Neg (trigTab false s)), fNone)

def sfuCos (neg : Bool) (m : Nat) (e : Int) : Y :=
  if m = 0 || normExp m e < -12 then (0x3F800000, fNone)
  else
    let (q, s) := trigReduce neg m e
    ((match q with
      | 0 => trigTab false s
      | 1 => f32Neg (trigTab true s)
      | 2 => f32Neg (trigTab false s)
      | _ => trigTab true s), fNone)

/-- FP32 exp2 of a pattern, special operands included (R171, R172). -/
def exp2Pat (p : Nat) : Y :=
  match fmtF32.decode p with
  | .nan => (0x7FC00000, fNone)
  | .inf neg => (if neg then 0 else 0x7F800000, fNone)
  | .fin neg m e => sfuExp2 neg m e

/-- FP32 reciprocal of a pattern, special operands included. -/
def rcpPat (p : Nat) : Y :=
  match fmtF32.decode p with
  | .nan => (0x7FC00000, fNone)
  | .inf neg => (if neg then 0x80000000 else 0, fNone)
  | .fin neg m e =>
    if m = 0 then (if neg then 0xFF800000 else 0x7F800000, fDz)
    else
      let (y, fl) := sfuRcp m e
      (if neg then f32Neg y else y, fl)

/-- tanh of a pattern with its last rounding's events (R170, R171, R172). -/
def tanhPat (p : Nat) : Y :=
  match fmtF32.decode p with
  | .nan => (0x7FC00000, fNone)
  | .inf neg => (if neg then 0xBF800000 else 0x3F800000, fNone)
  | .fin neg m e =>
    if m = 0 || normExp m e < -12 then (p, fNone)
    else if normExp m e < 0 then
      let y := tabAt fxTanh m (e + 7)
      (if neg then f32Neg y else y, fNone)
    else
      let b := (exp2Pat (f32Mul (p % 0x80000000) 0x4038AA3B).1).1
      let c := (f32Add 0x3F800000 b).1
      let two := mulFV (.fin true 2 0) (fmtF32.decode (rcpPat c).1)
      let (y, fl) := arith fmtF32 false false (addFV (.fin false 1 0) two.1)
      (if neg then f32Neg y else y, fl)

/-- erf of a pattern. -/
def erfPat (p : Nat) : Y :=
  match fmtF32.decode p with
  | .nan => (0x7FC00000, fNone)
  | .inf neg => (if neg then 0xBF800000 else 0x3F800000, fNone)
  | .fin neg m e =>
    let n := normExp m e
    let sg := fun y => if neg then f32Neg y else y
    if m = 0 then (p, fNone)
    else if n < -12 then f32Mul p (fxRound fxTwoOverRootPi)
    else if 2 ≤ n then (sg 0x3F800000, fNone)
    else if n < 0 then (sg (tabAt (fun k => fxErf k 128) m (e + 6)), fNone)
    else
      let L := Nat.log2 m
      if n = 0 then (sg (tabAt (fun k => fxErf (64 + k) 64) (m - 2 ^ L) (5 - (L : Int))), fNone)
      else (sg (tabAt (fun k => fxErf (64 + k) 32) (m - 2 ^ L) (5 - (L : Int))), fNone)

/-- The sigmoid chain of R171 on a pattern. -/
def sigmPat (p : Nat) : Y :=
  let b := (exp2Pat (f32Mul (f32Neg p) 0x3FB8AA3B).1).1
  rcpPat (f32Add 0x3F800000 b).1

/-- FP32 log2 of a pattern, special operands included (R172). -/
def log2Pat (p : Nat) : Y :=
  match fmtF32.decode p with
  | .nan => (0x7FC00000, fNone)
  | .inf neg => if neg then (0x7FC00000, fInv) else (0x7F800000, fNone)
  | .fin neg m e =>
    if m = 0 then (0xFF800000, fDz)
    else if neg then (0x7FC00000, fInv)
    else sfuLog2 m e

/-- The FP32 value y of function `fn` (Table 15 of R53) and the events of R173, inexact apart: by the construction of R169 to
R172, also where it misses a bound of R174 (assumption log 89). -/
def sfuY (fn a : Nat) : Y :=
  match fmtF32.decode a with
  | .nan => (0x7FC00000, fNone)
  | .inf neg =>
    match fn with
    | 1 => exp2Pat a
    | 2 => log2Pat a
    | 3 => rcpPat a
    | 4 => if neg then (0x7FC00000, fInv) else (0, fNone)
    | 5 => if neg then (0x7FC00000, fInv) else (0x7F800000, fNone)
    | 6 => (0x7FC00000, fInv)
    | 7 => (0x7FC00000, fInv)
    | 8 => tanhPat a
    | 9 => (if neg then 0 else 0x3F800000, fNone)
    | 10 => (if neg then 0x80000000 else 0x7F800000, fNone)
    | 11 => (if neg then 0x80000000 else 0x7F800000, fNone)
    | 12 => erfPat a
    | _ => if neg then (0, fNone) else (0x43800000, fInv)
  | .fin neg m e =>
    match fn with
    | 1 => sfuExp2 neg m e
    | 2 => log2Pat a
    | 3 => rcpPat a
    | 4 =>
      if m = 0 then (if neg then 0xFF800000 else 0x7F800000, fDz)
      else if neg then (0x7FC00000, fInv) else sfuRsqrt m e
    | 5 =>
      if m = 0 then (a, fNone)
      else if neg then (0x7FC00000, fInv) else sfuSqrt m e
    | 6 => sfuSin neg m e a
    | 7 => sfuCos neg m e
    | 8 => tanhPat a
    | 9 => if m = 0 then (0x3F000000, fNone) else sigmPat a
    | 10 => if m = 0 then (a, fNone) else f32Mul a (sigmPat a).1
    | 11 =>
      if m = 0 then (a, fNone)
      else
        let er := (erfPat (f32Mul a 0x3F3504F3).1).1
        f32Mul (f32Mul a 0x3F000000).1 (f32Add 0x3F800000 er).1
    | 12 => erfPat a
    | _ =>
      if cmpFV (.fin neg m e) (.fin false 8 0) = .gt then (0x43800000, fInv)
      else sfuExp2 neg m e

/-- 2^n = m * 2^e ? -/
def isPow2 (m : Nat) (e n : Int) : Bool :=
  decide (m ≠ 0) && decide (2 ^ Nat.log2 m = m) && decide ((Nat.log2 m : Int) + e = n)

/-- Is the delivered value `d` the exact value of the function at the finite value `a`? (R173) -/
def sfuExact (fn : Nat) (a d : FV) : Bool :=
  match a, d with
  | .fin neg m e, .fin dn dm de =>
    let one : FV := .fin false 1 0
    let eqv := fun (x : FV × Flags) (y : FV) => cmpFV x.1 y == .eq
    match fn with
    | 3 => eqv (mulFV d a) one
    | 4 => eqv (mulFV (mulFV d d).1 a) one
    | 5 => m = 0 || eqv (mulFV d d) a
    | 2 => 2 ^ Nat.log2 m = m && eqv (d, fNone) (intFV (normExp m e))
    | 7 => m = 0
    | 6 => m = 0
    | 8 => m = 0
    | 9 => m = 0
    | 10 => m = 0
    | 11 => m = 0
    | 12 => m = 0
    | _ =>
      let x : FV := if fn = 13 && cmpFV a (.fin false 8 0) = .gt then .fin false 8 0 else a
      match x with
      | .fin xn xm xe =>
        let fl := floorFV xn xm xe
        !dn && eqv (x, fNone) (intFV fl) && isPow2 dm de fl
      | _ => neg
  | _, _ => false

/-- One element of an SFU operation (R168, R173): source and result in format `f`. -/
def sfuElem (fn : Nat) (f : FFmt) (v : Nat) : Nat × Flags :=
  let a := f.decode v
  let (y, fl) := sfuY fn (roundFV fmtF32 false false a).1
  let (r, fr) := roundFV f false false (fmtF32.decode y)
  let special := fl &&& (fInv ||| fDz)
  let range := (fl ||| fr) &&& (fOv ||| fUf)
  let nx : Flags := match a with
    | .fin _ m _ =>
      if m = 0 then fNone
      else if special ≠ 0 && fn ≠ 13 then fNone
      else if sfuExact fn a (f.decode r) then fNone else fNx
    | _ => fNone
  (r, special ||| range ||| nx)

end Sys2Proof.Machine
end

