-- ==== Sys2Proof/Machine/Groom.lean ====
section
/-! DEFINITION. Grooms: `smpost`, the token board, logit programs (R354 to R376). -/

namespace Sys2Proof.Machine

def State.groom (s : State) (c : Nat) : Groom := sget Groom.reset s.grooms c
def State.updGroom (s : State) (c : Nat) (f : Groom → Groom) : State :=
  { s with grooms := supd Groom.reset s.grooms c f }

/-! ### `smpost` (R356, R357) -/

def Cmd.smpFmt (k : Cmd) : Nat := bits (k.reg 0x200) 62 60
/-- Bytes of a logit. -/
def Cmd.smpSize (k : Cmd) : Nat := if k.smpFmt = 0 then 4 else 2
def Cmd.smpFirst (k : Cmd) : Nat := bits (k.reg 0x201) 23 0
def Cmd.smpCount (k : Cmd) : Nat := bits (k.reg 0x201) 47 24 + 1
def Cmd.smpNeed (k : Cmd) : Nat := bits (k.reg 0x202) 23 16
def Cmd.smpNpos (k : Cmd) : Nat := bits (k.reg 0x202) 9 8
def Cmd.smpPos (k : Cmd) : Nat := bits (k.reg 0x202) 1 0
def Cmd.smpDraft (k : Cmd) : Nat := bits (k.reg 0x206) 23 0
def Cmd.smpIter (k : Cmd) : Nat := k.r2.toNat % 2 ^ 32

/-- Check 1 of R357. -/
def Cmd.smpReserved (k : Cmd) : Bool :=
  badHandle k.r1.toNat || decide (2 ^ 32 ≤ k.r2.toNat) || decide (2 < k.smpFmt) ||
    (bit (k.reg 0x200) 63 && decide (bits (k.reg 0x200) 59 20 ≠ 0)) || k.wide 0x201 48 || k.wide 0x202 24 ||
    decide (bits (k.reg 0x202) 15 10 ≠ 0) || decide (bits (k.reg 0x202) 7 2 ≠ 0) || k.wide 0x204 32 ||
    k.wide 0x205 32 || k.wide 0x206 24 || decide (k.smpNeed = 0) || decide (k.smpNpos < k.smpPos)

/-- `smpost`: a deferred command. -/
def issueSmpost (o : EngOp) (s : State) : State :=
  command s (fun s =>
    let k := s.newCmd .smpost true o.ord (s.pre.x o.rs1) (s.pre.x o.rs2)
    let a := bits (k.reg 0x200) 59 0
    if k.smpReserved then s.fault .reservedField
    else if 2 ^ 24 < k.smpFirst + k.smpCount then s.fault .reservedField
    else if a % k.smpSize ≠ 0 then s.faultAt .misaligned a
    else if bit (k.reg 0x200) 63 ∧ 2 ^ 20 < a + k.smpCount * k.smpSize then s.fault .permission
    else s.submit k o.pm (fun k s => (k, s)))

def execSmpost (o : EngOp) (s : State) : Out := guarded o.g (issueSmpost o) s

/-! ### Board entries (R359, R360) -/

def BoardEnt.unpack (v : Nat) : BoardEnt :=
  let w := v % 2 ^ 64
  { need := bits w 63 56, got := bits w 55 48, code := bits w 47 40, newM1 := bits w 39 38, accepted := bits w 37 36,
    nposM1 := bits w 35 34, lost := bit w 33, failed := bit w 32, iter := bits w 31 0,
    pairs := (List.range 4).map (fun j => (el 32 v (2 + 2 * j), el 32 v (3 + 2 * j))),
    drafts := (List.range 4).map (fun j => el 32 v (10 + j)), user := el 32 v 15, witer := el 32 v 14 }

def BoardEnt.pack (b : BoardEnt) : Nat :=
  packEl 32 ([b.iter, (if b.failed then 1 else 0) + (if b.lost then 2 else 0) + b.nposM1 % 4 * 4 + b.accepted % 4 * 16 +
      b.newM1 % 4 * 64 + b.code % 256 * 256 + b.got % 256 * 2 ^ 16 + b.need % 256 * 2 ^ 24] ++
    (List.range 4).flatMap (fun j => let p := b.pairs.getD j (0, 0); [p.1, p.2]) ++
    (List.range 4).map (fun j => b.drafts.getD j 0) ++ [b.witer, b.user])

def State.board (s : State) (pa : Nat) : BoardEnt := BoardEnt.unpack (s.physRead pa 64)
/-- The HBM request of a read or a write of an entry, for the pen of a request (R394). -/
def State.askBoard (s : State) (k : Cmd) (pa : Nat) : State := s.hbmRequest k.pen pa 64
def State.setBoard (s : State) (k : Cmd) (pa : Nat) (b : BoardEnt) : State := (s.askBoard k pa).physWrite none pa 64 b.pack

/-- Iteration `a` is ahead of `b` (R359). -/
def ahead (a b : Nat) : Bool := a != b && !bit ((a + 2 ^ 32 - b) % 2 ^ 32) 31

/-- The claim of R360: the entry, and whether the request runs. -/
def BoardEnt.claim (b : BoardEnt) (k : Cmd) : Option BoardEnt :=
  if ahead k.smpIter b.witer then
    some { b with
      witer := k.smpIter, need := k.smpNeed, nposM1 := k.smpNpos, got := 0, failed := false, code := 0, lost := false,
      accepted := 0, newM1 := 0, user := 0, pairs := List.replicate 4 (0xFF800000, 0xFFFFFFFF),
      drafts := List.replicate 4 0xFFFFFFFF }
  else if k.smpIter = b.witer ∧ !b.failed ∧ b.got < b.need then some b
  else none

/-! ### Pairs (R369) and noise (R368) -/

/-- Rank of a value: −infinity, a number, NaN. -/
def pairRank (v : FV) : Nat :=
  match v with
  | .nan => 2
  | .inf true => 0
  | _ => 1

/-- The pair p is better than q: values as FP32 patterns, then indices. -/
def pairBetter (p q : Nat × Nat) : Bool :=
  let a := fmtF32.decode p.1
  let b := fmtF32.decode q.1
  if pairRank a ≠ pairRank b then decide (pairRank b < pairRank a)
  else
    let o := if a.isNan then Ordering.eq else cmpFV a b
    match o with
    | .gt => true
    | .lt => false
    | .eq => decide (p.2 < q.2)

def betterPair (p q : Nat × Nat) : Nat × Nat := if pairBetter p q then p else q

/-- `gumbel` of R368. -/
def gumbel (seed pos t : Nat) : Nat :=
  let m := 2 ^ 64
  let x := seed % m ^^^ pos * 0x9E3779B97F4A7C15 % m ^^^ t * 0xC2B2AE3D27D4EB4F % m
  let x := (x ^^^ x / 2 ^ 30) * 0xBF58476D1CE4E5B9 % m
  let x := (x ^^^ x / 2 ^ 27) * 0x94D049BB133111EB % m
  let x := x ^^^ x / 2 ^ 31
  let u := Nat.min (roundFV fmtF32 false false (.fin false (2 * (x / 2 ^ 40) + 1) (-25))).1 0x3F7FFFFF
  let a := (f32Mul (log2Pat u).1 0x3F317218).1
  let c := (f32Mul (log2Pat (f32Neg a)).1 0x3F317218).1
  f32Neg c

/-! ### Registers of a groom (R355) -/

def Groom.wReg (g : Groom) (i : Nat) : Nat := (sget (0 : BitVec 512) g.w i).toNat
def Groom.lane (g : Groom) (i j : Nat) : Nat := el 32 (g.wReg i) j
def Groom.kReg (g : Groom) (i : Nat) : Nat := (sget (0 : BitVec 32) g.k i).toNat
def Groom.setW (g : Groom) (i : Nat) (l : List Nat) : Groom := { g with w := sput 0 g.w i (BitVec.ofNat 512 (packEl 32 l)) }
def Groom.setK (g : Groom) (i v : Nat) : Groom := { g with k := sput 0 g.k i (BitVec.ofNat 32 v) }

/-- First token of the chunk, and lanes past the end; the completion section has neither (R362, R373). -/
def GroomRun.base (r : GroomRun) : Nat := if r.entry.isSome then 0 else r.cmd.smpFirst + 16 * r.chunk
def GroomRun.past (r : GroomRun) (i : Nat) : Bool :=
  r.entry.isNone && decide (r.cmd.smpFirst + r.cmd.smpCount ≤ r.base + i)

/-- A word acts on the groom that runs, and on its request; where none runs it does nothing. -/
def onGroom (f : Groom → GroomRun → State → State) (s : State) : Out :=
  let g := s.groom s.groomNow
  .next (match g.run with
    | none => s
    | some r => f g r s)

/-- A word that changes only registers of the groom. -/
def onRegs (f : Groom → GroomRun → Groom) (s : State) : Out := onGroom (fun g r s => s.updGroom s.groomNow (fun _ => f g r)) s

/-- The request fails at the word that runs (R363). -/
def State.failWord (s : State) (c : Code) : State :=
  s.updGroom s.groomNow (fun g => { g with run := g.run.map (fun r => { r with fail := some (c, r.prog + 4 * r.ix) }) })

/-- A lane-by-lane word on w[wa], w[wb] and w[wd]. -/
def laneWord (o : LOp) (f : Nat → Nat → Nat → Nat) (s : State) : Out :=
  onRegs (fun g _ => g.setW o.wd.toNat ((List.range 16).map (fun i =>
    f (g.lane o.wa.toNat i) (g.lane o.wb.toNat i) (g.lane o.wd.toNat i)))) s

/-! ### Memory of a request (R355): plain accesses with emask bit 13 -/

def State.groomRead (s : State) (r : GroomRun) (va n : Nat) : Except Code Nat × State :=
  match s.engRead r.cmd.pen 13 (.cluster (clusterOf r.cmd.ctx)) (pageFuel n) (va % 2 ^ 60) n with
  | (.error (c, _), s) => (.error c, s)
  | (.ok v, s) => (.ok v, s)

def State.groomWrite (s : State) (r : GroomRun) (va n v : Nat) : Except Code Unit × State :=
  match s.engWrite r.cmd.pen 13 (.cluster (clusterOf r.cmd.ctx)) (pageFuel n) (va % 2 ^ 60) n v with
  | (.error (c, _), s) => (.error c, s)
  | (.ok _, s) => (.ok (), s)

/-- Values for a list of lanes, each read in turn; a fault ends the word. -/
def lanesM (f : Nat → State → Except Code Nat × State) : List Nat → State → Except Code (List Nat) × State
  | [], s => (.ok [], s)
  | i :: r, s =>
    match f i s with
    | (.error c, s) => (.error c, s)
    | (.ok v, s) =>
      match lanesM f r s with
      | (.error c, s) => (.error c, s)
      | (.ok l, s) => (.ok (v :: l), s)

/-- A word whose lanes read memory. -/
def lanesWord (wd : Nat) (f : Groom → GroomRun → Nat → State → Except Code Nat × State) (s : State) : Out :=
  onGroom (fun g r s =>
    match lanesM (f g r) (List.range 16) s with
    | (.error c, s) => s.failWord c
    | (.ok l, s) => s.updGroom s.groomNow (fun g => g.setW wd l)) s

/-! ### Count table (R366) -/

/-- Home slot of a token. -/
def countHome (t : Nat) : Nat := bits (t * 0x9E3779B1 % 2 ^ 32) 31 21

/-- What a lookup finds: the slot and count of the token, or the first slot not used. -/
inductive CountAt where
  | found (slot count : Nat)
  | absent (slot : Option Nat)
  deriving DecidableEq, Repr

/-- Probes from a slot on. -/
def State.countProbe (s : State) (r : GroomRun) (t : Nat) : Nat → Nat → Except Code CountAt × State
  | 0, _ => (.ok (.absent none), s)
  | n + 1, slot =>
    match s.groomRead r (r.cnt + 8 * slot) 8 with
    | (.error c, s) => (.error c, s)
    | (.ok v, s) =>
      if !bit v 24 then (.ok (.absent (some slot)), s)
      else if bits v 23 0 = t then (.ok (.found slot (bits v 63 32)), s)
      else s.countProbe r t n ((slot + 1) % 2048)

def State.countFind (s : State) (r : GroomRun) (t : Nat) : Except Code CountAt × State :=
  if r.cnt = 0 then (.ok (.absent none), s) else s.countProbe r t 2048 (countHome t)

/-- A count update (R366); true where the table is full. -/
def State.countBump (s : State) (r : GroomRun) (t : Nat) : Except Code Bool × State :=
  if r.cnt = 0 then (.ok false, s)
  else
    let put (s : State) (slot n : Nat) : Except Code Bool × State :=
      match s.groomWrite r (r.cnt + 8 * slot) 8 (n * 2 ^ 32 + 2 ^ 24 + t % 2 ^ 24) with
      | (.error c, s) => (.error c, s)
      | (.ok _, s) => (.ok false, s)
    match s.countFind r t with
    | (.error c, s) => (.error c, s)
    | (.ok (.found slot n), s) => put s slot (Nat.min (n + 1) 0xFFFFFFFF)
    | (.ok (.absent (some slot)), s) => put s slot 1
    | (.ok (.absent none), s) => (.ok true, s)

/-! ### Chunk-only words (R372) -/

/-- The logit of a token, from device memory or from the issuing core's scratchpad. -/
def State.logitRead (s : State) (r : GroomRun) (t : Nat) : Except Code Nat × State :=
  let k := r.cmd
  let a := bits (k.reg 0x200) 59 0 + (t - k.smpFirst) * k.smpSize
  let wide (v : Nat) : Nat := (convert (if k.smpFmt = 0 then 0 else k.smpFmt) 0 false false v).1
  if bit (k.reg 0x200) 63 then (.ok (wide (cellsRead (s.core k.core).scratch 20 a k.smpSize)), s)
  else match s.groomRead r a k.smpSize with
    | (.error c, s) => (.error c, s)
    | (.ok v, s) => (.ok (wide v), s)

def execLld (o : LOp) (s : State) : Out :=
  lanesWord o.wd.toNat (fun _ r i s => if r.past i then (.ok 0xFF800000, s) else s.logitRead r (r.base + i)) s

/-- The biases of a table that hold for token `t`, added in order. -/
def addBias (tab t y : Nat) : Nat :=
  (List.range 256).foldl (fun y e =>
    let v := el 64 tab e
    if bits v 23 0 = t ∧ t ≠ 0xFFFFFF then (f32Add y (bits v 63 32)).1 else y) y

def execLbias (o : LOp) (s : State) : Out :=
  onGroom (fun g r s =>
    match (if r.bias = 0 then (.ok 0, s) else s.groomRead r r.bias 2048 : Except Code Nat × State) with
    | (.error c, s) => s.failWord c
    | (.ok tab, s) => s.updGroom s.groomNow (fun _ => g.setW o.wd.toNat ((List.range 16).map (fun i =>
        let y := g.lane o.wa.toNat i
        if r.bias = 0 ∨ r.past i then y else addBias tab (r.base + i) y)))) s

def execLcnt (o : LOp) (s : State) : Out :=
  lanesWord o.wd.toNat (fun _ r i s =>
    if r.past i then (.ok 0, s)
    else match s.countFind r (r.base + i) with
      | (.error c, s) => (.error c, s)
      | (.ok (.found _ n), s) => (.ok (roundFV fmtF32 false false (intFV n)).1, s)
      | (.ok (.absent _), s) => (.ok 0, s)) s

/-- The FP32 pattern is above zero. -/
def f32Pos (v : Nat) : Bool :=
  match fmtF32.decode v with
  | .nan => false
  | x => cmpFV x (.fin false 0 0) == .gt

def execLpen (o : LOp) (s : State) : Out :=
  onRegs (fun g _ =>
    let kf := g.kReg (bits o.imm.toNat 3 0)
    let kp := g.kReg (bits o.imm.toNat 7 4)
    g.setW o.wd.toNat ((List.range 16).map (fun i =>
      let a := g.lane o.wa.toNat i
      let c := g.lane o.wb.toNat i
      if f32Pos c then (f32Fma (f32Neg kf) c (f32Sub a kp).1).1 else a))) s

/-- `ltemp` (R370, Table 4a). -/
def execLtemp (o : LOp) (s : State) : Out :=
  onGroom (fun g _ s =>
    let t := g.kReg o.wb.toNat
    let a (i : Nat) : Nat := g.lane o.wa.toNat i
    let put (greedy : Bool) (f : Nat → Nat) : State := s.updGroom s.groomNow (fun _ =>
      { g.setW o.wd.toNat ((List.range 16).map f) with greedy := greedy })
    if bits t 30 23 = 0 then put true a
    else match fmtF32.decode t with
      | .nan => s.failWord .sampleParam
      | .inf true => s.failWord .sampleParam
      | .inf false => put g.greedy (fun i => match fmtF32.decode (a i) with
          | .fin _ _ _ => 0
          | _ => a i)
      | .fin true _ _ => s.failWord .sampleParam
      | .fin false m e => put g.greedy (fun i => (divFV fmtF32 false false (fmtF32.decode (a i)) (.fin false m e)).1)) s

def execLmask (o : LOp) (s : State) : Out :=
  lanesWord o.wd.toNat (fun g r i s =>
    if r.past i then (.ok 0xFF800000, s)
    else if r.gram = 0 then (.ok (g.lane o.wa.toNat i), s)
    else
      let t := r.base + i
      match s.groomRead r (r.gram + t / 8) 1 with
      | (.error c, s) => (.error c, s)
      | (.ok v, s) => (.ok (if bit v (t % 8) then g.lane o.wa.toNat i else 0xFF800000), s)) s

def execLnoise (o : LOp) (s : State) : Out :=
  onRegs (fun g r => g.setW o.wd.toNat ((List.range 16).map (fun i =>
    let a := g.lane o.wa.toNat i
    if g.greedy || r.past i then a else (f32Add a (gumbel (r.cmd.reg 0x203) (g.kReg 1) (r.base + i))).1))) s

/-! ### Words of both sections (R373 to R375) -/

def execLamax (o : LOp) (s : State) : Out :=
  onRegs (fun g r =>
    let best := (List.range 16).foldl (fun p i =>
      let v := g.lane o.wa.toNat i
      if v = 0xFF800000 then p else betterPair (v, r.base + i) p) (0xFF800000, 0xFFFFFFFF)
    (g.setK o.wd.toNat best.1).setK (o.wd.toNat + 1) best.2) s

def execLmerge (o : LOp) (s : State) : Out :=
  onRegs (fun g _ =>
    let pair (i : Nat) : Nat × Nat := (g.kReg i, g.kReg (i + 1))
    let b := betterPair (pair o.wd.toNat) (pair o.wa.toNat)
    (g.setK o.wd.toNat b.1).setK (o.wd.toNat + 1) b.2) s

def execLadd (o : LOp) (s : State) : Out := laneWord o (fun a b _ => (f32Add a b).1) s
def execLsub (o : LOp) (s : State) : Out := laneWord o (fun a b _ => (f32Sub a b).1) s
def execLmul (o : LOp) (s : State) : Out := laneWord o (fun a b _ => (f32Mul a b).1) s
def execLfma (o : LOp) (s : State) : Out := laneWord o (fun a b d => (f32Fma a b d).1) s
def execLmin (o : LOp) (s : State) : Out := laneWord o (fun a b _ => (fminmax fmtF32 true a b).1) s
def execLmax (o : LOp) (s : State) : Out := laneWord o (fun a b _ => (fminmax fmtF32 false a b).1) s

def execLsel (o : LOp) (s : State) : Out :=
  onRegs (fun g _ =>
    let m := g.kReg (bits o.imm.toNat 3 0)
    g.setW o.wd.toNat ((List.range 16).map (fun i =>
      if bit m i then g.lane o.wa.toNat i else g.lane o.wb.toNat i))) s

def execLcmp (o : LOp) (s : State) : Out :=
  onRegs (fun g _ =>
    g.setK o.wd.toNat (packEl 1 ((List.range 16).map (fun i =>
      if (fcmpCond (bits o.imm.toNat 2 0) (fmtF32.decode (g.lane o.wa.toNat i)) (fmtF32.decode (g.lane o.wb.toNat i))).1
      then 1 else 0)))) s

/-- `lcap`: c · tanh(x / c). -/
def execLcap (o : LOp) (s : State) : Out :=
  onGroom (fun g _ s =>
    let c := g.kReg o.wb.toNat
    let put (f : Nat → Nat) : State := s.updGroom s.groomNow (fun _ =>
      g.setW o.wd.toNat ((List.range 16).map (fun i => f (g.lane o.wa.toNat i))))
    match fmtF32.decode c with
    | .nan => s.failWord .sampleParam
    | .inf neg => if neg then s.failWord .sampleParam else put id
    | .fin neg m e =>
      if neg ∨ m = 0 then s.failWord .sampleParam
      else put (fun x =>
        (f32Mul c (tanhPat (divFV fmtF32 false false (fmtF32.decode x) (.fin false m e)).1).1).1)) s

def execLimm (o : LOp) (s : State) : Out :=
  onRegs (fun g _ =>
    let v := o.imm.toNat
    g.setK o.wd.toNat (match o.wa.toNat with
      | 0 => v * 2 ^ 18
      | 1 => (BitVec.signExtend 32 o.imm).toNat
      | _ => (g.kReg o.wd.toNat * 2 ^ 14 + v) % 2 ^ 32)) s

def execLmov (o : LOp) (s : State) : Out :=
  onRegs (fun g _ =>
    match bits o.imm.toNat 1 0 with
    | 0 => g.setW o.wd.toNat ((List.range 16).map (g.lane o.wa.toNat))
    | 1 => g.setW o.wd.toNat (List.replicate 16 (g.kReg o.wa.toNat))
    | 2 => g.setK o.wd.toNat (g.kReg o.wa.toNat)
    | _ => g.setK o.wd.toNat (g.lane o.wa.toNat (bits o.imm.toNat 5 2))) s

/-! ### Completion-only words (R376) -/

/-- A word that acts on the board entry of the completion section. -/
def onEntry (f : Groom → GroomRun → BoardEnt → State → State) (s : State) : Out :=
  onGroom (fun g r s => match r.entry with
    | none => s
    | some b => f g r b s) s

def State.setEntry (s : State) (b : BoardEnt) : State :=
  s.updGroom s.groomNow (fun g => { g with run := g.run.map (fun r => { r with entry := some b }) })

/-- Leading drafts that were accepted, from position `j` on; `n` positions remain. -/
def BoardEnt.accepts (b : BoardEnt) : Nat → Nat → Nat
  | 0, _ => 0
  | n + 1, j =>
    let i := (b.pairs.getD j (0, 0)).2
    if i = b.drafts.getD j 0 ∧ i ≠ 0xFFFFFFFF then 1 + b.accepts n (j + 1) else 0

def execLacc (o : LOp) (s : State) : Out :=
  onEntry (fun _ _ b s =>
    let a := b.accepts b.nposM1 0
    (s.setEntry { b with accepted := a, newM1 := a }).updGroom s.groomNow (fun g => g.setK o.wd.toNat a)) s

def execLput (o : LOp) (s : State) : Out :=
  onEntry (fun g _ b s => s.setEntry { b with user := g.kReg o.wa.toNat }) s

/-- Counts the tokens of some positions; a fault fails the request. -/
def State.bumpAll (s : State) (r : GroomRun) (b : BoardEnt) : List Nat → State
  | [] => s.setEntry b
  | j :: l =>
    let t := (b.pairs.getD j (0, 0)).2
    if t = 0xFFFFFFFF then s.bumpAll r b l
    else match s.countBump r t with
      | (.error c, s) => (s.setEntry b).failWord c
      | (.ok full, s) => s.bumpAll r { b with lost := b.lost || full } l

def execLbump (_ : LOp) (s : State) : Out :=
  onEntry (fun _ r b s => s.bumpAll r b (List.range (b.accepted + 1))) s

/-- `lend` ends its section: of the chunk section, the next chunk follows, or the merge (R362). -/
def execLend (_ : LOp) (s : State) : Out :=
  onGroom (fun _ r s =>
    s.updGroom s.groomNow (fun g => { g with run := some (
      if r.entry.isSome then { r with ix := r.words.length }
      else if 16 * (r.chunk + 1) < r.cmd.smpCount then { r with ix := 0, chunk := r.chunk + 1 }
      else { r with phase := .merge }) })) s

/-! ### A request (R362 to R365) -/

/-- The word with code `op` acts. -/
def runLogit (op : Nat) (o : LOp) (s : State) : Out :=
  match op with
  | 0x01 => execLld o s
  | 0x02 => execLbias o s
  | 0x03 => execLcnt o s
  | 0x04 => execLpen o s
  | 0x05 => execLtemp o s
  | 0x06 => execLmask o s
  | 0x07 => execLnoise o s
  | 0x08 => execLamax o s
  | 0x09 => execLmerge o s
  | 0x0A => execLadd o s
  | 0x0B => execLsub o s
  | 0x0C => execLmul o s
  | 0x0D => execLfma o s
  | 0x0E => execLmin o s
  | 0x0F => execLmax o s
  | 0x10 => execLsel o s
  | 0x11 => execLcmp o s
  | 0x12 => execLcap o s
  | 0x13 => execLimm o s
  | 0x14 => execLmov o s
  | 0x15 => execLacc o s
  | 0x16 => execLput o s
  | 0x17 => execLbump o s
  | 0x18 => execLend o s
  | _ => .next s

/-- The state of a next outcome. -/
def outState (d : State) : Out → State
  | .next s => s
  | .fault _ => d
  | .refused _ => d

/-- Pages that faulted, by the code of a request's failure: an access that faults ends the word (R232, R363). -/
def Code.pages : Code → Nat
  | .notPresent | .permission | .engineMask | .misaligned | .tableStructure | .genWrite | .orderKind => 1
  | _ => 0

/-- The record of a request that fails: source 7, the handle and page 0 (R363). -/
def State.sampleRecord (s : State) (k : Cmd) (code merged pc extent : Nat) : FaultRec :=
  { seq := s.seq, pen := k.pen, ctx := k.ctx, code := code, source := 7, cmd := true, kv := true, region := false,
    merged := merged, cid := k.cid.toNat, wid := k.wid, pc := pc, rpc := pc, job := k.job, extent := extent,
    addr := kvAddr k.r1.toNat 0, loops := k.loops, xregs := [] }

/-- A request fails: the fail step where the claim has admitted it (`board`), its record, and its status (R360, R363); one that
meets `TABLE_STRUCTURE` ends its pen's work (R437). -/
def State.failSample (s : State) (k : Cmd) (board : Option Nat) (code : Code) (pc : Nat) (done : Nat) : State :=
  let s := match board with
    | none => s
    | some pa =>
      let b := s.board pa
      let s := s.askBoard k pa
      if b.witer = k.smpIter ∧ !b.failed then s.setBoard k pa { b with failed := true, code := code.num } else s
  let q := s.seq
  let m := if board.isSome then code.pages else 0
  let s := { s with seq := s.seq + 1 }.postRecord (s.sampleRecord k code.num m pc (k.smpCount - done)) false
  let s := s.retire k code.num false 5 done
  if code = .tableStructure then s.penFail k.pen q else s

/-- The groom has no request any more. -/
def State.endRun (s : State) (c : Nat) : State := s.updGroom c (fun g => { g with run := none })

/-- Ops that stand in one section only (Table 4). -/
def chunkOnly (op : Nat) : Bool := decide (1 ≤ op) && decide (op ≤ 7)
def completionOnly (op : Nat) : Bool := decide (0x15 ≤ op) && decide (op ≤ 0x17)

/-- Words from an index on: the first that decoding refuses (R364); `sec` counts the `lend`s before. -/
def badWord : List Nat → Nat → Nat → Option Nat
  | [], _, _ => none
  | w :: r, i, sec =>
    let op := bits w 31 26
    if !logitOk op (logitFields w) || (if sec = 0 then completionOnly op else chunkOnly op) then some i
    else badWord r (i + 1) (if op = 0x18 then sec + 1 else sec)

/-- Fetches words up to the second `lend` or the 64th word. -/
def State.fetchWords (s : State) (r : GroomRun) : Nat → Nat → Nat → Except (Code × Nat) (List Nat) × State
  | 0, _, _ => (.ok [], s)
  | n + 1, i, sec =>
    match s.groomRead r (r.prog + 4 * i) 4 with
    | (.error c, s) => (.error (c, r.prog + 4 * i), s)
    | (.ok w, s) =>
      let sec := if bits w 31 26 = 0x18 then sec + 1 else sec
      if sec = 2 then (.ok [w], s)
      else match s.fetchWords r n (i + 1) sec with
        | (.error e, s) => (.error e, s)
        | (.ok l, s) => (.ok (w :: l), s)

/-- The registers at the start of a request (R362 step 5). -/
def startRegs (g : Groom) (k : Cmd) : Groom :=
  let g := { g with w := [], k := [], greedy := false }
  ((((((g.setK 0 (k.reg 0x205)).setK 1 (k.reg 0x204)).setK 2 (k.reg 0x207 % 2 ^ 32)).setK 3
    (k.reg 0x207 / 2 ^ 32)).setK 14 0xFF800000).setK 15 0xFFFFFFFF)

/-- Steps 4 and 5 of R362, after the claim. -/
def State.loadProgram (s : State) (c : Nat) (r : GroomRun) : State :=
  let k := r.cmd
  let bad (s : State) (code : Code) (pc : Nat) : State := s.failSample k (some r.board) code pc 0
  if r.prog % 4 ≠ 0 then bad s .misaligned k.pc.toNat
  else match s.fetchWords r 64 0 0 with
    | (.error (code, pc), s) => bad s code pc
    | (.ok ws, s) =>
      match badWord ws 0 0 with
      | some i => bad s .logitFault (r.prog + 4 * i)
      | none =>
        if ws.all (fun w => bits w 31 26 != 0x18) then bad s .logitFault k.pc.toNat
        else s.updGroom c (fun g => { startRegs g k with run := some { r with words := ws } })

/-- Steps 1 to 3 of R362. -/
def State.startSample (s : State) (c : Nat) (k : Cmd) : State :=
  match s.resolve k.pen k.r1.toNat with
  | (.error e, s) => s.failSample k none e k.pc.toNat 0
  | (.ok (_, d), s) =>
    match (if d.board = 0xFFFF then none else (s.pen k.pen).boardSlot d.board) with
    | none => s.failSample k none .permission k.pc.toNat 0
    | some pa =>
      match (s.board pa).claim k with
      | none => (s.askBoard k pa).finishCmd k 0
      | some b => ((s.askBoard k pa).setBoard k pa b).loadProgram c
          ⟨k, d.lprog, d.cnt, d.bias, d.gram, pa, [], .chunk, 0, 0, none, none⟩

/-- The completion section, word by word; it ends at its `lend`, at the last word, or at a failure (R364, R365). -/
def runCompletion (c : Nat) : Nat → State → State
  | 0, s => s
  | n + 1, s =>
    match (s.groom c).run with
    | none => s
    | some r =>
      match r.words[r.ix]? with
      | none => s
      | some w =>
        if r.fail.isSome then s
        else
          let s := (s.budgetCharge 5 c (Config.groomCycles (bits w 31 26)))
          let s := outState s (runLogit (bits w 31 26) (logitFields w) s)
          runCompletion c n (s.updGroom c (fun g => { g with run := g.run.map (fun r =>
            if r.fail.isSome then r else { r with ix := r.ix + 1 }) }))

/-- Fresh registers of the completion pass (R365). -/
def completionRegs (g : Groom) (b : BoardEnt) : Groom :=
  let g := { g with w := [], k := [], greedy := false }
  let g := (List.range 4).foldl (fun (g : Groom) j => g.setK j (b.pairs.getD j (0, 0)).2) g
  let g := (List.range 4).foldl (fun (g : Groom) j => g.setK (4 + j) (b.drafts.getD j 0)) g
  g.setK 8 (b.nposM1 + 1)

/-- The entry of the completion pass is written, iter last, and the request retires (R360). -/
def State.releaseSample (s : State) (c : Nat) (r : GroomRun) (b : BoardEnt) : State :=
  ((s.setBoard r.cmd r.board { b with iter := b.witer }).finishCmd r.cmd r.cmd.smpCount).endRun c

/-- The completion pass of the request of a groom, from its last merge (R365): the entry is written once every write of the
pass has performed. -/
def State.completeSample (s : State) (c : Nat) (r : GroomRun) (b : BoardEnt) : State :=
  let k := r.cmd
  let first := (r.words.findIdx? (fun w => bits w 31 26 == 0x18)).getD r.words.length
  let s := s.updGroom c (fun g => { completionRegs g b with
    run := some { r with entry := some b, ix := first + 1 } })
  let s := runCompletion c 64 { s with groomNow := c }
  let r' := (s.groom c).run.getD r
  let b := r'.entry.getD b
  match r'.fail with
  | some (code, pc) => ((s.setBoard k r.board b).failSample k (some r.board) code pc k.smpCount).endRun c
  | none =>
    if s.sending k then s.updGroom c (fun g => { g with run := some { r' with phase := .release } })
    else s.releaseSample c r b

/-- The merge of R360, with the completion pass where it is the last. -/
def State.mergeSample (s : State) (c : Nat) (r : GroomRun) : State :=
  let k := r.cmd
  let g := s.groom c
  let b := s.board r.board
  let s := s.askBoard k r.board
  if k.smpIter ≠ b.witer ∨ b.failed then (s.finishCmd k 0).endRun c
  else if k.smpNeed ≠ b.need ∨ k.smpNpos ≠ b.nposM1 ∨ b.got = b.need then
    (s.failSample k (some r.board) .sampleParam k.pc.toNat k.smpCount).endRun c
  else
    let j := k.smpPos
    let b := { b with
      drafts := if k.smpDraft = 0xFFFFFF then b.drafts else lset b.drafts j k.smpDraft,
      pairs := lset b.pairs j (betterPair (b.pairs.getD j (0, 0)) (g.kReg 14, g.kReg 15)), got := b.got + 1 }
    if b.got ≠ b.need then ((s.setBoard k r.board b).finishCmd k k.smpCount).endRun c
    else s.completeSample c r b

/-- Another groom has completed a pass on a board entry and has not written it: no other step on it intervenes (R360). -/
def State.boardTaken (s : State) (c pa : Nat) : Bool :=
  s.grooms.any (fun kg => kg.1 != c && (match kg.2.run with
    | some r => r.board == pa && decide (r.phase = .release)
    | none => false))

/-- A request that a word or an answer to one of its messages has failed ends with the fail step, once no other step on its board
entry stands in between (R360, R363). -/
def State.failRun (s : State) (c : Nat) (r : GroomRun) : State :=
  match r.fail with
  | none => s
  | some (code, pc) =>
    if s.boardTaken c r.board then s.updGroom c (fun g => { g with run := some r })
    else (s.failSample r.cmd (some r.board) code pc (if r.phase = .chunk then 16 * r.chunk else r.cmd.smpCount)).endRun c

/-- One word of the chunk section. -/
def State.chunkWord (s : State) (c : Nat) (r : GroomRun) : State :=
  match r.words[r.ix]? with
  | none => s.updGroom c (fun g => { g with run := some { r with phase := .merge } })
  | some w =>
    let op := bits w 31 26
    let s := { s with groomNow := c }.budgetCharge 5 c (Config.groomCycles op)
    let s := outState s (runLogit op (logitFields w) s)
    match (s.groom c).run with
    | none => s
    | some r' =>
      match r'.fail with
      | some _ => s.failRun c r'
      | none => if op = 0x18 then s else s.updGroom c (fun g => { g with run := some { r' with ix := r.ix + 1 } })

/-- The board entry that a request would claim. -/
def State.claims (s : State) (k : Cmd) : Option Nat :=
  match (s.resolve k.pen k.r1.toNat).1 with
  | .error _ => none
  | .ok (_, d) => if d.board = 0xFFFF then none else (s.pen k.pen).boardSlot d.board

/-- The request that a groom runs goes on. -/
def State.runSample (s : State) (c : Nat) (r : GroomRun) : State :=
  if r.fail.isSome then s.failRun c r
  else match r.phase with
  | .chunk => s.chunkWord c r
  | .merge => if s.boardTaken c r.board then s else s.mergeSample c r
  | .release => if s.sending r.cmd then s else s.releaseSample c r (r.entry.getD (s.board r.board))

/-- A step of a cluster's groom for a request: its messages name the request (R407), and budgets admit what it accesses (R396). -/
def State.groomFor (s : State) (c : Nat) (k : Cmd) (f : State → State) : State :=
  s.meterUnit (128 + c) 0 0 (fun s => (s.asCmd k (fun s => ((), f s))).2)

/-- The request at the head of a groom's queue, once it has started (R354, R289). -/
def State.nextSample (s : State) (c : Nat) : Option Cmd :=
  match (s.groom c).queue with
  | [] => none
  | q :: _ => s.cmds.find? (fun k => k.task == q.1 && k.cid == q.2 && decide (k.kind = CmdKind.smpost) &&
      decide (k.st = CmdSt.running))

/-- The next thing a groom does: a word, the merge, or the start of a request, which its budget may hold. -/
def State.groomStep (s : State) (c : Nat) : State :=
  match (s.groom c).run with
  | some r => s.groomFor c r.cmd (fun s => s.runSample c r)
  | none =>
    match s.nextSample c with
    | none => s
    | some k =>
      match s.heldBy 5 c with
      | some s => s
      | none =>
        if (s.claims k).any (s.boardTaken c) then s
        else s.groomFor c k (fun s => (s.leaveQueue k).startSample c k)

/-- GROOM_REQUEST (R362). -/
def execGroomRequest (cluster : Nat) (s : State) : Out := .next (if s.updating (32 + cluster) then s else s.groomStep cluster)

/-- TWAIT_WAKE (R360, R361): the entry that a parked context waits for has been released or has failed. -/
def execTwaitWake (ctx : Nat) (s : State) : Out :=
  .next (match (s.ctx ctx).st with
    | .parked (.twait pa want) =>
      if boardReady (s.physRead pa 8) want then s.updCtx ctx (fun c => { c with st := .ready }) else s
    | _ => s)

end Sys2Proof.Machine
end

