-- ==== Sys2Proof/Machine/Jobs.lean ====
section
/-! DEFINITION. The job sequencer: placement and pre-emption, the driver's orders to tasks, the completion signal,
and the job syllables (R89 to R96, R109 to R112, R250, R380, R381, R392, R393). -/

namespace Sys2Proof.Machine

/-! ### WIDs, groups and units (R89 to R91) -/

/-- Task count of a header: the product of the extents. -/
def Header.count (h : Header) : Nat := h.levels.foldl (fun a l => a * l.extent) 1

/-- Tasks of one group at level `j`. -/
def Header.groupSize (h : Header) (j : Nat) : Nat := (h.levels.take (j + 1)).foldl (fun a l => a * l.extent) 1

/-- The WID of task `ord` in ascending WID order (R89). -/
def widOf : List Level → Nat → Nat
  | [], _ => 0
  | l :: r, ord => ord % l.extent + 2 ^ l.width * widOf r (ord / l.extent)

/-- Tasks placed as one: a gang's size, or 1 (R91). -/
def Header.unitSize (h : Header) : Nat := if h.gang = 7 then 1 else h.groupSize h.gang

/-- The unit of a scope that a context stands in (R90): context, core, cluster, die, package. -/
def scopeUnit (scope ctx : Nat) : Nat :=
  match scope with
  | 0 => ctx | 1 => ctx / 2 | 2 => ctx / 32 | 3 => ctx / 256 | _ => 0

/-- A group holds the unit it was given: one of its placed tasks is on a context or has ended (R90, R110). -/
def State.groupHeld (s : State) (ln : Nat) (l : Launch) (j key : Nat) : Bool :=
  let p := l.hdr.groupSize j
  let here := s.tasks.filter (fun kt => kt.2.launch == ln && kt.2.ord / p == key)
  here.any (fun kt => match kt.2.st with
    | .on _ => true
    | _ => false) || decide (here.length < Nat.min l.next ((key + 1) * p) - key * p)

/-- The unit that a group is bound to, by a placement being made or by one that holds. -/
def State.unitFor (s : State) (ln : Nat) (l : Launch) (now : List (Nat × Nat × Nat)) (j key : Nat) : Option Nat :=
  match now.find? (fun u => u.1 == j && u.2.1 == key) with
  | some u => some u.2.2
  | none =>
    if s.groupHeld ln l j key then (l.units.find? (fun u => u.1 == j && u.2.1 == key)).map (fun u => u.2.2) else none

/-! ### The order (R381) -/

/-- A task that waits for a context: its launch, its place in ascending WID, and its number where it is SAVED. -/
structure Waiter where
  launch : Nat
  ord : Nat
  task : Option Nat
  deriving DecidableEq, Repr

def State.launchOf (s : State) (c : Waiter) : Option Launch := sfind s.launches c.launch

/-- An earlier task of a group at context scope has not ended: the next one does not start (R90). -/
def State.groupWaits (s : State) (ln : Nat) (l : Launch) (ord : Nat) : Bool :=
  (List.range l.hdr.levels.length).any (fun j =>
    (l.hdr.levels[j]?.any (fun v => v.scope == 0)) &&
      s.tasks.any (fun kt => kt.2.launch == ln && kt.2.ord / l.hdr.groupSize j == ord / l.hdr.groupSize j))

/-- What is placed as one, in ascending WID: the next tasks of each launch, and SAVED tasks and gangs. A member that was
stopped alone, and that its gang's driver has resumed, is placed alone while a mate holds a context (R91, R106). -/
def State.waiting (s : State) : List (List Waiter) :=
  let fresh := s.launches.filterMap (fun kl =>
    let l := kl.2
    if l.next < l.total then
      some ((List.range (Nat.min l.hdr.unitSize 1024)).map (fun i => (⟨kl.1, l.next + i, none⟩ : Waiter)))
    else none)
  let isSaved (kt : Nat × Task) : Bool := decide (kt.2.st = TaskSt.saved)
  let saved := s.tasks.filter isSaved
  let cand (kt : Nat × Task) : Waiter := ⟨kt.2.launch, kt.2.ord, some kt.1⟩
  let alone := (saved.filter (fun kt => kt.2.gang == 0)).map (fun kt => [cand kt])
  let gangs := s.gangs.flatMap (fun kg =>
    let m := s.tasks.filter (fun kt => kt.2.gang == kg.1)
    if m.isEmpty then []
    else if m.all isSaved then [isort (fun (a b : Waiter) => decide (a.ord ≤ b.ord)) (m.map cand)]
    else if m.any (fun kt => match kt.2.st with
        | .on _ => true
        | _ => false) then (m.filter isSaved).map (fun kt => [cand kt])
    else [])
  fresh ++ alone ++ gangs

/-- Place in the order: priority, acceptance of the job, SAVED first, WID, launch (R381; assumption log 18). -/
def State.rank (s : State) (g : List Waiter) : List Nat :=
  match g with
  | [] => []
  | c :: _ =>
    match s.launchOf c with
    | none => []
    | some l =>
      let j := sfind s.jobs l.job
      [7 - (j.map Job.prio).getD 0, (j.map Job.seq).getD 0, if c.task.isSome then 0 else 1,
        widOf l.hdr.levels c.ord, c.launch]

/-- Lexicographic order. -/
def lexLe : List Nat → List Nat → Bool
  | [], _ => true
  | _ :: _, [] => false
  | a :: r, b :: t => decide (a < b) || (a == b && lexLe r t)

/-- The head of the order. -/
def State.headOfOrder (s : State) : Option (List Waiter) :=
  (isort (fun a b => lexLe (s.rank a) (s.rank b)) s.waiting).head?

/-! ### Finding contexts (R90, R91, R94, R110, R387) -/

/-- The highest slot that the init image names, plus one (R94, R112). -/
def imageSlots (w : List Nat) : Nat :=
  match w with
  | [] => 0
  | h :: r =>
    let nt := bits h 24 16
    let tiles := (List.range nt).map (fun i => r.getD (4 * i) 0 + 1)
    let rings := (List.range (bits h 29 25)).map (fun i =>
      let x := r.getD (4 * nt + 2 * i) 0
      bits x 15 8 + bits x 24 16)
    (tiles ++ rings).foldl Nat.max 0

/-- Context `n` can take a task of a launch: it is free, the partition of its core fits, and it owns the slots that the
image names (R94). -/
def State.ctxFits (s : State) (l : Launch) (n : Nat) : Bool :=
  let t0 := l.hdr.tiles0
  (s.ctx n).task == 0 && decide ((s.ctx n).st = CtxSt.idle) &&
    ((s.ctx (n ^^^ 1)).task == 0 || (s.core (coreOf n)).tiles0 == t0) &&
    decide (imageSlots l.init ≤ if n % 2 = 0 then t0 else 256 - t0)

/-- Every group of a task that is bound to a unit is bound to the one that context `n` stands in (R90). -/
def State.scopesFit (s : State) (ln : Nat) (l : Launch) (ord : Nat) (now : List (Nat × Nat × Nat)) (n : Nat) : Bool :=
  (List.range l.hdr.levels.length).all (fun j =>
    match s.unitFor ln l now j (ord / l.hdr.groupSize j), l.hdr.levels[j]? with
    | some u, some v => u == scopeUnit v.scope n
    | _, _ => true)

/-- Contexts in the order in which a search from core `start` meets them. -/
def contextsFrom (start : Nat) : List Nat :=
  (List.range 512).flatMap (fun i => let c := (start + i) % 512; [2 * c, 2 * c + 1])

/-- Contexts for as many groups as fit into `l`, group by group, each with its tasks in ascending WID; levels from the
outermost (R90, R91). -/
def packGroups : List Level → List Nat → List (List Nat)
  | [], l => l.map (fun c => [c])
  | v :: r, l =>
    ((l.map (scopeUnit v.scope)).eraseDups).flatMap (fun u =>
      let inner := packGroups r (l.filter (fun c => scopeUnit v.scope c == u))
      (List.range (inner.length / v.extent)).map (fun i => ((inner.drop (i * v.extent)).take v.extent).flatten))

/-- No other live gang is homed on a core (R387). -/
def State.homeFree (s : State) (gang core : Nat) : Bool :=
  !s.gangs.any (fun kg => kg.1 != gang && kg.2.home == core && s.tasks.any (fun kt => kt.2.gang == kg.1 &&
    (match kt.2.st with
      | .on _ => true
      | _ => false)))

/-- The units that a task's groups take with context `n`. -/
def Launch.unitsAt (l : Launch) (ord n : Nat) : List (Nat × Nat × Nat) :=
  (List.range l.hdr.levels.length).map (fun j =>
    (j, ord / l.hdr.groupSize j, scopeUnit ((l.hdr.levels.map Level.scope).getD j 4) n))

/-- Contexts for SAVED tasks, one after the other: the one that the task left where it is free, else the first with its
index k (R110). -/
def State.seatSaved (s : State) (start : Nat) : List Waiter → List Nat → List (Nat × Nat × Nat) → Option (List Nat)
  | [], _, _ => some []
  | c :: r, used, now =>
    match s.launchOf c, c.task.bind (sfind s.tasks) with
    | some l, some t =>
      let free := (t.last :: contextsFrom start).filter (fun n => n % 2 == t.last % 2)
      match free.find? (fun n => !used.contains n && s.ctxFits l n && s.scopesFit c.launch l c.ord now n) with
      | none => none
      | some n => (s.seatSaved start r (n :: used) (l.unitsAt c.ord n ++ now)).map (fun x => n :: x)
    | _, _ => none

/-- The task of smallest WID among those that are left of a gang (R387). -/
def State.firstOrd (s : State) (gang : Nat) : Nat :=
  match (s.tasks.filter (fun kt => kt.2.gang == gang)).map (fun kt => kt.2.ord) with
  | [] => 0
  | o :: r => r.foldl Nat.min o

/-- Contexts for the head of the order; none where it cannot be placed. -/
def State.seats (s : State) (start : Nat) (g : List Waiter) : Option (List Nat) :=
  match g with
  | [] => none
  | c :: _ =>
    match s.launchOf c with
    | none => none
    | some l =>
      let gang := match c.task.bind (sfind s.tasks) with
        | some t => t.gang
        | none => 0
      let home (x : List Nat) : Bool := l.hdr.gang == 7 || (c.task.isSome && c.ord != s.firstOrd gang) ||
        s.homeFree gang (coreOf (x.headD 0))
      if c.task.isSome then (s.seatSaved start g [] []).filter home
      else if s.groupWaits c.launch l c.ord then none
      else
        let free := (contextsFrom start).filter (fun n => s.ctxFits l n && s.scopesFit c.launch l c.ord [] n)
        let lv := if l.hdr.gang = 7 then [] else (l.hdr.levels.take (l.hdr.gang + 1)).reverse
        (packGroups lv free).find? home

/-! ### Setting up a task (R96, R112) -/

/-- Registers of a task that starts, but for what the init image gives. -/
def Ctx.start (task : Nat) (h : Header) (pen : Nat) (ord : Nat) (hct : List HWord) : Ctx :=
  let c := { Ctx.idle with
    st := .ready, task := task, pc := BitVec.ofNat 60 h.entry, ps := 1,
    wid := BitVec.ofNat 64 (widOf h.levels ord), pen := BitVec.ofNat 6 pen, prio := BitVec.ofNat 3 h.prio,
    mpc := BitVec.ofNat 60 h.metaPc }
  (hct.zipIdx.foldl (fun (c : Ctx) (w : HWord × Nat) => c.setHct (h.hctbase + w.2) (.loaded w.1)) c).setX 1
    (BitVec.ofNat 64 h.args)

/-- A tile entry from a tile record (R112, Table 7). -/
def tileOfImage (w0 w1 : Nat) : TileEnt :=
  { TileEnt.reset with
    tag := BitVec.ofNat 48 (w0 / 2 ^ 16), state := if bits w0 1 0 = 2 then .ready else .empty,
    persist := bit w1 34, layout := BitVec.ofNat 3 (bits w1 33 31), fmt := BitVec.ofNat 4 (bits w1 30 27),
    group := BitVec.ofNat 1 (bits w1 26 26), lines := BitVec.ofNat 13 (bits w1 25 13),
    base := BitVec.ofNat 13 (bits w1 12 0) }

/-- The init image on a context, from its first owned slot `first` (R112): tiles, rings, formats. -/
def State.applyImage (s : State) (ctx first : Nat) (w : List Nat) : State :=
  match w with
  | [] => s
  | h :: r =>
    let nt := bits h 24 16
    let nr := bits h 29 25
    let s := (List.range nt).foldl (fun s i =>
      s.updTile (coreOf ctx) (first + r.getD (4 * i) 0) (fun _ =>
        tileOfImage (r.getD (4 * i + 1) 0) (r.getD (4 * i + 2) 0))) s
    let s := (List.range nr).foldl (fun s i =>
      let x := r.getD (4 * nt + 2 * i) 0
      s.updCtx ctx (fun c => c.setRing (BitVec.ofNat 4 x) ⟨first + bits x 15 8, bits x 24 16, 0, 0⟩)) s
    (List.range (bits h 33 30)).foldl (fun s i =>
      let at_ := 4 * nt + 2 * nr + 2 * i
      s.updCtx ctx (fun c => { c with
        mft := sput 0 c.mft (r.getD at_ 0 % 8) (BitVec.ofNat 64 (r.getD (at_ + 1) 0)) })) s

/-- The core takes the partition of a launch (R94). -/
def State.partition (s : State) (ctx t0 : Nat) : State := s.updCore (coreOf ctx) (fun c => { c with tiles0 := t0 })

/-- A fresh task starts on a context (R96). -/
def State.startTask (s : State) (ln : Nat) (l : Launch) (ord gang ctx : Nat) : State :=
  let n := s.nextTask
  let pen := ((sfind s.jobs l.job).map Job.pen).getD 0
  let s := s.partition ctx l.hdr.tiles0
  let s := (s.ownedSlots ctx).foldl (fun s i => s.updTile (coreOf ctx) i (fun _ => TileEnt.reset)) s
  let s := s.setCtx ctx (Ctx.start n l.hdr pen ord l.hct)
  let s := s.applyImage ctx (if ctx % 2 = 0 then 0 else l.hdr.tiles0) l.init
  { s with
    nextTask := n + 1
    tasks := sset s.tasks n ⟨l.job, ln, ord, BitVec.ofNat 64 (widOf l.hdr.levels ord), .on ctx, ctx, gang, none, none, 0, 0,
      false⟩ }

/-- What a task left to be performed stands before its later accesses again, on the context where it resumes (R101, R240,
R246); acknowledgements are still awaited where it left them. -/
def State.takeLates (s : State) (task ctx : Nat) : State :=
  let mine := s.lates.filter (fun l => l.task == task)
  let s := { s with
    lates := (s.lates.map (fun (l : Late) => if l.task = task then { l with ents := [] } else l)).filter
      (fun l => l.task != task || l.acks != 0) }
  s.updCtx ctx (fun c => { c with drain := mine.flatMap Late.ents })

/-- A SAVED task resumes on a context (R110, R111): its state, tile words and persistent tiles return, its frame is free,
and it re-arms its rings (R108). No line of the core's L1 is older than what the task has read or written (R240): the model
takes them all out (assumption log 92). -/
def State.resumeTask (s : State) (l : Launch) (task ctx : Nat) : State :=
  match sfind s.tasks task with
  | none => s
  | some t =>
    match t.saved with
    | none => s
    | some v =>
      let pen := v.ctx.pen.toNat
      let s := s.partition ctx l.hdr.tiles0
      let s := s.updCore (coreOf ctx) (fun c => { c with
        tiles := v.tiles.foldl (fun m kt => sput TileEnt.reset m kt.1 kt.2) c.tiles
        scratch := v.lines.foldl (fun m b => sput 0 m b.1 b.2) ((List.filter (fun b =>
          !v.tiles.any (fun kt => kt.2.persist && decide (kt.2.byteBase ≤ b.1) &&
            decide (b.1 < kt.2.byteBase + kt.2.bytes)))) c.scratch) })
      let now := s.now ctx
      let s := s.setCtx ctx { v.ctx with
        sb := v.ctx.sb.map (fun m => (m.1, now + m.2))
        divFree := if v.ctx.divFree = 0 then 0 else now + v.ctx.divFree }
      let s := (s.updCore (coreOf ctx) (fun c => { c with l1 := [] })).takeLates task ctx
      let s := match t.frame with
        | some f =>
          (s.askItems pen ((s.pen pen).framePa f) (s.frameItems v.ctx v.ctx.latch.isSome (s.core (coreOf ctx))
            (s.ownedSlots ctx) ctx)).updPen pen (fun p => { p with frames := p.frames.filter (· != f) })
        | none => s
      let s := { s with tasks := sset s.tasks task { t with
        st := .on ctx, last := ctx, saved := none, frame := none, stopCode := 0, stopSeq := 0 } }
      s.rearmStart ctx

/-- The launch notes the units that a task's groups now have. -/
def State.bindUnits (s : State) (ln ord ctx : Nat) : State :=
  match sfind s.launches ln with
  | none => s
  | some l =>
    let u := l.unitsAt ord ctx
    { s with launches := sset s.launches ln { l with
        units := u ++ l.units.filter (fun x => !u.any (fun y => y.1 == x.1 && y.2.1 == x.2.1)) } }

/-- One task is placed. -/
def State.seat (s : State) (gang : Nat) (c : Waiter) (ctx : Nat) : State :=
  match s.launchOf c with
  | none => s
  | some l =>
    let s := s.bindUnits c.launch c.ord ctx
    match c.task with
    | some t => s.resumeTask l t ctx
    | none =>
      let s := s.startTask c.launch l c.ord gang ctx
      match sfind s.launches c.launch with
      | some l => { s with launches := sset s.launches c.launch { l with next := c.ord + 1 } }
      | none => s

/-- The gang that tasks are placed as: a new one, or theirs, whose home is where its task of smallest WID stands (R387). -/
def State.gangFor (s : State) (g : List Waiter) (ctxs : List Nat) : Nat × State :=
  let home := coreOf (ctxs.headD 0)
  match g with
  | [] => (0, s)
  | c :: _ =>
    match c.task.bind (sfind s.tasks) with
    | some t =>
      match sfind s.gangs t.gang with
      | some x => (t.gang, if c.ord = s.firstOrd t.gang then { s with gangs := sset s.gangs t.gang { x with home := home } } else s)
      | none => (0, s)
    | none =>
      match s.launchOf c with
      | none => (0, s)
      | some l =>
        if l.hdr.gang = 7 then (0, s)
        else (s.nextGang, { s with
          nextGang := s.nextGang + 1
          gangs := sset s.gangs s.nextGang ⟨l.job, home, g.length, c.launch, c.ord / l.hdr.groupSize l.hdr.gang, []⟩ })

/-- The head takes its contexts. -/
def State.seatAll (s : State) (g : List Waiter) (ctxs : List Nat) : State :=
  let (n, s) := s.gangFor g ctxs
  (g.zip ctxs).foldl (fun s p => s.seat n p.1 p.2) s

/-! ### Pre-emption (R109, R381) -/

/-- Pre-empts a task with its gang: none where one cannot be saved. While an immediate command of a member outside a region
has not retired, the members issue nothing and leave once it has (R109). -/
def State.tryPreempt (s : State) (task : Nat) : Option State :=
  match sfind s.tasks task with
  | none => none
  | some t =>
    match t.st with
    | .on c => if (s.ctx c).leave.isSome then none else s.leaveAll (s.gangCtxs c)
    | _ => none

/-- PREEMPTION (R109): ordered by system software. -/
def execPreemption (task : Nat) (s : State) : Out := .next ((s.tryPreempt task).getD s)

/-- Some context is leaving: the head of the order waits for it. -/
def State.leaving (s : State) : Bool := s.ctxs.any (fun kc => kc.2.leave.isSome)

/-- The tasks that may make room for the head, lowest job priority first, then the job accepted last (R381). -/
def State.victims (s : State) (prio : Nat) : List Nat :=
  let run := s.tasks.filterMap (fun kt =>
    match kt.2.st, sfind s.jobs kt.2.job with
    | .on _, some j => if j.prio < prio then some (kt.1, j) else none
    | _, _ => none)
  (isort (fun (a b : Nat × Job) => decide (a.2.prio < b.2.prio) || (a.2.prio == b.2.prio && decide (b.2.seq ≤ a.2.seq))) run).map
    Prod.fst

/-- The head of the order is placed, by a search from core `core`; where it cannot be, the next victim is pre-empted (R381). One
that waits for the task before it in its group waits for that alone (R90; assumption log 18). -/
def State.placeHead (s : State) (core : Nat) (g : List Waiter) : State :=
  match s.seats core g, g.head? with
  | some l, _ => s.seatAll g l
  | none, some c =>
    match s.launchOf c with
    | none => s
    | some l =>
      if s.leaving || (c.task.isNone && s.groupWaits c.launch l c.ord) then s
      else ((s.victims l.hdr.prio).findSome? s.tryPreempt).getD s
  | none, none => s

/-- The pen of what is placed. -/
def State.placePen (s : State) (g : List Waiter) : Nat :=
  (((g.head?.bind s.launchOf).bind (fun l => sfind s.jobs l.job)).map Job.pen).getD 0

/-- TASK_PLACEMENT (R381): the head of the order, as budgets of its pen admit what that accesses (R396). -/
def execTaskPlacement (core : Nat) (s : State) : Out :=
  .next (match (if s.booted && !s.safe && !s.updating 1 then s.headOfOrder else none) with
    | none => s
    | some g => s.meterUnit (64 + s.placePen g) 0 0 (fun s => s.placeHead core g))

/-! ### The pen's driver (R106, R380) -/

/-- x1 onwards, as the driver gives them. -/
def Ctx.giveX (c : Ctx) (l : List Word) : Ctx :=
  ((l.take 8).zipIdx).foldl (fun (c : Ctx) (w : Word × Nat) => c.setX (BitVec.ofNat 6 (w.2 + 1)) w.1) c

/-- A STOPPED task of a pen, with its context where it stayed there. -/
def State.stoppedTask (s : State) (pen task : Nat) : Option (Task × Option Nat) :=
  match sfind s.tasks task with
  | none => none
  | some t =>
    if ((sfind s.jobs t.job).map Job.pen) ≠ some pen then none
    else match t.st with
      | .stopped => some (t, none)
      | .on c => if (s.ctx c).st = .stopped then some (t, some c) else none
      | _ => none

/-- DRIVER_RESUME (R106): the task becomes placeable, or re-arms on its context (R108). -/
def execDriverResume (pen task : Nat) (xregs : List Word) (s : State) : Out :=
  .next (match s.stoppedTask pen task with
    | none => s
    | some (t, none) =>
      { s with tasks := sset s.tasks task { t with
          st := .saved, saved := t.saved.map (fun v => { v with ctx := v.ctx.giveX xregs }) } }
    | some (_, some c) => (s.updCtx c (fun x => x.giveX xregs)).rearmStart c)

/-- DRIVER_TERMINATE (R380): the code is that of the fault which stopped the task. -/
def execDriverTerminate (pen task : Nat) (s : State) : Out :=
  .next (match s.stoppedTask pen task with
    | none => s
    | some (t, _) => s.terminate t.stopCode t.stopSeq task)

/-! ### The completion signal (R250, R380) -/

/-- Every write and send of a job has performed: no command of it is left, no acknowledgement is awaited, by what has left
its context neither, and no released store has still to perform. -/
def State.jobQuiet (s : State) (n : Nat) : Bool :=
  !s.cmds.any (fun c => c.job == n) && !s.lates.any (fun l => l.job == n) && !s.sents.any (fun x => x.job == n) &&
    s.tasks.all (fun kt => kt.2.job != n || (match kt.2.st with
      | .on c => (s.ctx c).acks == 0 && (s.ctx c).drain.isEmpty
      | _ => true))

/-- JOB_SIGNAL_WRITE (R250), as budgets of the job's pen admit what it accesses (R396). -/
def execJobSignalWrite (job : Nat) (s : State) : Out :=
  .next (match sfind s.jobs job with
    | none => s
    | some j =>
      if j.over && !j.signalled && s.jobQuiet job then
        s.meterUnit (1025 + 2 * job) 0 0 (fun s =>
          { s with jobs := sset s.jobs job { j with signalled := true } }.signal j.pen j.signal j.signalValue)
      else s)

/-! ### `jraise` and `texit` (R392, R393) -/

/-- Adds to the expected total of the task's job; the region has been released (R102). -/
def jobRaise (a : Nat) (s : State) : State :=
  let n := s.jobOf s.issue.ctx
  match sfind s.jobs n with
  | none => s.fault .jobRaise
  | some j =>
    if j.st ≠ .running ∨ 2 ^ 64 ≤ j.expected + a then s.fault .jobRaise
    else s.putJob n { j with expected := j.expected + a }

def execJraise (o : JrOp) (s : State) : Out := guarded o.g (fun s => jobRaise (s.pre.x o.rs1).toNat s) s

/-- The task ends with a completion. -/
def taskExit (s : State) : State :=
  let n := s.jobOf s.issue.ctx
  let s := s.releaseRegion s.issue.ctx
  (s.dropTask (s.ctx s.issue.ctx).task).postCompletion n

def execTexit (o : GOp) (s : State) : Out := guarded o.g taskExit s

end Sys2Proof.Machine
end

