-- ==== Sys2Proof/Machine/Queues.lean ====
section
/-! DEFINITION. Work queues (R289 to R291, R384 to R386, R391). -/

namespace Sys2Proof.Machine

/-- The close marker (R385). -/
def closeMarker : BitVec 128 := BitVec.allOnes 128

def State.queue (s : State) (q : Nat) : WorkQ := sget WorkQ.reset s.queues q
def State.setQueue (s : State) (q : Nat) (w : WorkQ) : State := { s with queues := sput WorkQ.reset s.queues q w }

/-! ### Spilling (R290) -/

/-- Address of an entry of the spill ring by its count. -/
def WorkQ.spillAt (w : WorkQ) (i : Nat) : Nat := w.base / 64 * 64 + 16 * (i % 2 ^ w.lsize)

/-- One entry returns from the spill ring to the hardware, for the pen of the descriptor, as its budgets admit it (R396). -/
def State.refillOne (s : State) (q : Nat) : State :=
  let w := s.queue q
  if w.spilled = 0 ∨ 64 ≤ w.hw.length then s
  else if !s.mayAsk w.pen (w.spillAt w.head) then s.budgetHold 3 w.pen
  else (s.hbmRequest w.pen (w.spillAt w.head) 16).setQueue q { w with
    hw := w.hw ++ [BitVec.ofNat 128 (s.physRead (w.spillAt w.head) 16)], head := w.head + 1 }

/-- QUEUE_SPILL_REFILL (R290): entries return while the hardware has room. -/
def execQueueSpillRefill (queue : Nat) (s : State) : Out :=
  .next ((List.range 64).foldl (fun s _ => s.refillOne queue) s)

/-- An entry reaches a queue (R289, R290): none where it is refused. -/
def State.enqueue (s : State) (q : Nat) (e : BitVec 128) : Option State :=
  let s := (List.range 64).foldl (fun s _ => s.refillOne q) s
  let w := s.queue q
  if w.spilled = 0 ∧ w.hw.length < 64 then some (s.setQueue q { w with hw := w.hw ++ [e] })
  else if w.quota ≤ w.spilled then none
  else some ((s.ctlPut w.pen (w.spillAt w.tail) 16 e.toNat).setQueue q { w with tail := w.tail + 1 })

/-! ### `qpush` (R291) -/

/-- `qpush`: deferred; it copies `q.sel` and the two words. -/
def issueQpush (o : EngOp) (s : State) : State :=
  command s (fun s =>
    let q := (s.pre.engReg 0x040).toNat
    if 2 ^ 8 ≤ q then s.fault .reservedField
    else if (s.queue q).job ≠ s.jobOf s.issue.ctx ∨ (s.queue q).job = 0 then s.fault .permission
    else s.submit (s.newCmd .qpush true o.ord (s.pre.x o.rs1) (s.pre.x o.rs2)) o.pm (fun k s => (k, s)))

def execQpush (o : EngOp) (s : State) : Out := guarded o.g (issueQpush o) s

/-- A started push leaves for the queue's home; those of one context leave in program order (R291). -/
def State.sendPush (s : State) (k : Cmd) : State :=
  let earlier := (s.cmdsBefore k).any (fun c =>
    c.task == k.task && decide (c.kind = CmdKind.qpush) && decide (c.st ≠ CmdSt.held) && c.pos == 0)
  if k.pos = 1 ∨ earlier then s
  else
    let q := k.reg 0x040
    let w := s.queue q
    let e := k.r2 ++ k.r1
    (s.setQueue q { w with arrivals := w.arrivals ++ [(k.ctx, some k.cid, e)] }).updCmd k (fun c => { c with pos := 1 })

/-- The push of an arrival. -/
def State.pushOf (s : State) (ctx : Nat) (cid : Option (BitVec 16)) : Option Cmd :=
  s.cmds.find? (fun c => c.ctx == ctx && some c.cid == cid && decide (c.kind = CmdKind.qpush) && c.pos == 1)

/-- The push of an arrival retires with it. -/
def State.endPush (s : State) (ctx : Nat) (cid : Option (BitVec 16)) (code : Option Code) : State :=
    match s.pushOf ctx cid with
    | none => s
    | some k =>
      match code with
      | none => s.finishCmd k 1
      | some e => s.failCmd k ⟨e.num, 0, 0, 0⟩ false false 0

/-- One arrival at a queue's home (R385, R290): an entry, the close marker in its place, or a refusal, as of a push
whose job has ended; one of the host that is refused is dropped and noted. -/
def State.applyArrival (s : State) (q : Nat) (a : Nat × Option (BitVec 16) × BitVec 128) : State :=
  let w := s.queue q
  let refuse (c : Code) : State :=
    match a.2.1 with
    | some _ => s.endPush a.1 a.2.1 (some c)
    | none => s.logEvent .pushDropped q w.pen [c.num]
  let foreign := match s.pushOf a.1 a.2.1 with
    | some k => k.job != w.job
    | none => false
  if w.closed || foreign then refuse .permission
  else if a.2.2 = closeMarker then (s.setQueue q { w with closed := true }).endPush a.1 a.2.1 none
  else match s.enqueue q a.2.2 with
    | none => refuse .queueQuota
    | some s => s.endPush a.1 a.2.1 none

/-- Arrivals of one cycle in ascending package context number (R289). -/
def byContext (l : List (Nat × Option (BitVec 16) × BitVec 128)) : List (Nat × Option (BitVec 16) × BitVec 128) :=
  isort (fun a b => decide (a.1 ≤ b.1)) l

/-- Waiting pops are served from the head in ascending package context number (R386). -/
def State.servePops (s : State) (q : Nat) : List Nat → State
  | [] => s
  | c :: r =>
    let s := s.refillOne q
    let w := s.queue q
    match w.hw with
    | [] => s
    | e :: hw =>
      (s.setQueue q { w with
        hw := hw, waiters := w.waiters.filter (· != c), granted := w.granted ++ [(c, e)] }).servePops q r

/-- WORK_QUEUE_CYCLE (R386): arrivals, those of the host last, then waiting pops. New pops come as their bundles
issue. -/
def execWorkQueueCycle (queue : Nat) (hostPushes : List (BitVec 128)) (s : State) : Out :=
  let w := s.queue queue
  let host := if w.job = 0 then [] else hostPushes.map (fun e => (2 ^ 10, (none : Option (BitVec 16)), e))
  let s := s.setQueue queue { w with arrivals := [] }
  let s := (byContext w.arrivals ++ host).foldl (fun s a => s.applyArrival queue a) s
  .next (s.servePops queue (isort (fun a b => decide (a ≤ b)) (s.queue queue).waiters))

/-! ### `pop` and `pop.try` (R391) -/

/-- The entry that a pop of a context takes now, with the queue after it: the oldest that it has been given, else the
head, which no other context waits for. A second pop of the same bundle takes the next. -/
def WorkQ.take (w : WorkQ) (ctx : Nat) : Option (BitVec 128 × WorkQ) :=
  match w.granted.find? (fun g => g.1 == ctx) with
  | some g => some (g.2, { w with granted := w.granted.eraseP (fun k => k.1 == ctx) })
  | none =>
    if w.waiters.any (· != ctx) then none
    else match w.hw with
      | [] => none
      | e :: r => some (e, { w with hw := r, waiters := w.waiters.filter (· != ctx) })

/-- Either form. The entry synchronises with its push: an acquire at `.pkg` (R386). -/
def popEntry (wait : Bool) (rd rs2 : BitVec 6) (a : Word) (s : State) : State :=
  let q := a.toNat % 256
  let me := s.issue.ctx
  if (s.queue q).job ≠ s.jobOf me ∨ (s.queue q).job = 0 then s.fault .permission
  else
    let s := s.refillOne q
    let w := s.queue q
    match w.take me with
    | some (e, w) =>
      let s := (s.setQueue q w).updCurCore (fun c => c.dropL1 false)
      ((s.putX rd (e.setWidth 64) 1).putX (rd + 1) ((e >>> 64).setWidth 64) 1).putX rs2 0 1
    | none =>
      if w.closed && w.hw.isEmpty && w.spilled == 0 then
        (s.setQueue q { w with waiters := w.waiters.filter (· != me) }).putX rs2 2 1
      else if wait then s.stallFor (.pop q)
      else s.putX rs2 1 1

def execPop (o : RROp) (s : State) : Out :=
  guarded o.g (fun s => popEntry true o.rd o.rs2 (s.pre.x o.rs1) s) s
def execPopTry (o : RROp) (s : State) : Out :=
  guarded o.g (fun s => popEntry false o.rd o.rs2 (s.pre.x o.rs1) s) s

end Sys2Proof.Machine
end

