-- ==== Sys2Proof/Machine/Launch.lean ====
section
/-! DEFINITION. Launches, user queues and graphs (R92, R93, R112, R292, R293, R377 to R379, R382, R383). -/

namespace Sys2Proof.Machine

/-! ### What the job sequencer reads (R377) -/

/-- Reads `n` bytes in a pen as the job sequencer, with emask bit 15. -/
def State.seqRead (s : State) (pen va n : Nat) : Except Nat Nat × State :=
  let (r, s) := s.engRead pen 15 (.die 4) (pageFuel n) (va % 2 ^ 60) n
  match r with
  | .ok v => (.ok v, s)
  | .error e => (.error e.1.num, s.seqFault pen e.1)

/-- Writes `n` bytes in a pen as the job sequencer; where the translation fails nothing is written. -/
def State.seqWrite (s : State) (pen va n v : Nat) : Except Nat Unit × State :=
  let (r, s) := s.engWrite pen 15 (.die 4) (pageFuel n) (va % 2 ^ 60) n v
  match r with
  | .ok _ => (.ok (), s)
  | .error e => (.error e.1.num, s.seqFault pen e.1)

/-- `n` 64-bit words of a number. -/
def wordsOf (n v : Nat) : List Nat := (List.range n).map (el 64 v)

/-! ### The launch header (R92, R93) -/

/-- The levels of a header. -/
def levelsOf (w : List Nat) (n : Nat) : List Level :=
  (List.range n).map (fun j =>
    let d := w.getD (8 + j) 0
    ⟨bits d 5 0 + 1, bits d 63 16 + 1, bits d 8 6⟩)

/-- A header from its 16 words. -/
def headerOf (w : List Nat) : Header :=
  let h := w.getD 0 0
  let x := w.getD 3 0
  { tiles0 := bits h 33 25, gang := bits h 21 19, prio := bits h 18 16, entry := w.getD 1 0, hctimg := w.getD 2 0,
    hctbase := bits x 8 0, hctcount := bits x 25 16, metaPc := w.getD 4 0, expected := w.getD 5 0, signal := w.getD 6 0,
    args := w.getD 7 0, levels := levelsOf w (bits h 24 22), init := w.getD 14 0 }

/-- Contexts in one unit of a scope (R91). -/
def scopeCap (scope : Nat) : Nat :=
  match scope with
  | 0 => 1 | 1 => 2 | 2 => 32 | 3 => 256 | _ => 1024

/-- The scopes do not decrease. -/
def scopesRise : List Level → Bool
  | a :: b :: r => decide (a.scope ≤ b.scope) && scopesRise (b :: r)
  | _ => true

/-- The header passes R93 but for its images; the signal of an attached launch is ignored (R378). -/
def headerOk (kind : Nat) (w : List Nat) : Bool :=
  let h := headerOf w
  let h0 := w.getD 0 0
  let x := w.getD 3 0
  let n := bits h0 24 22
  bits h0 63 34 == 0 && bits h0 15 0 == 1 && decide (h.tiles0 ≤ 256) && decide (1 ≤ n) && decide (n ≤ 6) &&
    bits x 63 26 == 0 && bits x 15 9 == 0 && w.getD 15 0 == 0 &&
    (List.range 6).all (fun j => if j < n then bits (w.getD (8 + j) 0) 15 9 == 0 else w.getD (8 + j) 0 == 0) &&
    h.levels.all (fun l => decide (l.scope ≤ 4) && decide (l.extent ≤ 2 ^ l.width)) &&
    decide ((h.levels.map Level.width).foldl (· + ·) 0 ≤ 64) && scopesRise h.levels &&
    (h.gang == 7 || (decide (h.gang < n) &&
      decide (h.groupSize h.gang ≤ scopeCap ((h.levels.map Level.scope).getD h.gang 0)))) &&
    decide (h.hctbase + h.hctcount ≤ 512) &&
    h.entry % 16 == 0 && h.hctimg % 32 == 0 && h.init % 8 == 0 && (kind == 1 || h.signal % 8 == 0)

/-! ### The images (R112) -/

/-- A tile record is in order. -/
def tileRecOk (w : List Nat) (i : Nat) : Bool :=
  let r (k : Nat) : Nat := w.getD (1 + 4 * i + k) 0
  let t := tileOfImage (r 1) (r 2)
  decide (r 0 < 256) && bits (r 1) 15 2 == 0 && (bits (r 1) 1 0 == 0 || bits (r 1) 1 0 == 2) && bits (r 2) 63 35 == 0 &&
    r 3 == 0 && t.lines != 0 && decide (t.base.toNat + t.lines.toNat ≤ groupLines t.group) &&
    decide (t.fmt.toNat ≤ 12) && t.layout != 7

/-- A ring record is in order: handle, first slot and count, and the other bits zero. -/
def ringRecOk (x y : Nat) : Bool :=
  bits x 7 4 == 0 && bits x 63 25 == 0 && y == 0 && decide (1 ≤ bits x 24 16) && decide (bits x 24 16 ≤ 256) &&
    decide (bits x 15 8 + bits x 24 16 ≤ 256)

/-- No element equals a later one. -/
def distinct (l : List Nat) : Bool := l.eraseDups.length == l.length

/-- Words of an init image after its header word. -/
def initWords (h : Nat) : Nat := 4 * bits h 24 16 + 2 * bits h 29 25 + 2 * bits h 33 30

/-- The header word of an init image passes. -/
def initHeadOk (h : Nat) : Bool :=
  bits h 15 0 == 1 && bits h 63 34 == 0 && decide (bits h 24 16 ≤ 256) && decide (bits h 29 25 ≤ 16) &&
    decide (bits h 33 30 ≤ 8)

/-- The records of an init image pass. -/
def initOk (w : List Nat) : Bool :=
  let h := w.getD 0 0
  let nt := bits h 24 16
  let nr := bits h 29 25
  let ring (i : Nat) : Nat := w.getD (1 + 4 * nt + 2 * i) 0
  let slots := (List.range nr).flatMap (fun i => (List.range (bits (ring i) 24 16)).map (bits (ring i) 15 8 + ·))
  (List.range nt).all (tileRecOk w) && distinct ((List.range nt).map (fun i => w.getD (1 + 4 * i) 0)) &&
    (List.range nr).all (fun i => ringRecOk (ring i) (w.getD (2 + 4 * nt + 2 * i) 0)) &&
    distinct ((List.range nr).map (fun i => ring i % 16)) && distinct slots &&
    (List.range (bits h 33 30)).all (fun i => decide (w.getD (1 + 4 * nt + 2 * nr + 2 * i) 0 < 8))

/-- Reads and checks the init image: its words, none where the header names no image. -/
def State.readInit (s : State) (pen va : Nat) : Except Nat (List Nat) × State :=
  let bad := Code.reservedField.num
  if va = 0 then (.ok [], s)
  else
    let (r, s) := s.seqRead pen va 8
    match r with
    | .error _ => (.error bad, s)
    | .ok h =>
      if !initHeadOk h then (.error bad, s)
      else
        let n := initWords h
        let (r, s) := s.seqRead pen (va + 8) (8 * n)
        match r with
        | .error _ => (.error bad, s)
        | .ok v =>
          let w := h :: wordsOf n v
          (if initOk w then .ok w else .error bad, s)

/-- Reads and checks the HCT image. -/
def State.readHct (s : State) (pen : Nat) (h : Header) : Except Nat (List HWord) × State :=
  let (r, s) := s.seqRead pen h.hctimg (32 * h.hctcount)
  match r with
  | .error _ => (.error Code.reservedField.num, s)
  | .ok v =>
    let l := (List.range h.hctcount).map (fun i => BitVec.ofNat 256 (v / 2 ^ (256 * i)))
    (if l.all (fun w => (decodeHcw w).isSome) then .ok l else .error Code.hctInvalid.num, s)

/-- Reads and checks a launch: header, HCT image and init image, or the rejection code. -/
def State.readLaunch (s : State) (pen kind target : Nat) : Except Nat (Header × List HWord × List Nat) × State :=
  let bad := Code.reservedField.num
  if target % 128 ≠ 0 then (.error bad, s)
  else
    let (r, s) := s.seqRead pen target 128
    match r with
    | .error _ => (.error bad, s)
    | .ok v =>
      let w := wordsOf 16 v
      let h := headerOf w
      if !headerOk kind w ∨ (kind = 0 ∧ h.expected < h.count) then (.error bad, s)
      else
        let (r, s) := s.readHct pen h
        match r with
        | .error c => (.error c, s)
        | .ok hct =>
          let (r, s) := s.readInit pen h.init
          match r with
          | .error c => (.error c, s)
          | .ok init => (.ok (h, hct, init), s)

/-! ### Acceptance and rejection (R377 to R380) -/

/-- Queues that an entry binds. -/
def entryBinds (w3 : Nat) : List Nat :=
  (List.range 4).filterMap (fun k =>
    let f := bits w3 (16 * k + 15) (16 * k)
    if bit f 15 then some (f % 256) else none)

/-- The entry itself passes Table 1. -/
def entryOk (w : List Nat) : Bool :=
  bits (w.getD 0 0) 63 4 == 0 && w.getD 2 0 % 64 == 0 &&
    (List.range 4).all (fun k => bits (w.getD 3 0) (16 * k + 14) (16 * k + 8) == 0) &&
    (List.range 12).all (fun i => w.getD (4 + i) 0 == 0)

/-- Where a JCB stands: near, on an RC or SO page, 64-byte aligned; a remote frame that names this package is near (R217). -/
def State.jcbAt (s : State) (pen va : Nat) : Option Nat × State :=
  let (r, s) := s.xlate (engAccess pen 15 (.die 4) true) (va % 2 ^ 60)
  match r with
  | .ok t => (if tierOf (s.home t.pa) = some 0 ∧ t.kind ≠ 2 ∧ va % 64 = 0 then some (s.home t.pa) else none, s)
  | .error c => (none, s.seqFault pen c)

/-- A launch is rejected (R378): one log record; kind 0 also writes its JCB and the failure signal. -/
def State.reject (s : State) (pen : Nat) (w : List Nat) (code : Nat) : State :=
  let kind := bits (w.getD 0 0) 3 0
  let q := s.seq
  let s := s.logEvent .launchRejected 1 pen [kind, code]
  if kind ≠ 0 then s
  else
    let target := w.getD 1 0
    let (r, s) := if target % 128 = 0 then s.seqRead pen target 128 else (.error 0, s)
    let sig := match r with
      | .ok v => el 64 v 6 % 2 ^ 60
      | .error _ => 0
    let (pa, s) := s.jcbAt pen (w.getD 2 0)
    let s := match pa with
      | none => s
      | some p =>
        let j : Job := ⟨pen, 0, q, p, 0, 0, 0, 0, .rejected, code, q, 0, sig, [], true, 0⟩
        s.ctlPut pen p 64 (j.bytes 0)
    if sig % 8 = 0 then s.signal pen sig (2 ^ 63 + code) else s

/-- The queues join a job, and the job sequencer writes their spill descriptors (R290, R384; assumption log 19). -/
def State.bindAll (s : State) (n : Nat) (l : List Nat) : State :=
  l.foldl (fun s q =>
    if (s.queue q).job = n then s
    else
      let lsize := (Config.spillLsize q n).toNat
      let pen := ((sfind s.jobs n).map Job.pen).getD 0
      s.setQueue q { s.queue q with
        job := n, base := (Config.spillBase q n).toNat, quota := Nat.min (Config.spillQuota q n).toNat (2 ^ lsize),
        lsize := lsize, pen := pen, tail := 0, head := 0 }) s

/-- The tasks of a launch enter the order. -/
def State.addLaunch (s : State) (job : Nat) (x : Header × List HWord × List Nat) : State :=
  { s with
    nextLaunch := s.nextLaunch + 1
    launches := sset s.launches s.nextLaunch ⟨job, x.1, x.2.1, x.2.2, 0, x.1.count, []⟩ }

/-- The job that a kind 1 entry attaches to: RUNNING, of the pen, with that JCB. -/
def State.jobAt (s : State) (pen pa : Nat) : Option (Nat × Job) :=
  s.jobs.find? (fun kj => kj.2.pen == pen && kj.2.jcb == pa && decide (kj.2.st = JobSt.running))

/-- The job that an entry attaches to, none for a launch of its own; an error where the entry cannot be accepted: the JCB is
not that of a RUNNING job of the pen, or another live job holds a queue that it binds (R378). -/
def State.entryJob (s : State) (pen pa kind : Nat) (binds : List Nat) : Except Nat (Option (Nat × Job)) :=
  let held (n : Nat) : Bool := binds.any (fun q => (s.queue q).job != 0 && (s.queue q).job != n)
  if kind = 0 then if held 0 then .error Code.reservedField.num else .ok none
  else match s.jobAt pen pa with
    | none => .error Code.reservedField.num
    | some nj => if held nj.1 then .error Code.reservedField.num else .ok (some nj)

/-- A launch whose checks have passed starts a job of its own. -/
def State.newJob (s : State) (pen pa : Nat) (binds : List Nat) (x : Header × List HWord × List Nat) : Nat × State :=
  let h := x.1
  let n := s.nextJob
  let (q, s) := s.draw
  let j : Job := ⟨pen, h.prio, q, pa, h.expected, 0, 0, h.count, .running, 0, 0, 0, h.signal % 2 ^ 60, binds.eraseDups, false, 0⟩
  (n, ((({ s with nextJob := n + 1 }).putJob n j).bindAll n binds).addLaunch n x)

/-- Or it attaches its tasks to a job. -/
def State.joinJob (s : State) (n : Nat) (j : Job) (binds : List Nat) (x : Header × List HWord × List Nat) : State :=
  let s := s.draw.2.putJob n { j with tasks := j.tasks + x.1.count, queues := (j.queues ++ binds).eraseDups }
  (s.bindAll n binds).addLaunch n x

/-- A kind 0 or kind 1 entry is accepted, with the number of its job, or rejected: the entry is checked, then the header
(R378). -/
def State.submitEntry (s : State) (pen : Nat) (w : List Nat) : Option Nat × State :=
  let kind := bits (w.getD 0 0) 3 0
  let binds := entryBinds (w.getD 3 0)
  let no (s : State) (code : Nat) : Option Nat × State := (none, s.reject pen w code)
  if !entryOk w ∨ 1 < kind then no s Code.reservedField.num
  else
    let (pa, s) := s.jcbAt pen (w.getD 2 0)
    match pa with
    | none => no s Code.reservedField.num
    | some pa =>
      match s.entryJob pen pa kind binds with
      | .error c => no s c
      | .ok goal =>
        let (r, s) := s.readLaunch pen kind (w.getD 1 0)
        match r, goal with
        | .error c, _ => no s c
        | .ok x, none =>
          let (n, s) := s.newJob pen pa binds x
          (some n, s)
        | .ok x, some (n, j) => if j.prio ≠ x.1.prio then no s Code.reservedField.num else (some n, s.joinJob n j binds x)

/-! ### User queues (R292, R293) -/

/-- A registered queue. -/
def State.userQ (s : State) (id : Nat) : Option UserQ := s.userQs.find? (fun q => q.id == id)

/-- Change a registered queue. -/
def State.updUserQ (s : State) (id : Nat) (f : UserQ → UserQ) : State :=
  { s with userQs := s.userQs.map (fun (q : UserQ) => if q.id = id then f q else q) }

/-- Writes one word of a queue's descriptor. -/
def State.descWrite (s : State) (q : UserQ) (off v : Nat) : State := (s.seqWrite q.pen (q.desc + off) 8 v).2

/-- Step `u` of the job sequencer or the walker (R394: for a pen, which `pen` names), which a budget of the pen may hold (R396). -/
def State.stepFor (s : State) (pen : Option Nat) (u : Nat) (f : State → State) : Out :=
  .next (match pen with
    | some _ => s.meterUnit u 0 0 f
    | none => f s)

/-- Pen of a mapped queue's slot. -/
def State.slotPen (s : State) (slot : Nat) : Option Nat :=
  ((sfind s.uqSlots slot).bind (fun u => s.userQ u.id)).map UserQ.pen

/-- USER_QUEUE_MAP (R292): a queue that has work takes a free slot, within its pen's quota; a pending notify is delivered. -/
def execUserQueueMap (queue slot : Nat) (s : State) : Out :=
  s.stepFor ((s.userQ queue).map UserQ.pen) (1024 + 2 * queue) (fun s => match s.userQ queue with
    | none => s
    | some q =>
      let mapped := (s.userQs.filter (fun x => x.pen == q.pen && x.slot.isSome)).length
      if s.updating 1 ∨ q.slot.isSome ∨ 128 ≤ slot ∨ (sfind s.uqSlots slot).isSome ∨ (s.pen q.pen).uqQuota ≤ mapped then s
      else
        let (r, s') := s.seqRead q.pen q.desc 64
        match r with
        | .error _ => s
        | .ok v =>
          let w := wordsOf 8 v
          let head := w.getD 2 0 % 2 ^ 32
          let pending := bit (w.getD 4 0) 0
          let tail := if pending then bits (w.getD 4 0) 63 32 else w.getD 3 0 % 2 ^ 32
          if head = tail ∧ !pending then s
          else
            let s := if pending then (s'.descWrite q 0x18 tail).descWrite q 0x20 (bits (w.getD 4 0) 63 32 * 2 ^ 32) else s'
            let u : UqSlot := ⟨queue, w.getD 0 0 % 2 ^ 60, bits (w.getD 1 0) 4 0, head, tail⟩
            ({ s with uqSlots := sset s.uqSlots slot u }).updUserQ queue (fun q => { q with slot := some slot }))

/-- A slot is unmapped: its cursors stand in the descriptor. -/
def State.unmapSlot (s : State) (slot : Nat) : State :=
  match sfind s.uqSlots slot with
  | none => s
  | some u =>
    let s := match s.userQ u.id with
      | some q => (s.descWrite q 0x10 u.head).descWrite q 0x18 u.tail
      | none => s
    ({ s with uqSlots := sdel s.uqSlots slot }).updUserQ u.id (fun q => { q with slot := none })

/-- USER_QUEUE_UNMAP (R292): of a queue with no entry left. When one has been idle for long enough is not said: it comes from the
plan (assumption log 102). -/
def execUserQueueUnmap (slot : Nat) (s : State) : Out :=
  s.stepFor (s.slotPen slot) (256 + slot) (fun s => match sfind s.uqSlots slot with
    | some u => if u.head = u.tail && !s.updating 1 then s.unmapSlot slot else s
    | none => s)

/-- NOTIFY (R293): {id, tail} to a slot's register through a pen's block. One for a queue whose descriptor cannot be written is
dropped and logged (assumption log 102). -/
def execNotify (pen _slot : Nat) (value : Word) (s : State) : Out :=
  let id := bits value.toNat 63 32
  let tail := bits value.toNat 31 0
  let lost := s.logEvent .notifyDropped 0 pen [id, tail]
  .next (match s.userQ id with
    | none => lost
    | some q =>
      if q.pen ≠ pen then lost
      else match q.slot with
        | some k =>
          match sfind s.uqSlots k with
          | some u => ({ s with uqSlots := sset s.uqSlots k { u with tail := tail } }).descWrite q 0x18 tail
          | none => s
        | none =>
          let (r, s') := s.seqWrite q.pen (q.desc + 0x20) 8 (tail * 2 ^ 32 + 1)
          match r with
          | .ok _ => s'
          | .error _ => lost)

/-- The next entry of a mapped queue: the queue, the slot, and the entry's words where it can be read. -/
def State.nextEntry (s : State) (slot : Nat) : Option (UserQ × UqSlot × Option (List Nat)) × State :=
  match sfind s.uqSlots slot with
  | none => (none, s)
  | some u =>
    match s.userQ u.id with
    | none => (none, s)
    | some q =>
      if u.head = u.tail || s.safe || s.updating 1 then (none, s)
      else
        let (r, s) := s.seqRead q.pen (u.ring + 128 * (u.head % 2 ^ u.lsize)) 128
        (some (q, u, match r with
          | .ok v => some (wordsOf 16 v)
          | .error _ => none), s)

/-- An entry has been consumed. -/
def State.consume (s : State) (slot : Nat) (q : UserQ) (u : UqSlot) : State :=
  let h := (u.head + 1) % 2 ^ 32
  ({ s with uqSlots := sset s.uqSlots slot { u with head := h } }).descWrite q 0x10 h

/-- LAUNCH (R377, R378): a kind 0 entry; an entry of an invalid kind, or one that cannot be read, is rejected. -/
def execLaunch (slot : Nat) (s : State) : Out :=
  s.stepFor (s.slotPen slot) (256 + slot) (fun s => match s.nextEntry slot with
    | (none, _) => s
    | (some (q, u, none), s') =>
      (s'.consume slot q u).logEvent .launchRejected 1 q.pen [0, Code.reservedField.num]
    | (some (q, u, some w), s') =>
      let kind := bits (w.getD 0 0) 3 0
      if kind = 1 ∨ kind = 2 then s else ((s'.consume slot q u).submitEntry q.pen w).2)

/-- ATTACHED_LAUNCH (R378): a kind 1 entry. -/
def execAttachedLaunch (slot : Nat) (s : State) : Out :=
  s.stepFor (s.slotPen slot) (256 + slot) (fun s => match s.nextEntry slot with
    | (some (q, u, some w), s') =>
      if bits (w.getD 0 0) 3 0 = 1 then ((s'.consume slot q u).submitEntry q.pen w).2 else s
    | _ => s)

/-! ### Graphs (R382, R383) -/

/-- Reads a graph descriptor: none where it cannot be read or is not in order. -/
def State.readGraph (s : State) (pen desc : Nat) : Option Graph × State :=
  if desc % 32 ≠ 0 then (none, s)
  else
    let (r, s) := s.seqRead pen desc 32
    match r with
    | .error _ => (none, s)
    | .ok v =>
      let w := wordsOf 4 v
      let t := w.getD 0 0
      let c := w.getD 1 0
      let g := w.getD 2 0
      if bits t 63 60 ≠ 0 ∨ t % 32 ≠ 0 ∨ bits c 63 32 ≠ 0 ∨ bits c 15 0 = 0 ∨ bits g 63 60 ≠ 0 ∨ g % 8 ≠ 0 ∨
          w.getD 3 0 ≠ 0 then (none, s)
      else (some ⟨pen, t, bits c 15 0, bits c 31 16, g, none⟩, s)

/-- The walker's lowest free index. -/
def State.freeGraph (s : State) : Option Nat := (List.range 64).find? (fun i => (sfind s.graphs i).isNone)

/-- A graph becomes resident, or waits in acceptance order. -/
def State.residentGraph (s : State) (pen desc : Nat) (g : Graph) : State :=
  match (if s.graphWait.isEmpty then s.freeGraph else none) with
  | some i => { s with graphs := sset s.graphs i g }
  | none => { s with graphWait := s.graphWait ++ [(pen, desc)] }

/-- GRAPH_LAUNCH (R382): a kind 2 entry. -/
def execGraphLaunch (slot : Nat) (s : State) : Out :=
  s.stepFor (s.slotPen slot) (256 + slot) (fun s => match s.nextEntry slot with
    | (some (q, u, some w), s') =>
      if bits (w.getD 0 0) 3 0 ≠ 2 then s
      else
        let s := s'.consume slot q u
        let (g, s) := if entryOk w ∧ w.getD 2 0 = 0 then s.readGraph q.pen (w.getD 1 0) else (none, s)
        match g with
        | none => s.logEvent .launchRejected 1 q.pen [2, Code.reservedField.num]
        | some g => s.residentGraph q.pen (w.getD 1 0) g
    | _ => s)

/-- The head of the waiting graphs takes a free index of the walker. -/
def State.admitNext (s : State) (i : Nat) : State :=
  match s.graphWait with
  | [] => s
  | (pen, desc) :: r =>
    let s := { s with graphWait := r }
    let (g, s) := s.readGraph pen desc
    match g with
    | none => s.logEvent .launchRejected 1 pen [2, Code.reservedField.num]
    | some g => { s with graphs := sset s.graphs i g }

/-- The walker goes to another node. -/
def State.toNode (s : State) (i : Nat) (g : Graph) (n : Nat) : State :=
  { s with graphs := sset s.graphs i { g with node := n, job := none } }

/-- A node is in order: its kind, its reserved fields, and the successors that its kind names. -/
def graphNodeOk (n : Nat) (w : List Nat) : Bool :=
  let x := w.getD 0 0
  let kind := bits x 3 0
  bits x 63 48 == 0 && bits x 15 4 == 0 && w.getD 3 0 == 0 && decide (kind ≤ 4) &&
    (kind == 4 || decide (bits x 31 16 < n)) && ((kind != 1 && kind != 2) || decide (bits x 47 32 < n))

/-- A graph fails, with what a fault of its signal leads to (R383). -/
def State.graphFails (s : State) (n : Nat) (code : Nat) : State :=
  match sfind s.graphs n with
  | none => s
  | some g => { s with graphs := sdel s.graphs n }.signal g.pen g.signal (2 ^ 63 + code)

/-- The walker acts on a node whose words it has read (Table 4). -/
def State.actNode (s : State) (i : Nat) (g : Graph) (w : List Nat) : State :=
  let x := w.getD 0 0
  let a0 := w.getD 1 0
  let succ0 := bits x 31 16
  let kind := bits x 3 0
  if !graphNodeOk g.n w then s.graphFails i Code.reservedField.num
  else if kind = 0 then
    let (r, s) := s.seqRead g.pen a0 128
    let no (s : State) (kind : Nat) : State :=
      (s.logEvent .launchRejected 1 g.pen [kind, Code.reservedField.num]).graphFails i Code.reservedField.num
    match r with
    | .error _ => no s 0
    | .ok v =>
      let e := wordsOf 16 v
      if 1 < bits (e.getD 0 0) 3 0 then no s (bits (e.getD 0 0) 3 0)
      else
        let (j, s) := s.submitEntry g.pen e
        match j with
        | none => s.graphFails i Code.reservedField.num
        | some n => { s with graphs := sset s.graphs i { g with node := succ0, job := some n } }
  else if kind = 4 then ({ s with graphs := sdel s.graphs i }).signal g.pen g.signal 1
  else if a0 % 8 ≠ 0 then s.graphFails i Code.misaligned.num
  else if kind = 3 then
    let (r, s) := s.seqWrite g.pen a0 8 (w.getD 2 0)
    match r with
    | .error c => s.graphFails i c
    | .ok _ => s.toNode i g succ0
  else
    let (r, s) := s.seqRead g.pen a0 8
    match r with
    | .error c => s.graphFails i c
    | .ok v => s.toNode i g (if v = 0 then succ0 else bits x 47 32)

/-- GRAPH_NODE_STEP (R383): the walker acts on the next node of a resident graph; a launch node waits until its job has
ended and its signal is written (R250). -/
def execGraphNodeStep (graph : Nat) (s : State) : Out :=
  s.stepFor ((sfind s.graphs graph).map Graph.pen) (512 + graph) (fun s => match sfind s.graphs graph with
    | none => if graph < 64 && !s.updating 1 then s.admitNext graph else s
    | some g =>
      if s.updating 1 then s else
      match g.job.bind (fun n => sfind s.jobs n) with
      | some j =>
        if !j.over || !j.signalled then s
        else if j.st = .done then s.toNode graph g g.node
        else s.graphFails graph j.code
      | none =>
        if g.n ≤ g.node then s.graphFails graph Code.reservedField.num
        else
          let (r, s) := s.seqRead g.pen (g.table + 32 * g.node) 32
          match r with
          | .error c => s.graphFails graph c
          | .ok v => s.actNode graph g (wordsOf 4 v))

end Sys2Proof.Machine
end

