-- ==== Sys2Proof/Machine/Windows.lean ====
section
/-! DEFINITION. Swap windows and `publish` (R249, R284, R285). -/

namespace Sys2Proof.Machine

/-- Window number of `publish`, where x[rs1] names one that is enabled (R285). -/
def Pen.window (p : Pen) (a : Word) : Option Win :=
  if a.toNat < 16 then
    let w := sget Win.reset p.wins a.toNat
    if w.enable then some w else none
  else none

/-- `publish` (R285): a deferred command. -/
def issuePublish (scope : Nat) (a : Word) (s : State) : State :=
  command s (fun s =>
    if 3 < scope then s.fault .reservedField
    else if ((s.pen s.pre.pen.toNat).window a).isNone then s.fault .permission
    else s.submit { s.newCmd .publish true 0 a 0 with scope := scope } 0 (fun k s => (k, s)))

def execPublish (o : PublishOp) (s : State) : Out :=
  guarded o.g (fun s => issuePublish o.scope.toNat (s.pre.x o.rs1) s) s

/-- The count table that a sample request will write. -/
def State.countRange (s : State) (k : Cmd) : List (Nat × Nat) :=
  match (s.resolve k.pen k.r1.toNat).1 with
  | .error _ => []
  | .ok (_, d) => if d.cnt = 0 then [] else [(d.cnt, 2 ^ 14)]

/-- Byte ranges that a command may write in device memory, as (address, length): for a sample request, the count table of its
sequence (R366). -/
def State.deviceWrites (s : State) (k : Cmd) : List (Nat × Nat) :=
  match k.kind with
  | .xfer _ =>
    let x := k.xfer
    if x.kind ≠ 0 ∨ x.count = 0 then []
    else if x.bfx || x.bpn then [(x.dst.toNat, k.outBytes)]
    else [(devAddr x.dst (sideMin x.dstSide), (sideMax x.dstSide - sideMin x.dstSide).toNat + x.esz)]
  | .trig _ =>
    (if portDevice (sget 0 k.ports 1) then [(k.port 1 % 2 ^ 60, 8 * k.len + 2 ^ 16)] else []) ++
      (if portDevice (sget 0 k.ports 4) then [(k.port 4 % 2 ^ 60, k.len)] else [])
  | .smpost =>
    match (s.groom (clusterOf k.ctx)).run with
    | some r => if r.cmd.task = k.task ∧ r.cmd.cid = k.cid then [(r.cnt, 2 ^ 14)] else s.countRange k
    | none => s.countRange k
  | .tier _ => [(0, 2 ^ 60)]
  | _ => []

/-- A command may write the window; addresses are taken modulo 2^60 (R279), so that a range past the top goes on at 0. -/
def State.writesWindow (s : State) (k : Cmd) (w : Win) : Bool :=
  (s.deviceWrites k).any (fun r => [0, 2 ^ 60].any (fun a =>
    decide (r.1 < a + w.va + w.size * 2 ^ 16) && decide (a + w.va < r.1 + r.2)))

/-- Translations of the window, of one pen, leave a list. -/
def dropWindow (pen : Nat) (w : Win) (t : List TlbEnt) : List TlbEnt :=
  t.filter (fun e => !(e.pen == pen && decide (e.base < w.va + w.size * 2 ^ 16) && decide (w.va < e.base + e.size)))

/-- The translation caches of the observers within a scope of a context drop the window (R227, R285): its core
for `.ctx` and `.core`, its cluster for `.clu`, the package for `.pkg`. -/
def State.dropWindowTlbs (s : State) (ctx scope pen : Nat) (w : Win) : State :=
  let core (c : Nat) : Bool := decide (scope = 3) || (decide (scope = 2) && clusterOfCore c == clusterOf ctx) ||
    c == coreOf ctx
  let clu (c : Nat) : Bool := decide (scope = 3) || (decide (2 ≤ scope) && c == clusterOf ctx)
  let s := if scope = 3 then { s with dieTlb := s.dieTlb.map (fun t => (t.1, dropWindow pen w t.2)) } else s
  let s := s.cores.foldl (fun s kc =>
    if core kc.1 then s.updCore kc.1 (fun c => { c with tlb := dropWindow pen w c.tlb }) else s) s
  s.clusters.foldl (fun s kc =>
    if clu kc.1 then s.updCluster kc.1 (fun c => { c with
      tlb := dropWindow pen w c.tlb, tlbBig := dropWindow pen w c.tlbBig, etlb := c.etlb.map (fun t => (t.1, dropWindow pen w t.2)) })
    else s) s

/-- The front half flips in one step, and the command retires (R249, R285). -/
def State.flip (s : State) (k : Cmd) : State :=
  let n := k.r1.toNat
  let w := sget Win.reset (s.pen k.pen).wins n
  let s := s.updPen k.pen (fun p => { p with wins := sput Win.reset p.wins n { w with front := !w.front } })
  (s.dropWindowTlbs k.ctx k.scope k.pen w).finishCmd k 0

/-- PUBLISH_FLIP (R285): once every earlier command of the context that writes the window has retired. -/
def execPublishFlip (ctx cid : Nat) (s : State) : Out :=
  .next (match s.cmd ctx (BitVec.ofNat 16 cid) with
    | some k =>
      let w := sget Win.reset (s.pen k.pen).wins k.r1.toNat
      let writers := (s.cmdsBefore k).any (fun c => c.task == k.task && s.writesWindow c w)
      if k.st = .running ∧ k.kind = .publish ∧ ¬ writers then s.flip k else s
    | none => s)

end Sys2Proof.Machine
end

