-- ==== Sys2Proof/Machine/Retire.lean ====
section
/-! DEFINITION. Commands that retire, waits that end, answers from the links, and errors met at a consumer
(R114, R233, R257, R258, R275, R406 to R408, R410). -/

namespace Sys2Proof.Machine

/-! ### Commands (R275) -/

/-- A running command's work is done: it retires, or its push leaves for the queue. A transfer whose sends are not
acknowledged waits for the links (R407). -/
def State.commandEnds (s : State) (k : Cmd) : State :=
  if k.st ≠ .running then s
  else match k.kind with
    | .xfer _ => s.retireXfer k
    | .hctld => s.retireHctld k
    | .qpush => s.sendPush k
    | .kv op => if op = 8 then s else s.retireKv k op
    | .trig _ | .publish | .smpost | .tier _ => s

/-- COMMAND_RETIRE (R275): transform operations, publishes, samples, page moves and streams have events of their own. -/
def execCommandRetire (ctx cid : Nat) (s : State) : Out :=
  .next (match s.cmd ctx (BitVec.ofNat 16 cid) with
    | some k => s.commandEnds k
    | none => s)

/-! ### Answers from the links (R406 to R408; assumption log 69) -/

/-- The record of a store or `atom` that the owner has dropped: source 8, of the task that made it (R408). -/
def State.inboundRecord (s : State) (l : Late) (c : Code) : State :=
  let r : FaultRec :=
    { seq := s.seq, pen := l.pen, ctx := l.ctx, code := c.num, source := 8, cmd := false, kv := false, region := false,
      merged := 0, cid := 0, wid := l.wid, pc := l.pc, rpc := l.pc, job := l.job, extent := 0, addr := 0,
      loops := l.loops, xregs := [] }
  { s with seq := s.seq + 1 }.postRecord r false

/-- The first element that satisfies `p` becomes `f` of it. -/
def updFirst {α : Type} (p : α → Bool) (f : α → α) : List α → List α
  | [] => []
  | a :: r => if p a then f a :: r else a :: updFirst p f r

/-- The first remote access of a context's bundle that has no answer, among those of `p`, gets one (R402). -/
def State.answerRemote (s : State) (ctx : Nat) (p : Remote → Bool) (v : Except Code Nat) : State :=
  s.updCtx ctx (fun c => { c with
    remote := updFirst (fun r => r.open_ && p r) (fun r => match v with
      | .ok d => { r with ans := some (d % 2 ^ (8 * r.n)) }
      | .error e => { r with fail := some e }) c.remote })

/-- A refused store leaves a record, where it was refused. -/
def State.recordIf (s : State) (l : Late) (e : Option Code) : State :=
  match e with
  | some c => s.inboundRecord l c
  | none => s

/-- A remote store or `atom` of a context has been acknowledged, or dropped by its owner (R406, R408): the oldest one, so
first those of tasks that have left. -/
def State.ackStore (s : State) (ctx : Nat) (e : Option Code) : State :=
  let mine (l : Late) : Bool := l.ctx == ctx && l.acks != 0
  match s.lates.find? mine with
  | some l =>
    { s with
      lates := (updFirst mine (fun l => { l with acks := l.acks - 1 }) s.lates).filter
        (fun l => l.acks != 0 || !l.ents.isEmpty) }.recordIf l e
  | none =>
    if (s.ctx ctx).acks = 0 then s
    else (s.updCtx ctx (fun c => { c with acks := c.acks - 1 })).recordIf (s.lateOf ctx) e

/-- The command whose messages these are, while it has not retired. -/
def State.sentCmd (s : State) (x : Sent) : Option Cmd := s.cmds.find? (fun k => k.task == x.task && k.cid == x.cid)

/-- The work of a command is done but for the acknowledgements of its messages (R407). -/
def Cmd.concluded (k : Cmd) : Bool :=
  decide (k.st = CmdSt.running) && k.pos == 1 && (match k.fail with
    | some f => f.code == 0
    | none => false)

/-- One message of a command has been acknowledged; with the last the command retires, where its work is done. -/
def State.ackSent (s : State) (x : Sent) (linked : Nat) : State :=
  let mine (y : Sent) : Bool := y.task == x.task && y.cid == x.cid
  let s := { s with
    sents := (s.sents.map (fun y => if mine y then { y with left := y.left - 1, linked := linked } else y)).filter
      (fun y => y.left != 0) }
  match s.sentCmd x with
  | none => s
  | some k => if k.concluded && !s.sending k then s.ackedCmd k else s

/-- A command one of whose messages has failed retires FAILED (R408); a request that a groom runs does so at the groom's next
step. -/
def State.failSent (s : State) (k : Cmd) (c : Code) : State :=
  let cl := clusterOf k.ctx
  match (s.groom cl).run with
  | some r =>
    if r.cmd.task = k.task ∧ r.cmd.cid = k.cid then
      s.updGroom cl (fun g => { g with run := some { r with fail := some (c, k.pc.toNat) } })
    else s.failCmd k ⟨c.num, 0, 0, 0⟩ false false 0
  | none => s.failCmd k ⟨c.num, 0, 0, 0⟩ false false 0

/-- A message of a command has found no route, or its owner has refused it: the others are not waited for. -/
def State.dropSent (s : State) (x : Sent) (c : Code) : State :=
  let s := { s with sents := s.sents.filter (fun y => !(y.task == x.task && y.cid == x.cid)) }
  match s.sentCmd x with
  | none => s
  | some k => s.failSent k c

/-- What the record of a refused message says of what has sent it (R408). -/
def Sent.late (x : Sent) : Late := ⟨x.ctx, x.task, x.pen, x.wid, x.pc, x.job, x.loops, 0, []⟩

/-- A message is refused (R408): a send fails with it; another store is dropped, with a record. -/
def State.refuseSent (s : State) (x : Sent) (c : Code) : State :=
  if x.bulk then s.dropSent x c else (s.ackSent x (x.linked - 1)).inboundRecord x.late c

/-- The answer to a message of a command of a context (R407, R408): the oldest one that a link has carried off. -/
def State.ackSend (s : State) (ctx : Nat) (e : Option Code) : State :=
  match e with
  | none =>
    match s.sents.find? (fun x => x.ctx == ctx && x.linked != 0) with
    | some x => s.ackSent x (x.linked - 1)
    | none => s
  | some c =>
    match s.sents.find? (fun x => x.ctx == ctx) with
    | some x => s.refuseSent x c
    | none => s

/-- The link layer of the next package has acknowledged a flit of a command: for a send, where that is the receiving package, the
message is acknowledged; else it is on its way (R406, R407). -/
def State.linkAck (s : State) (reached : Nat) (tag : Nat × BitVec 16 × Option Nat) : State :=
  match s.sents.find? (fun x => x.task == tag.1 && x.cid == tag.2.1) with
  | none => s
  | some x =>
    if tag.2.2 = some reached then s.ackSent x x.linked
    else { s with
      sents := s.sents.map (fun y => if y.task == x.task && y.cid == x.cid then { y with linked := y.linked + 1 } else y) }

/-- An answer of kind 0 (a load or returning atomic), 1 (a store or `atom`) or 2 (a send). -/
def State.remoteAnswer (s : State) (ctx kind : Nat) (v : Except Code Nat) : State :=
  let e : Option Code := match v with
    | .ok _ => none
    | .error c => some c
  match kind with
  | 0 => s.answerRemote ctx (fun _ => true) v
  | 1 => s.ackStore ctx e
  | _ => s.ackSend ctx e

/-- REMOTE_RESPONSE (R406, R408): data in the low 1024 bits, a line's; bit 1024 says that the owner refused the request;
the kind of what is answered stands above. -/
def execRemoteResponse (ctx data : Nat) (s : State) : Out :=
  .next (s.remoteAnswer ctx (data / 2 ^ 1025) (if data.testBit 1024 then .error .permission else .ok (data % 2 ^ 1024)))

/-- A message is a request that a context, or a command of it, has made. -/
def State.ownRequest (s : State) (ctx : Nat) : Outbound → Bool
  | .store c _ _ _ => c == ctx
  | .load c _ _ _ => c == ctx
  | .atomic c _ _ _ _ _ _ => c == ctx
  | .send _ t cid _ _ _ => s.sents.any (fun x => x.task == t && x.cid == cid && x.ctx == ctx)
  | _ => false

/-- What becomes of a request that has found no route (R408). -/
def State.unrouted (s : State) (ctx : Nat) : Outbound → State
  | .store _ _ _ _ => s.ackStore ctx (some .machineCheck)
  | .load _ _ pa n => s.answerRemote ctx (fun r => r.pa == pa && r.n == n && r.op.isNone) (.error .machineCheck)
  | .atomic _ _ pa op n a c =>
    let asks (r : Remote) : Bool := r.pa == pa && r.n == n && r.op == some op && r.a == a && r.c == c
    if (s.ctx ctx).remote.any (fun r => r.open_ && asks r) then s.answerRemote ctx asks (.error .machineCheck)
    else s.ackStore ctx (some .machineCheck)
  | .send _ t cid _ _ _ =>
    match s.sents.find? (fun x => x.task == t && x.cid == cid) with
    | some x => s.refuseSent x .machineCheck
    | none => s
  | _ => s

/-- INBOUND_ROUTE_TIMEOUT (R408): the oldest request of a context that has no route is given up. -/
def execInboundRouteTimeout (ctx : Nat) (s : State) : Out :=
  let lost (m : Outbound) : Bool := s.ownRequest ctx m && (s.route m).isNone
  .next (match s.outbox.find? lost with
    | some m => { s with outbox := s.outbox.eraseP lost }.unrouted ctx m
    | none => s)

/-! ### `waita` (R257, R258) -/

/-- A parked `waita` ends: its bundle issues again and takes the reason. -/
def State.endWaita (s : State) (ctx why : Nat) : State :=
  (s.updCtx ctx (fun c => { c with st := .ready, ans := { c.ans with wake := some why } })).updCluster (clusterOf ctx)
    (fun c => { c with mons := c.mons.filter (fun m => m.ctx != ctx) })

/-- WAITA_WAKE (R258): the write, or the loss of the monitor, that has been noted reaches the context. -/
def execWaitaWake (ctx : Nat) (s : State) : Out :=
  .next (match (s.ctx ctx).st with
    | .parked (.waita _ _ _ _ (some why)) => s.endWaita ctx why
    | _ => s)

/-- WAITA_TIMEOUT (R257, Table 4). -/
def execWaitaTimeout (ctx : Nat) (s : State) : Out :=
  .next (match (s.ctx ctx).st with
    | .parked (.waita _ _ _ since none) =>
      let lim := (s.ctx ctx).waitlim.toNat
      if lim ≠ 0 ∧ since + lim ≤ s.now ctx then s.endWaita ctx 3 else s
    | _ => s)

/-- WAITA_MONITOR_LOST (R258): a line leaves a cluster's L2, or the monitor tags of a line are taken. -/
def execWaitaMonitorLost (cluster pa : Nat) (s : State) : Out :=
  let c := s.cluster cluster
  .next (match c.l2.find? (fun l => l.pa == pa / 128 * 128) with
    | some l => s.evictL2 cluster l
    | none => s.loseMons cluster (c.mons.filter (fun m => m.line / 64 == pa / 64)))

/-! ### The merge stage, held records and errors -/

/-- DENIAL_SOLE_ISSUE (R114): the context is offered alone in the next cycle. -/
def execDenialSoleIssue (ctx : Nat) (s : State) : Out :=
  .next (if 16 ≤ (s.ctx ctx).denial then s.updCtx ctx (fun c => { c with sole := true }) else s)

/-- FAULT_RECORD_HELD_WRITE (R233). -/
def execFaultRecordHeldWrite (pen : Nat) (s : State) : Out :=
  .next (match (s.pen pen).held with
    | [] => s
    | w :: r =>
      if (s.pen pen).fqOpen && s.mayAsk pen (s.pen pen).fqAt then (s.updPen pen (fun p => { p with held := r })).fqWrite pen w else s)

end Sys2Proof.Machine
end

