-- ==== Sys2Proof/Machine/Links.lean ====
section
/-! DEFINITION. Torus links, flits and inbound requests (R400 to R409). -/

namespace Sys2Proof.Machine

/-! ### Flits (R403, Table 1; assumption log 11) -/

/-- The words of a message from which its payload is formed. -/
def Outbound.words : Outbound → List Nat
  | .store c d pa l => 0 :: c :: d :: pa :: l.map BitVec.toNat
  | .load c d pa n => [1, c, d, pa, n]
  | .atomic c d pa op n a x => [2, c, d, pa, op, n, a, x]
  | .response d v c => [3, d, v, c]
  | .send _ t cid d pa l => 4 :: t :: cid.toNat :: d :: pa :: l.map BitVec.toNat
  | .giveBack d l => 5 :: d :: l
  | .lend d p l => 6 :: d :: p :: l
  | .recall d l ns => 7 :: d :: ns :: l
  | .event d l => 8 :: d :: l.map BitVec.toNat
  | .transit _ _ _ _ => []

/-- The 240 bytes that carry a message. -/
def Outbound.payload (m : Outbound) : List Byte :=
  match m with
  | .transit _ _ _ l => l
  | m => (List.range 240).map (Config.flitPayload m.words)

/-- The command that a message belongs to, and for one of a send the package whose link layer acknowledges it (R407). -/
def Outbound.tag : Outbound → Option (Nat × BitVec 16 × Option Nat)
  | .send bulk t cid d _ _ => some (t, cid, if bulk then some d else none)
  | _ => none

/-- A flit: kind, class, number, the receiver's last number taken, credits returned (class and count) and 240 bytes of
payload; then its crc. -/
def flitOf (kind cls seq ack : Nat) (credit : Nat × Nat) (payload : List Byte) : List Byte :=
  let body := bytesOf 8 (seq % 2 ^ 16 + cls % 16 * 2 ^ 24 + kind % 16 * 2 ^ 28 + credit.2 % 2 ^ 12 * 2 ^ 32 +
    credit.1 % 16 * 2 ^ 44 + ack % 2 ^ 16 * 2 ^ 48) ++ payload
  body ++ bytesOf 8 (crc32c body)

/-- The payload of a flit. -/
def flitPart (f : List Byte) : List Byte := (f.drop 8).take 240

/-- A payload of nothing: of idle flits and of replay requests. -/
def noPayload : List Byte := List.replicate 240 0

/-- The number of the last flit that a link has taken. -/
def Link.taken (l : Link) : Nat := (l.rxSeq + 2 ^ 16 - 1) % 2 ^ 16

/-- A flit goes out on a link: it takes the next number, joins the replay buffer, acknowledges what has been taken, and
returns the credits that are owed to one class. -/
def Link.push (l : Link) (kind cls : Nat) (payload : List Byte) (msg : Option Outbound) : Link :=
  let credit := l.owed.headD (0, 0)
  { l with
    replay := l.replay ++ [⟨l.txSeq, flitOf kind cls l.txSeq l.taken credit payload, msg⟩]
    txSeq := (l.txSeq + 1) % 2 ^ 16
    owed := l.owed.drop 1 }

/-- The replay buffer holds fewer than 256 flits (R404). -/
def Link.space (l : Link) : Bool := decide (l.replay.length < 256)

/-- A message goes out: its payload takes a credit of its class (R405). -/
def Link.sendData (l : Link) (m : Outbound) : Link :=
  let cls := m.head.1
  { l.push 0 cls m.payload (some m) with credits := sput 0 l.credits cls (sget 0 l.credits cls - 1) }

/-- A link has room for a payload of a class: space for the flit, and a credit (R404, R405). -/
def Link.room (l : Link) (cls : Nat) : Bool := l.space && sget 0 l.credits cls != 0

/-! ### What a link sends (R401, R404, R405) -/

/-- A link has something to send of its own: flits to send again, flits that its sibling has left, a replay request, or
credits to return. -/
def Link.due (l : Link) : Bool :=
  l.up && (!l.resend.isEmpty || !l.moved.isEmpty || !l.owed.isEmpty || (l.asked.isSome && !l.askSent))

/-- The flits that were to go again have gone; the replay request that the receiver owes goes out (R404). -/
def Link.control (l : Link) : Link :=
  let l := { l with resend := [] }
  if l.asked.isSome && !l.askSent && l.space then { l.push 2 4 noPayload none with askSent := true } else l

/-- Credits that no other flit has returned go back in a flit of their own (R405). -/
def Link.returnCredits (l : Link) : Link := if l.owed.isEmpty || !l.space then l else l.push 1 4 noPayload none

/-- A message goes out on a link, unless it finds no room or a link budget holds it (R396): says whether it went. -/
def State.offerFlit (s : State) (n : Nat) (m : Outbound) : Bool × State :=
  let cls := m.head.1
  if !(s.link n).room cls then (false, s)
  else if s.budgetBlocked 4 cls then (false, s.budgetHold 4 cls)
  else (true, (s.updLink n (fun l => l.sendData m)).budgetCharge 4 cls 1)

/-- What a link's sibling has left goes out, each class in order (R404). -/
def State.sendMoved (s : State) (n : Nat) : State :=
  let (kept, s) := (s.link n).moved.foldl (fun (acc : List Outbound × State) (m : Outbound) =>
    let (ok, s) := if acc.1.any (fun g => g.head.1 == m.head.1) then (false, acc.2) else acc.2.offerFlit n m
    (if ok then acc.1 else acc.1 ++ [m], s)) ([], s)
  s.updLink n (fun l => { l with moved := kept })

/-- Messages leave in order, each triple's own order kept; one that finds no room, or messages of its class that have moved
before it, stays (R401, R404). -/
def State.sendMessages (s : State) : State :=
  let (kept, s) := s.outbox.foldl (fun (acc : List Outbound × State) (m : Outbound) =>
    let h := m.head
    let (ok, s) := match (if acc.1.any (fun k => k.head == h) then none else acc.2.route m) with
      | none => (false, acc.2)
      | some n => if (acc.2.link n).moved.any (fun k => k.head.1 == h.1) then (false, acc.2) else acc.2.offerFlit n m
    (if ok then acc.1 else acc.1 ++ [m], s)) ([], s)
  { s with outbox := kept }

/-- What the links send in a cycle. -/
def State.sendFlits (s : State) : State :=
  let due := ((s.links.filter (fun kl => kl.2.due)).map Prod.fst).filter s.linkOk
  let s := due.foldl (fun s n => (s.updLink n Link.control).sendMoved n) s
  let s := s.sendMessages
  due.foldl (fun s n => s.updLink n Link.returnCredits) s

/-! ### What a link receives (R403 to R405) -/

/-- What an acknowledgement frees: every flit up to its number. -/
def Link.acked (l : Link) (ack : Nat) : Link :=
  match l.replay.findIdx? (fun f => f.seq == ack) with
  | some i => { l with replay := l.replay.drop (i + 1), tries := 0 }
  | none => l

/-- The sender resends from a number in order; a further replay of the same first flit says that the one before failed
(R404). -/
def Link.replayFrom (l : Link) (seq : Nat) : Link :=
  match l.replay.findIdx? (fun f => f.seq == seq) with
  | some i =>
    let r := l.replay.drop i
    { l with replay := r, resend := r.map Flit.data, tries := if i = 0 then l.tries + 1 else 1 }
  | none => l

/-- A link changes by what its peer says; messages of commands whose flits are thereby acknowledged are (R407). -/
def State.hearLink (s : State) (n : Nat) (f : Link → Link) : State :=
  let l := s.link n
  let m := f l
  (l.replay.take (l.replay.length - m.replay.length)).foldl (fun s x => match x.msg.bind Outbound.tag with
    | some t => s.linkAck (neighbour s.pkg (n / 2)) t
    | none => s) (s.setLink n m)

/-- REPLAY_REQUEST (R404); a link whose controller is updated hears none (R411). -/
def execReplayRequest (link seq : Nat) (s : State) : Out :=
  .next (if s.updating (2 + link) then s else s.hearLink link (fun l => l.replayFrom seq))

/-- A flit that the receiver drops: it asks for the number it expects. -/
def Link.ask (l : Link) : Link := { l with asked := some l.rxSeq, askSent := false }

/-- The number of a flit is taken. -/
def Link.take (l : Link) : Link := { l with rxSeq := (l.rxSeq + 1) % 2 ^ 16, asked := none, askSent := false }

/-- The header of a flit is heeded: its acknowledgement, or the replay that it asks for, and the credits that it returns. A
data flit leaves its buffer, and a credit of its class is owed. -/
def Link.heed (l : Link) (h kind cls : Nat) : Link :=
  let ack := bits h 63 48
  let cc := bits h 47 44
  let l := l.acked ack
  let l := if kind = 2 then l.replayFrom ((ack + 1) % 2 ^ 16) else l
  { l with
    credits := sput 0 l.credits cc (sget 0 l.credits cc + bits h 43 32)
    owed := if kind = 0 ∧ cls < 4 then sput 0 l.owed cls (sget 0 l.owed cls + 1) else l.owed }

/-- A payload for another package, which has come over a link, goes on towards it (R401), in the direction in which it came
(R404). -/
def State.passOn (s : State) (link cls : Nat) (payload : List Byte) : State :=
  { s with
    outbox := s.outbox ++ (if (Config.flitDst payload).toNat = s.pkg then []
      else [.transit cls (Config.flitDst payload).toNat (link / 2 ^^^ 1) payload]) }

/-- FLIT_RECEIVED (R403 to R405): length, crc and number are checked; then the header is heeded, and a payload for another
package goes on. What reaches this package acts by the step of its kind. A flit of an unassigned kind or class is dropped
as malformed. A link whose controller is updated takes none: the sender keeps it for a replay (R411; assumption log 98). -/
def execFlitReceived (link : Nat) (flit : List Byte) (s : State) : Out :=
  let h := ofBytes (flit.take 8)
  let l := s.link link
  let good := flit.length = 256 ∧ ofBytes ((flit.drop 248).take 4) = crc32c (flit.take 248) ∧ bits h 15 0 = l.rxSeq
  let cls := bits h 27 24
  let kind := bits h 31 28
  .next (if !l.up || s.updating (2 + link) then s
    else if ¬ good then s.setLink link l.ask
    else if 3 ≤ kind ∨ 5 ≤ cls then s.setLink link l.take
    else
      let s := s.hearLink link (fun l => l.take.heed h kind cls)
      if kind = 0 ∧ cls < 4 then s.passOn link cls (flitPart flit) else s)

/-- LINK_DOWN (R404): after 16 failed replays of one flit the link goes down. What it has not delivered goes out in order on the
sibling before any new flit; with the sibling down it finds another way. -/
def execLinkDown (link : Nat) (s : State) : Out :=
  let l := s.link link
  .next (if !l.up ∨ l.tries ≤ 16 then s
    else
      let left := l.replay.filterMap Flit.msg ++ l.moved
      let s := s.setLink link { l with
        up := false, replay := [], resend := [], moved := [], owed := [], asked := none, askSent := false }
      if (s.link (link ^^^ 1)).up then s.updLink (link ^^^ 1) (fun m => { m with moved := m.moved ++ left })
      else { s with outbox := left ++ s.outbox })

/-! ### Inbound requests (R406, R408, R409; assumption log 84) -/

def State.ioWin (s : State) (n : Nat) : IoWin := sget IoWin.reset s.ioWins n

/-- What a request needs: read, write. -/
def inNeeds : InKind → Bool × Bool
  | .read _ => (true, false)
  | .write _ => (false, true)
  | .atomic _ _ _ _ => (true, true)
  | .cas _ _ _ => (true, true)

/-- Bytes that a request touches. -/
def inSize : InKind → Nat
  | .read n => n
  | .write l => l.length
  | .atomic _ n _ _ => n
  | .cas n _ _ => n

/-- A window admits a request (Table 4). -/
def IoWin.admits (w : IoWin) (rq : Inbound) : Bool :=
  let m := w.map.toNat
  let lo := bits m 38 3 * 2 ^ 16
  bit m 0 && (if rq.host then bit m 61 else w.src.getLsbD rq.src) &&
    (!(inNeeds rq.kind).1 || bit m 62) && (!(inNeeds rq.kind).2 || bit m 63) &&
    decide (lo ≤ rq.pa) && decide (rq.pa + inSize rq.kind ≤ lo + (bits m 54 39 + 1) * 2 ^ 16) &&
    decide (rq.pa + inSize rq.kind ≤ 2 ^ 39)

/-- The pen charged by the first window that admits a request. -/
def State.admitted (s : State) (rq : Inbound) : Option Nat :=
  ((List.range 16).find? (fun n => (s.ioWin n).admits rq)).map (fun n => bits (s.ioWin n).map.toNat 60 55)

/-- An answer goes back in class 1; the host has its own port. -/
def State.answer (s : State) (rq : Inbound) (v code : Nat) : State :=
  if rq.host then s else { s with outbox := s.outbox ++ [.response rq.src v code] }

/-- An admitted request performs at the L2, for the pen charged: a cpol 1 access (R406). -/
def State.serve (s : State) (pen : Nat) (rq : Inbound) : State :=
  let c := inCluster rq.pa
  let old := s.physRead rq.pa (inSize rq.kind)
  let put (n v : Nat) : State := s.l2Store c pen 1 0 rq.pa n v
  let look : State := s.touchLines c pen 1 0 rq.pa (inSize rq.kind)
  match rq.kind with
  | .read _ => look.answer rq old 0
  | .write l => (put l.length (ofBytes l)).answer rq 0 0
  | .atomic op n a _ => (put n (atomFn op n old a)).answer rq old 0
  | .cas n cmp new => (if old = cmp % 2 ^ (8 * n) then put n new else look).answer rq old 0

/-- The next request of a pen performs as budgets of the pen admit it (R396, R408): it, or it waits in its pen's order. -/
def State.inTry (s : State) (pen : Nat) (rq : Inbound) : State :=
  s.meterUnit pen 0 0 (fun s => ({ s with inq := s.inq.erase rq }).serve pen rq)

/-- A write of the host to its own memory, which is no inbound access, performs; one of another host to pooled far memory
performs too, and no `waita` sees it (R409, R236, R258). -/
def State.outsideWrite (s : State) (rq : Inbound) : State :=
  match rq.kind with
  | .write l =>
    if tierOf rq.pa = some 3 then s.physWrite none rq.pa l.length (ofBytes l)
    else { s with mem := cellsWrite s.mem 52 rq.pa l.length (ofBytes l) }
  | _ => s

/-- INBOUND_REQUEST (R408): admitted by a window and charged to its pen, behind those of the pen that a budget holds, or
answered with an error. -/
def execInboundRequest (rq : Inbound) (s : State) : Out :=
  .next (if rq.host && (tierOf rq.pa == some 3 || tierOf rq.pa == some 1) then s.outsideWrite rq
    else match s.admitted rq with
      | none => s.answer rq 0 Code.permission.num
      | some pen =>
        let t := { s with inq := s.inq ++ [rq] }
        if s.inq.any (fun q => s.admitted q == some pen) then t else t.inTry pen rq)

/-- Requests that budgets have held perform as those admit them, of each pen the oldest (R396); one that its window has ceased to
admit is refused. -/
def State.inboundStep (s : State) : State :=
  (s.inq.foldl (fun (acc : List Nat × State) q =>
    match acc.2.admitted q with
    | none => (acc.1, { acc.2 with inq := acc.2.inq.erase q }.answer q 0 Code.permission.num)
    | some pen => if acc.1.contains pen then acc else (pen :: acc.1, acc.2.inTry pen q)) ([], s)).2

end Sys2Proof.Machine
end

