-- ==== Sys2Proof/Machine/Firmware.lean ====
section
/-! DEFINITION. Controllers, bring-up, live update and uncorrectable errors (R410 to R419). -/

namespace Sys2Proof.Machine

def State.fw (s : State) (n : Nat) : Fw := sget Fw.reset s.fws n
def State.setFw (s : State) (n : Nat) (f : Fw) : State := { s with fws := sput Fw.reset s.fws n f }
def State.updFw (s : State) (n : Nat) (f : Fw → Fw) : State := s.setFw n (f (s.fw n))

/-- Indices that name a controller (Table 1 of R411). -/
def fwIndex (n : Nat) : Bool := decide (n < 64) && n != 30 && n != 31

/-- Controller kind: the lowest N of its row (R411, R412). -/
def fwKind (n : Nat) : Nat :=
  if n < 2 then n else if n < 14 then 2 else if n < 22 then 14 else if n < 26 then 22 else if n < 30 then 26 else 32

/-- `n` bytes of an image from byte `i`. -/
def imagePiece (img : List (Nat × Byte)) (i n : Nat) : List Byte := (List.range n).map (fun k => sget 0 img (i + k))

/-- A field of an image's header, of `n` bytes (R412). -/
def imageField (img : List (Nat × Byte)) (i n : Nat) : Nat := cellsRead img 64 (Config.imageAt i).toNat n

def imageVersion (img : List (Nat × Byte)) : Nat := imageField img 2 2

/-- The body follows the header. -/
def imageBody (img : List (Nat × Byte)) : List Byte :=
  imagePiece img Config.imageHeader.toNat (imageField img 3 ((Config.imageSize 3).toNat + 1))

/-- The bytes that the signature covers: every other byte of the header. -/
def imageSigned (img : List (Nat × Byte)) : List Byte :=
  let at_ := (Config.imageAt 5).toNat
  imagePiece img 0 at_ ++ imagePiece img (at_ + 2820) (Config.imageHeader.toNat - (at_ + 2820))

/-- An image is accepted for an instance (R412): its magic, signature, digest, kind and version. -/
def fwAccepts (n minver : Nat) (img : List (Nat × Byte)) : Bool :=
  imageField img 0 4 == 0x4F535058 && Config.xmssVerifies (imageSigned img) (BitVec.ofNat 22560 (imageField img 5 2820)) &&
    imageField img 4 32 == (Config.shake256 (imageBody img)).toNat &&
    imageField img 1 ((Config.imageSize 1).toNat + 1) == fwKind n && decide (minver ≤ imageVersion img)

/-- The slot from which an instance does not run. -/
def Fw.idleSlot (f : Fw) : List (Nat × Byte) := if f.active then f.slotA else f.slotB

/-! ### Bring-up (R413, R414) -/

/-- `vera` and `verb` show the versions of the images in the slots, 0 for an empty one (R415). -/
def Fw.showVersions (f : Fw) : Fw :=
  let ver (l : List (Nat × Byte)) : Nat := if l.isEmpty then 0 else imageVersion l
  { f with vera := ver f.slotA, verb := ver f.slotB }

/-- An instance runs the first image accepted, slot A before slot B: whether one is. -/
def bootFw (n : Nat) (f : Fw) : Bool × Fw :=
  let f := f.showVersions
  if fwAccepts n 0 f.slotA then (true, { f with active := false })
  else if fwAccepts n 0 f.slotB then (true, { f with active := true }) else (false, f)

/-- A cold reset takes every register to its reset value; the image slots, the fuses and what is not the machine's own
stay. -/
def State.cold (s : State) : State :=
  { State.reset with
    plan := s.plan, turn := s.turn, round := s.round, free := s.free, leaf := s.leaf,
    fws := s.fws.filterMap (fun kf =>
      let f := { Fw.reset with slotA := kf.2.slotA, slotB := kf.2.slotB }
      if f = Fw.reset then none else some (kf.1, f)) }

/-- Steps 2 and 3 of R413 for some instances: whether every one of them runs. -/
def State.bootAll (s : State) : List Nat → Bool × State
  | [] => (true, s)
  | n :: r =>
    let (ok, f) := bootFw n (s.fw n)
    let (all, s) := (s.setFw n f).bootAll r
    (ok && all, s)

/-- The coordinates are set (R400), and each trained link grants its peer the credits of every class that has them (R405). -/
def State.train (s : State) : State :=
  { s with
    pkg := Config.package.toNat
    links := (List.range 12).map (fun n =>
      (n, { Link.reset with owed := (List.range 4).map (fun c => (c, (Config.linkCredits c).toNat + 1)) })) }

/-- COLD_RESET (R413, R414): each step leaves a log record; the data plane is released, or the part enters the safe
state. -/
def execColdReset (selfTestOk : Bool) (s : State) : Out :=
  let s := s.cold.logEvent .boot 0 0 [1]
  let (ok0, s) := s.bootAll [0]
  let s := s.logEvent .boot 0 0 [2]
  let (ok, s) := s.bootAll ((List.range 64).filter (fun n => fwIndex n && n != 0))
  let s := (s.train.logEvent .boot 0 0 [3]).logEvent .boot 0 0 [4]
  .next (if ok0 && ok && selfTestOk then { (s.logEvent .boot 0 0 [5]) with booted := true }
    else { s with safe := true })

/-! ### Live update (R416 to R419) -/

/-- The instance stands at its update boundary (Table 1 of R411): a drover between page moves, with no recall deadline
pending (R418), a groom between requests; the others between any two steps. -/
def State.atBoundary (s : State) (n : Nat) : Bool :=
  if fwKind n = 26 then
    (diePools (n - 26)).all (fun k => (s.pool k).recalls.isEmpty) &&
      !s.pools.any (fun kp => kp.2.moves.any (fun m => m.die == n - 26))
  else if fwKind n = 32 then (sget Groom.reset s.grooms (n - 32)).run.isNone
  else true

def Fw.hoaBase (f : Fw) : Nat := bits f.hoa.toNat 51 12 * 2 ^ 12
def Fw.hoaSize (f : Fw) : Nat := bits f.hoa.toNat 11 0 * 2 ^ 12

/-- Version of the image that runs. -/
def Fw.running (f : Fw) : Nat := if f.active then f.verb else f.vera

/-- The sealed record (Table 3). -/
def recordBytes (format fromVer seq : Nat) (l : List Byte) : List Byte :=
  bytesOf 8 (0x4F564852 + format % 2 ^ 16 * 2 ^ 32 + fromVer % 2 ^ 16 * 2 ^ 48) ++ bytesOf 8 seq ++
    bytesOf 8 (l.length % 2 ^ 32 + crc32c l * 2 ^ 32) ++ bytesOf 8 0x5345414C45440001 ++ l

/-- UPDATE_BOUNDARY (R416, R418 step 2): the running image stops taking new work, and writes and seals its record, with the
sections given; a record that does not fit refuses the update. -/
def execUpdateBoundary (inst : Nat) (record : List Byte) (s : State) : Out :=
  let f := s.fw inst
  .next (if ¬ (f.state = 1 ∧ f.asked ∧ s.atBoundary inst) then s
    else if f.hoaSize < 32 + record.length then
      (s.setFw inst { f with state := 0, asked := false }).logEvent .updateRefused inst 0 [f.running]
    -- the management controller's own record is management traffic (R394)
    else if inst = 0 ∧ s.budgetBlocked 6 0 then s.budgetHold 6 0
    else
      let (q, s) := s.draw
      let l := recordBytes (Config.recordFormat (fwKind inst) f.running).toNat f.running q record
      let s := if inst = 0 then s.budgetCharge 6 0 ((l.length + 63) / 64) else s
      (s.physWrite none f.hoaBase l.length (ofBytes l)).setFw inst
        { f with state := 2, asked := false, heldWrites := [], heldMsgs := [] })

/-- Version of the image in the other slot. -/
def Fw.incoming (f : Fw) : Nat := if f.active then f.vera else f.verb

/-- Bytes of the 1 MiB hand-over buffer that held writes and messages take: each its words and one more (R418; assumption
log 8). -/
def Fw.heldBytes (f : Fw) : Nat :=
  16 * f.heldWrites.length + (f.heldMsgs.map (fun m => match m with
    | .event _ l => 8 * (l.length + 1)
    | _ => 16)).foldl (· + ·) 0

/-- The buffer is full: the image stalls, and does not post alive (R418). -/
def Fw.stalled (f : Fw) : Bool := decide (2 ^ 20 < f.heldBytes + 16)

/-- Hardware starts the new image (R418 step 3); until it has posted alive, what it writes and sends is held (step 4). -/
def State.imageStep (s : State) (inst : Nat) : State :=
  let f := s.fw inst
  if f.state = 2 then s.setFw inst { f with state := 3 }
  else if f.state ≠ 3 ∨ f.stalled then s
  else
    let s := { s with free := s.free + 1 }
    match Config.handOver inst (s.free - 1) with
    | [0, pa, v] => s.setFw inst { f with heldWrites := f.heldWrites ++ [(pa % 2 ^ 39, BitVec.ofNat 64 v)] }
    | 1 :: dst :: l => s.setFw inst { f with heldMsgs := f.heldMsgs ++ [.event (dst % 64) (l.map (BitVec.ofNat 64))] }
    | _ => s

/-- The bytes of the record in an instance's area, from its header and its sections (Table 3). -/
def State.sealedRecord (s : State) (f : Fw) : List Byte :=
  let n := s.physRead (f.hoaBase + 0x10) 4
  bytesOf (32 + n) (s.physRead f.hoaBase (32 + n))

/-- A record is sealed, its crc is that of its sections, and its format is one that an image knows (R416, R417). -/
def recordGood (kind ver : Nat) (l : List Byte) : Bool :=
  let w (o : Nat) : Nat := ofBytes ((l.drop o).take 8)
  bits (w 0) 31 0 == 0x4F564852 && w 0x18 == 0x5345414C45440001 && bits (w 0x10) 63 32 == crc32c (l.drop 32) &&
    Config.formatKnown kind ver (bits (w 0) 47 32)

/-- An image writes its version to `fw.N.alive` (R418 step 5, R419): an incoming image that can read the record, and is not
stalled, takes over, and what it has written and sent performs in order; an old image that has been restarted runs again. -/
def State.alivePost (s : State) (inst version : Nat) : State :=
  let f := s.fw inst
  let f' := { f with alive := version % 2 ^ 16 }
  if f.state = 3 then
    if !f.stalled && recordGood (fwKind inst) f.incoming (s.sealedRecord f) then
      let s := f.heldWrites.foldl (fun s w => s.physWrite none w.1 8 w.2.toNat) s
      let s := { s with outbox := s.outbox ++ f.heldMsgs }
      s.setFw inst { f' with heldWrites := [], heldMsgs := [], active := !f.active, state := 0 }
    else s
  else s.setFw inst (if f.state = 4 then { f' with state := 0 } else f')

/-- ALIVE_POST (R417, R418). -/
def execAlivePost (inst version : Nat) (s : State) : Out := .next (s.alivePost inst version)

/-- The update is undone (R419): held writes are discarded, the old image restarts, and the log says so. -/
def State.revert (s : State) (inst : Nat) : State :=
  (s.updFw inst (fun f => { f with
    heldWrites := [], heldMsgs := [], fail := true, state := 4, asked := false })).logEvent .reverted inst 0 [(s.fw inst).running]

/-- The part enters the safe state (R414). -/
def State.enterSafe (s : State) : State := { s with safe := true, booted := false }

/-- No alive within 50 ms (R419): of a new image, or of the old one after a revert. -/
def State.watchdog (s : State) (inst : Nat) : State :=
  match (s.fw inst).state with
  | 3 => s.revert inst
  | 4 =>
    let s := s.updFw inst (fun f => { f with state := 5 })
    if inst = 0 then s.enterSafe else s
  | _ => s

/-- WATCHDOG_EXPIRY (R419). -/
def execWatchdogExpiry (inst : Nat) (s : State) : Out := .next (s.watchdog inst)

/-! ### ECC (R410) -/

/-- A command that runs consumes bad data, at a physical address (R410): a stream marks the slots that it has still to fill, a
load leaves its HCT entries unloaded, a sample request that has not left for the groom and any other command fails. -/
def State.eccCmd (s : State) (k : Cmd) (pa : Nat) : State :=
  let c := Code.machineCheck
  match k.kind with
  | .kv 8 => s.streamFails k ⟨c.num, pa, 0, 0⟩ k.stream.ix
  | .hctld => s.hctStops k c.num
  | .tier _ => s.failTier k (c, pa, false, 0) (s.tierEnd k - k.tierPage)
  | _ => s.failCmd k ⟨c.num, pa, 0, 0⟩ false false 0

/-- A move of a drover consumes bad data: it is given up, and the command or the task that it serves fails with it (R106). -/
def State.eccMove (s : State) (pool : Nat) (m : PageMove) (pa : Nat) : State :=
  let s := s.abandonMove pool m.stall
  match m.why with
  | .cmd ctx cid =>
    match s.cmd ctx cid with
    | some k => s.eccCmd k pa
    | none => s
  | .near task => s.draw.2.terminate Code.machineCheck.num s.seq task
  | .pressure | .recall => s

/-- UNCORRECTABLE_ERROR (R410): `MACHINE_CHECK` at what consumes the data, or the rollback of a controller; each gives a log
record with the physical address. What a unit that serves no task does with it is the model's choice (assumption log 62). -/
def execUncorrectableError (target : EccTarget) (pa : Nat) (s : State) : Out :=
  let c := Code.machineCheck
  .next (match target with
    | .context ctx =>
      let c := s.ctx ctx
      if c.st ≠ .ready then s
      else { takeFault ⟨.machineCheck, pa, .c, none, none, false, 0, 0⟩
        { s with issue := { Issue.none with ctx := ctx, pc := c.pc } } with issue := s.issue }
    | .command ctx cid =>
      match s.cmd ctx (BitVec.ofNat 16 cid) with
      | some k =>
        if k.st = .running ∧ k.kind ≠ .smpost ∧ k.fail.isNone then (s.logEvent .machineCheck ctx k.pen [pa]).eccCmd k pa else s
      | none => s
    | .groom n =>
      match (s.groom n).run with
      | some r =>
        if r.fail.isSome then s
        else (s.logEvent .machineCheck n r.cmd.pen [pa]).updGroom n (fun g => { g with
          run := some { r with fail := some (c, r.prog + 4 * r.ix) } })
      | none => s
    | .drover die =>
      match (s.moveOf die true).or (s.moveOf die false) with
      | some (pool, m) => (s.logEvent .machineCheck die (s.pool pool).pen [pa]).eccMove pool m pa
      | none => s
    | .sequencer slot =>
      match s.nextEntry slot with
      | (some (q, u, _), t) => (t.consume slot q u).logEvent .machineCheck slot q.pen [pa]
      | (none, _) => s
    | .walker n =>
      match sfind s.graphs n with
      | some g => (s.logEvent .machineCheck n g.pen [pa]).graphFails n c.num
      | none => s
    | .inbound rq =>
      match s.admitted rq with
      | some pen => (s.logEvent .machineCheck 0 pen [pa]).answer rq 0 c.num
      | none => s.answer rq 0 Code.permission.num
    | .controller inst =>
      if fwIndex inst && (s.fw inst).state != 5 then (s.logEvent .ecc inst 0 [pa]).revert inst else s)

/-- A single-bit error is corrected and counted (R410). -/
def State.correct (s : State) : State := { s with corrected := s.corrected + 1 }

end Sys2Proof.Machine
end

