-- ==== Sys2Proof/Machine/Registers.lean ====
section
/-! DEFINITION. The registers of the management plane and of a pen's block, under their access codes (R5, R225, R235,
R261, R284, R294, R326, R394, R398, R409, R415, R420, R423). -/

namespace Sys2Proof.Machine

/-- The bits [hi:lo] of a value, in place; the others read as zero. -/
def keep (v : Word) (hi lo : Nat) : Word := BitVec.ofNat 64 (bits v.toNat hi lo * 2 ^ lo)

/-! ### Pools (R294, R324, R326) -/

/-- Bytes per plane of a scale area (R324). -/
def Pool.scaleStride (p : Pool) : Nat :=
  let n := p.heads * p.toks * ((p.dim + 31) / 32) + p.heads * p.dim * ((p.toks + 31) / 32)
  64 * ((n + 63) / 64)

/-- Every field stands within its limits (R294, R326). -/
def Pool.fits (p : Pool) : Bool :=
  (p.nfmt == 1 || p.nfmt == 2) && decide (2 ≤ p.ltok) && decide (p.ltok ≤ 8) &&
    decide (p.toks * p.heads * p.dim * 4 ≤ p.stride) && decide (p.lstalls ≤ 20) &&
    decide (bits p.tpol.toNat 63 48 ≤ bits p.tpol.toNat 47 32) && decide (p.stallPa (2 ^ p.lstalls) ≤ 2 ^ 39)

/-- The pool comes into force: scale stride, free stall numbers (R297) but for those that R298 still holds back, and a new count
of periods. -/
def State.enablePool (s : State) (n : Nat) : State :=
  let p := s.pool n
  let free := (List.range (2 ^ p.lstalls)).filter (fun i =>
    (s.stallAt n i).state == 0 && !p.defers.any (fun d => d.kind == 0 && d.val == i))
  s.setPool n (free.foldl Pool.freeNumber { p with sstr := p.scaleStride, period := 0, runs := [] })

/-- A write of `kvp.N.cfg`: while the pool is in force only enable changes. -/
def State.writeCfg (s : State) (n : Nat) (v : Word) : State :=
  let p := s.pool n
  let v := keep v 63 25
  if p.enable then
    if v.getLsbD 63 then s else s.setPool n { p with cfg := p.cfg &&& 0x7FFFFFFFFFFFFFFF }
  else if !v.getLsbD 63 then s.setPool n { p with cfg := v }
  else
    let q := { p with cfg := v }
    if q.fits then (s.setPool n q).enablePool n else s.setPool n { p with cfg := v &&& 0x7FFFFFFFFFFFFFFF }

/-- The registers of a pool in block order: `kvp.N.cfg` to `kvp.N.stale`, then `kvp.N.tpol` to `kvp.N.tstat`. -/
def Pool.read (p : Pool) (i : Nat) : Word :=
  match i with
  | 0 => p.cfg | 1 => p.pstride | 2 => p.stab
  | 15 => BitVec.ofNat 64 p.resv | 16 => p.decay | 17 => BitVec.ofNat 64 p.period | 18 => BitVec.ofNat 64 p.stale
  | 19 => p.tpol | 20 => p.scsBase | 21 => p.scsCnt | 22 => BitVec.ofNat 64 p.sstr | 23 => p.agstBase | 24 => p.agstCnt
  | 25 => BitVec.ofNat 64 (p.recalled * 2 ^ 32 + p.pmoves)
  | _ =>
    if 3 ≤ i ∧ i ≤ 14 then
      if (i - 3) % 2 = 0 then sget 0 p.fsBase ((i - 3) / 2) else sget 0 p.fsCnt ((i - 3) / 2)
    else 0

/-- A write of another register of a pool; while it is in force only the stacks, `stale` and `tpol` take one. -/
def Pool.write (p : Pool) (i : Nat) (v : Word) : Pool :=
  let off := !p.enable
  match i with
  | 1 => if off then { p with pstride := keep v 31 7 } else p
  | 2 => if off then { p with stab := keep v 51 12 ||| keep v 4 0 } else p
  | 16 => if off then { p with decay := keep v 31 0 } else p
  | 18 => { p with stale := bits v.toNat 31 0 }
  | 19 => { p with tpol := keep v 63 32 ||| keep v 10 8 }
  | 20 => { p with scsBase := keep v 51 3 }
  | 21 => { p with scsCnt := v }
  | 23 => { p with agstBase := keep v 51 3 }
  | 24 => { p with agstCnt := v }
  | _ =>
    if 3 ≤ i ∧ i ≤ 14 then
      if (i - 3) % 2 = 0 then { p with fsBase := sput 0 p.fsBase ((i - 3) / 2) (keep v 51 3) }
      else { p with fsCnt := sput 0 p.fsCnt ((i - 3) / 2) v }
    else p

/-! ### Budgets (R394) -/

/-- Selectors of an activity kind (Table 2); only some classes of a link can be selected (R405). -/
def budgetSel (kind sel : Nat) : Bool :=
  match kind with
  | 0 => sel == 0
  | 1 => decide (sel < 4)
  | 2 => decide (sel < 32)
  | 3 => decide (sel < 64)
  | 4 => sel == 0 || sel == 2 || sel == 3
  | 5 => decide (sel < 32)
  | 6 => sel == 0
  | _ => false

/-- A write of `bgt.N.cfg`; sel and period of a slot in force wait for its boundary. -/
def Budget.setCfg (b : Budget) (v : Word) : Budget :=
  let kind := bits v.toNat 62 59
  let sel := bits v.toNat 51 40
  let period := bits v.toNat 39 30
  let on := v.getLsbD 63 && budgetSel kind sel && decide (period < 1000)
  if b.enable && on then { b with kind := kind, nextSel := sel, nextPeriod := period }
  else { b with enable := on, kind := kind, sel := sel, period := period, nextSel := sel, nextPeriod := period }

/-- A write of `bgt.N.budget`. -/
def Budget.setAmount (b : Budget) (v : Word) : Budget :=
  let a := bits v.toNat 31 0
  if b.enable then { b with nextAmount := a } else { b with amount := a, nextAmount := a }

def Budget.read (b : Budget) (i : Nat) : Word :=
  match i with
  | 0 => BitVec.ofNat 64 ((if b.enable then 2 ^ 63 else 0) + b.kind * 2 ^ 59 + b.nextSel * 2 ^ 40 + b.nextPeriod * 2 ^ 30)
  | 1 => BitVec.ofNat 64 b.nextAmount
  | 2 => BitVec.ofNat 64 b.used
  | _ => BitVec.ofNat 64 b.held

/-! ### Mailboxes (R424, Table 6) -/

def State.mbx (s : State) (n : Nat) : Mbx := sget Mbx.reset s.mbxs n
def State.setMbx (s : State) (n : Nat) (m : Mbx) : State := { s with mbxs := sput Mbx.reset s.mbxs n m }

/-- Opcodes of Table 7. -/
def mbxOps : List Nat := [0x01, 0x02, 0x10, 0x11, 0x12, 0x20, 0x21, 0x22, 0x30, 0x40, 0x41, 0x42, 0x50]

/-- A write to a mailbox register: `mbx.cmd` starts a command where none runs; an opcode of no command ends at once with
status 2 (assumption log 20). -/
def Mbx.write (m : Mbx) (off : Nat) (v : Word) : Mbx :=
  if off = 0 then
    if m.busy then m
    else
      let op := bits v.toNat 15 0
      if mbxOps.contains op then { m with cmd := BitVec.ofNat 16 op, busy := true }
      else { m with cmd := BitVec.ofNat 16 op, status := 2 }
  else if 0x10 ≤ off ∧ off < 0x50 then { m with args := sput 0 m.args ((off - 0x10) / 8) v }
  else m

def Mbx.read (m : Mbx) (off : Nat) : Word :=
  if off = 0 then m.cmd.setWidth 64
  else if off = 8 then BitVec.ofNat 64 ((if m.busy then 2 ^ 63 else 0) + m.status.toNat)
  else if 0x10 ≤ off ∧ off < 0x50 then sget 0 m.args ((off - 0x10) / 8)
  else 0

/-- Eight bytes of the data area. -/
def Mbx.putData (m : Mbx) (off : Nat) (v : Word) : Mbx := { m with data := cellsWrite m.data 12 off 8 v.toNat }
def Mbx.getData (m : Mbx) (off : Nat) : Word := BitVec.ofNat 64 (cellsRead m.data 12 off 8)

/-! ### A pen's register block (R235, Table 9) -/

/-- A window that is to be enabled overlaps another enabled one (R284). -/
def Pen.overlaps (p : Pen) (n : Nat) (w : Win) : Bool :=
  p.wins.any (fun kw => kw.1 != n && kw.2.enable && decide (kw.2.va < w.va + w.size * 2 ^ 16) &&
    decide (w.va < kw.2.va + kw.2.size * 2 ^ 16))

/-- A write of a window register: map, h0, h1. -/
def Pen.writeWin (p : Pen) (n i : Nat) (v : Word) : Pen :=
  let w := sget Win.reset p.wins n
  let w := match i with
    | 0 =>
      let x := { w with va := bits v.toNat 59 16 * 2 ^ 16, size := bits v.toNat 15 4 + 1, enable := v.getLsbD 0 }
      { x with enable := x.enable && !p.overlaps n x }
    | 1 => { w with h0 := bits v.toNat 51 16 * 2 ^ 16 }
    | 2 => { w with h1 := bits v.toNat 51 16 * 2 ^ 16 }
    | _ => w
  { p with wins := sput Win.reset p.wins n w }

/-- A write of a register of a pen at a block offset. -/
def Pen.write (p : Pen) (off : Nat) (v : Word) : Pen :=
  match off with
  | 0x00 => { p with root := keep v 51 14 ||| keep v 0 0 }
  | 0x08 => { p with fqBase := keep v 51 7 }
  | 0x10 => { p with fqCtl := keep v 4 0 }
  | 0x18 => { p with fqHead := v.setWidth 32 }
  | 0x28 => { p with fqLost := v.setWidth 32 }
  | 0x40 => { p with kvsBase := keep v 51 12 }
  | 0x48 => { p with kvsLsize := keep v 4 0 }
  | 0x50 => { p with tbBase := keep v 51 6 }
  | 0x58 => { p with tbLsize := keep v 4 0 }
  | 0x60 => { p with svBase := keep v 51 12 }
  | 0x68 => { p with svCtl := keep v 31 0 }
  | _ => if 0x100 ≤ off ∧ off < 0x300 then p.writeWin ((off - 0x100) / 32) ((off - 0x100) % 32 / 8) v else p

/-- What a register of a pen reads at a block offset. -/
def Pen.read (p : Pen) (off : Nat) : Word :=
  match off with
  | 0x00 => p.root
  | 0x08 => p.fqBase
  | 0x10 => p.fqCtl
  | 0x18 => p.fqHead.setWidth 64
  | 0x20 => p.fqTail.setWidth 64
  | 0x28 => p.fqLost.setWidth 64
  | 0x40 => p.kvsBase
  | 0x48 => p.kvsLsize
  | 0x50 => p.tbBase
  | 0x58 => p.tbLsize
  | 0x60 => p.svBase
  | 0x68 => p.svCtl
  | _ =>
    if 0x100 ≤ off ∧ off < 0x300 then
      let w := sget Win.reset p.wins ((off - 0x100) / 32)
      match (off - 0x100) % 32 / 8 with
      | 0 => BitVec.ofNat 64 (w.va + (w.size - 1) * 2 ^ 4 + (if w.front then 2 else 0) + if w.enable then 1 else 0)
      | 1 => BitVec.ofNat 64 w.h0
      | 2 => BitVec.ofNat 64 w.h1
      | _ => 0
    else 0

/-- What a driver reads in its pen's block: aligned 8-byte accesses of the listed offsets; any other access, and a notify
register, reads 0 (R5, R235). -/
def State.penRead (s : State) (pen off : Nat) : Word :=
  if off % 8 ≠ 0 then 0
  else if off < 0x1000 then (s.pen pen).read off
  else if off < 0x2000 then (s.mbx (1 + pen)).read (off - 0x1000)
  else if off < 0x3000 then (s.mbx (1 + pen)).getData (off - 0x2000)
  else 0

/-- The register writes that an update of the management controller has held are made, in order (R411). -/
def State.penResume (s : State) : State :=
  if s.updating 0 && !s.safe then s
  else s.penQ.foldl (fun s w => s.updPen w.1 (fun p => p.write w.2.1 w.2.2)) { s with penQ := [] }

/-- A write through a pen's block by its driver; the registers of R225 wait while the management controller is updated
(R411). -/
def State.penWrite (s : State) (pen off : Nat) (v : Word) : State :=
  if off < 0x30 then { s with penQ := s.penQ ++ [(pen, off, v)] }.penResume
  else if off < 0x1000 then s.updPen pen (fun p => p.write off v)
  else if off < 0x2000 then s.setMbx (1 + pen) ((s.mbx (1 + pen)).write (off - 0x1000) v)
  else if off < 0x3000 then s.setMbx (1 + pen) ((s.mbx (1 + pen)).putData (off - 0x2000) v)
  else if 0x8000 ≤ off ∧ off < 0x8400 then
    match execNotify pen ((off - 0x8000) / 8) v s with
    | .next s => s
    | _ => s
  else s

/-- A direct write to the management block: only the system mailbox and `evl.head` take one (R423). -/
def State.mgtDirect (s : State) (off : Nat) (v : Word) : State :=
  if 0x1000 ≤ off ∧ off < 0x2000 then s.setMbx 0 ((s.mbx 0).write (off - 0x1000) v)
  else if 0x2000 ≤ off ∧ off < 0x3000 then s.setMbx 0 ((s.mbx 0).putData (off - 0x2000) v)
  else if off = 0x6010 then { s with evl := { s.evl with head := v.setWidth 32 } }
  else s

/-- REGISTER_WRITE (R5, R235, R423): an aligned 8-byte write, to the block of pen 0 to 63, or, for a larger number, to the
management block. -/
def execRegisterWrite (pen offset : Nat) (value : Word) (s : State) : Out :=
  .next (if offset % 8 ≠ 0 then s
    else if pen < 64 then (if offset < 2 ^ 16 then s.penWrite pen offset value else s)
    else s.mgtDirect offset value)

/-! ### The management block (R423, Table 5) -/

def Fw.stat (f : Fw) : Word :=
  BitVec.ofNat 64 (f.vera % 2 ^ 16 * 2 ^ 48 + f.verb % 2 ^ 16 * 2 ^ 32 + f.state % 256 * 2 ^ 8 + (if f.fail then 2 else 0) +
    (if f.active then 1 else 0))

/-- Eight bytes of the table-frame map. -/
def tframeWord (l : List Nat) (at_ : Nat) : Word :=
  BitVec.ofNat 64 ((List.range 64).foldl (fun a i => if l.contains (8 * at_ + i) then a + 2 ^ i else a) 0)

/-- Cluster, slice and pen of an offset into the L2 registers. -/
def l2Reg (o : Nat) : Nat × Nat × Nat := (o / 16 / 64 / 64, o / 16 / 64 % 64, o / 16 % 64)

/-- What a register of the block reads. -/
def State.mgtRead (s : State) (off : Nat) : Word :=
  if off = 0 then 0x9400
  else if 0x1000 ≤ off ∧ off < 0x2000 then (s.mbx 0).read (off - 0x1000)
  else if 0x2000 ≤ off ∧ off < 0x3000 then (s.mbx 0).getData (off - 0x2000)
  else if 0x3000 ≤ off ∧ off < 0x3040 then
    let r := sget Rfm.reset s.rfms ((off - 0x3000) / 8)
    BitVec.ofNat 64 (r.alerts * 2 ^ 32 + r.thr)
  else if 0x4000 ≤ off ∧ off < 0x4800 then
    let f := s.fw ((off - 0x4000) / 32)
    match off % 32 / 8 with
    | 0 => f.stat
    | 1 => BitVec.ofNat 64 f.minver
    | 2 => BitVec.ofNat 64 f.alive
    | _ => f.hoa
  else if off = 0x5000 then BitVec.ofNat 64 (s.pkg % 64)
  else if 0x5100 ≤ off ∧ off < 0x5200 then
    let w := s.ioWin ((off - 0x5100) / 16)
    if off % 16 = 0 then w.map else w.src
  else if off = 0x6000 then s.evl.base
  else if off = 0x6008 then s.evl.ctl
  else if off = 0x6010 then s.evl.head.setWidth 64
  else if off = 0x6018 then s.evl.tail.setWidth 64
  else if off = 0x6020 then s.evl.lost.setWidth 64
  else if 0x10000 ≤ off ∧ off < 0x10800 then (s.pool ((off - 0x10000) / 256)).read (off % 256 / 8)
  else if 0x20000 ≤ off ∧ off < 0x20800 then (s.budget ((off - 0x20000) / 32)).read (off % 32 / 8)
  else if 0x100000 ≤ off ∧ off < 0x200000 then tframeWord s.tframes (off - 0x100000)
  else if 0x200000 ≤ off ∧ off < 0x400000 then
    let (c, sl, n) := l2Reg (off - 0x200000)
    if off % 16 = 0 then (s.fillMask c sl n).setWidth 64 else BitVec.ofNat 64 ((s.cluster c).occ sl n)
  else 0

/-- A write under a register's own rules, as REG_WRITE makes it. -/
def State.mgtWrite (s : State) (off : Nat) (v : Word) : State :=
  if 0x1000 ≤ off ∧ off < 0x3000 then s.mgtDirect off v
  else if 0x3000 ≤ off ∧ off < 0x3040 then
    let k := (off - 0x3000) / 8
    let t := bits v.toNat 14 0
    if 256 ≤ t then { s with rfms := supd Rfm.reset s.rfms k (fun r => { r with thr := t }) } else s
  else if 0x4000 ≤ off ∧ off < 0x4800 then
    let n := (off - 0x4000) / 32
    if !fwIndex n then s
    else match off % 32 / 8 with
      | 0 => if v.getLsbD 1 then s.updFw n (fun f => { f with fail := false }) else s
      | 1 => s.updFw n (fun f => { f with minver := Nat.max f.minver (bits v.toNat 15 0) })
      | 2 => s.alivePost n (bits v.toNat 15 0)
      | _ => s.updFw n (fun f => { f with hoa := keep v 51 0 })
  else if 0x5100 ≤ off ∧ off < 0x5200 then
    { s with ioWins := supd IoWin.reset s.ioWins ((off - 0x5100) / 16) (fun w =>
        if off % 16 = 0 then { w with map := keep v 63 3 ||| keep v 0 0 } else { w with src := v }) }
  else if off = 0x6000 then { s with evl := { s.evl with base := keep v 51 12 } }
  else if off = 0x6008 then ({ s with evl := { s.evl with ctl := keep v 4 0 } }).evlFlush
  else if off = 0x6010 then { s with evl := { s.evl with head := v.setWidth 32 } }
  else if 0x10000 ≤ off ∧ off < 0x10800 then
    let n := (off - 0x10000) / 256
    if off % 256 = 0 then s.writeCfg n v else s.updPool n (fun p => p.write (off % 256 / 8) v)
  else if 0x20000 ≤ off ∧ off < 0x20800 then
    let n := (off - 0x20000) / 32
    match off % 32 / 8 with
    | 0 => s.setBudget n ((s.budget n).setCfg v)
    | 1 => s.setBudget n ((s.budget n).setAmount v)
    | _ => s
  else if 0x200000 ≤ off ∧ off < 0x400000 ∧ off % 16 = 0 then
    let (c, sl, n) := l2Reg (off - 0x200000)
    { s with fmask := sput 0xFFFF s.fmask ((c * 64 + sl) * 64 + n) (v.setWidth 16) }
  else s

end Sys2Proof.Machine
end

