-- ==== Sys2Proof/Machine/Mailbox.lean ====
section
/-! DEFINITION. The mailbox commands (R412, R418, R421, R422, R424). -/

namespace Sys2Proof.Machine

/-- What a command leaves: its status, results, data and the state. -/
structure Done where
  status : Nat
  arg0 : Option Word
  data : Option (List (Nat × Byte))
  s : State

/-- The mailbox that the management controller serves next: in turn from `mbxNext`, of those that hold a command (R424). -/
def State.served (s : State) : Option Nat :=
  ((List.range 65).map (fun i => (s.mbxNext + i) % 65)).find? (fun n => (s.mbx n).busy)

/-- A command of a mailbox runs whole, where it is that mailbox's turn; then busy is clear and the status stands
(R424). While the management controller is updated it waits (R411), but not in the safe state (R414). It is one access of
management traffic, of the bytes that IMAGE_LOAD names or of up to 64, which a budget may hold (R394, R396; assumption log 83). -/
def mailbox (n op : Nat) (run : Mbx → State → Done) (s : State) : Out :=
  let m := s.mbx n
  .next (if m.busy && m.cmd.toNat == op && decide (s.served = some n) && (s.safe || !s.updating 0) then
    if s.budgetBlocked 6 0 then s.budgetHold 6 0
    else
    let s := s.budgetCharge 6 0 (if op = 0x10 then (Nat.min (sget (0 : Word) m.args 2).toNat 4096 + 63) / 64 else 1)
    let d := run m s
    let m := d.s.mbx n
    { (d.s.setMbx n { m with
        busy := false, status := BitVec.ofNat 16 d.status,
        args := match d.arg0 with
          | some v => sput 0 m.args 0 v
          | none => m.args
        data := d.data.getD m.data }) with mbxNext := (n + 1) % 65 }
  else s)

/-- A command that changes nothing but the status. -/
def State.says (s : State) (status : Nat) : Done := ⟨status, none, none, s⟩
def State.did (s : State) : Done := ⟨0, none, none, s⟩

/-- Argument `i`. -/
def Mbx.arg (m : Mbx) (i : Nat) : Nat := (sget (0 : Word) m.args i).toNat

/-- A register offset of the block. -/
def regOffset (off : Nat) : Bool := off % 8 == 0 && decide (off < 2 ^ 22)

/-- The pool whose register an offset names, and the register's place. -/
def poolReg (off : Nat) : Option (Nat × Nat) :=
  if 0x10000 ≤ off ∧ off < 0x10800 then some ((off - 0x10000) / 256, off % 256 / 8) else none

/-- A pen's mailbox may reach a pool's registers where the pool is the pen's. -/
def State.ownPool (s : State) (n off : Nat) : Bool :=
  n == 0 || (match poolReg off with
    | some (k, _) => (s.pool k).pen == n - 1
    | none => false)

/-- REG_READ. -/
def execRegRead (mbox : Nat) (s : State) : Out :=
  mailbox mbox 0x01 (fun m s =>
    if !regOffset (m.arg 0) then s.says 2
    else if !s.ownPool mbox (m.arg 0) then s.says 1
    else ⟨0, some (s.mgtRead (m.arg 0)), none, s⟩) s

/-- REG_WRITE: a pen's mailbox leaves the pen field as it is. -/
def execRegWrite (mbox : Nat) (s : State) : Out :=
  mailbox mbox 0x02 (fun m s =>
    let off := m.arg 0
    let v := BitVec.ofNat 64 (m.arg 1)
    if !regOffset off then s.says 2
    else if !s.ownPool mbox off then s.says 1
    else match poolReg off with
      | some (k, 0) =>
        let pen : Word := 0x7E00000000000000
        (s.mgtWrite off (if mbox = 0 then v else v &&& ~~~pen ||| (s.pool k).cfg &&& pen)).did
      | _ => (s.mgtWrite off v).did) s

/-- IMAGE_LOAD. -/
def execImageLoad (mbox : Nat) (s : State) : Out :=
  mailbox mbox 0x10 (fun m s =>
    let n := m.arg 0
    let len := m.arg 2
    if mbox ≠ 0 then s.says 1
    else if !fwIndex n ∨ len = 0 ∨ 4096 < len then s.says 2
    else if (s.fw n).state ≠ 0 then s.says 3
    else
      let f := s.fw n
      let img := cellsWrite f.idleSlot 64 (m.arg 1) len (cellsRead m.data 12 0 len)
      (s.setFw n (if f.active then { f with slotA := img } else { f with slotB := img }).showVersions).did) s

/-- IMAGE_VERIFY (R412). -/
def execImageVerify (mbox : Nat) (s : State) : Out :=
  mailbox mbox 0x11 (fun m s =>
    let n := m.arg 0
    let f := s.fw n
    if mbox ≠ 0 then s.says 1
    else if !fwIndex n then s.says 2
    else if f.state ≠ 0 then s.says 3
    else if !fwAccepts n f.minver f.idleSlot then s.says 4
    else (s.setFw n { f with state := 1 }).did) s

/-- UPDATE (R418): of an instance whose image is staged, while every other instance's state is 0. -/
def execUpdate (mbox : Nat) (s : State) : Out :=
  mailbox mbox 0x12 (fun m s =>
    let n := m.arg 0
    if mbox ≠ 0 then s.says 1
    else if !fwIndex n then s.says 2
    else if (s.fw n).state ≠ 1 ∨ (s.fw n).asked ∨ s.fws.any (fun kf => kf.1 != n && kf.2.state != 0) then s.says 3
    else (s.updFw n (fun f => { f with asked := true })).did) s

/-- Frames of the near range. -/
def nearFrames : Nat := 2 ^ 23

/-- TFRANGE (R421). -/
def execTfrange (mbox : Nat) (s : State) : Out :=
  mailbox mbox 0x20 (fun m s =>
    if mbox ≠ 0 then s.says 1
    else if 64 ≤ m.arg 0 ∨ nearFrames < m.arg 1 + m.arg 2 then s.says 2
    else (s.updPen (m.arg 0) (fun p => { p with tfFirst := m.arg 1, tfCount := m.arg 2 })).did) s

/-- The frames asked for lie in the pen's range. -/
def Pen.ownsFrames (p : Pen) (first count : Nat) : Bool :=
  decide (p.tfFirst ≤ first) && decide (first + count ≤ p.tfFirst + p.tfCount)

/-- A frame put into a rising list. -/
def addFrame (f : Nat) : List Nat → List Nat
  | [] => [f]
  | a :: r => if f < a then f :: a :: r else if f = a then a :: r else a :: addFrame f r

/-- TFRAME_SET (R421). -/
def execTframeSet (mbox : Nat) (s : State) : Out :=
  mailbox mbox 0x21 (fun m s =>
    if mbox = 0 ∨ !(s.pen (mbox - 1)).ownsFrames (m.arg 0) (m.arg 1) then s.says 1
    else ({ s with tframes := (List.range (m.arg 1)).foldl (fun l i => addFrame (m.arg 0 + i) l) s.tframes }).did) s

/-- TFRAME_CLEAR (R421). -/
def execTframeClear (mbox : Nat) (s : State) : Out :=
  mailbox mbox 0x22 (fun m s =>
    if mbox = 0 ∨ !(s.pen (mbox - 1)).ownsFrames (m.arg 0) (m.arg 1) then s.says 1
    else ({ s with tframes := s.tframes.filter (fun f => !(decide (m.arg 0 ≤ f) && decide (f < m.arg 0 + m.arg 1))) }).did) s

/-- What a quote reports: the nonce, every active image, vera, verb, active and minver of every instance, and seq
(R422). -/
def State.quoteReport (s : State) (m : Mbx) : List Nat :=
  (List.range 32).map (fun i => (sget 0 m.data i).toNat) ++ [s.seq] ++
    (List.range 64).flatMap (fun n =>
      let f := s.fw n
      let img := if f.active then f.slotB else f.slotA
      [f.vera, f.verb, if f.active then 1 else 0, f.minver, img.length] ++ img.flatMap (fun b => [b.1, b.2.toNat]))

/-- QUOTE (R422): each takes the next leaf of the key; after 2^20 there is none. -/
def execQuote (mbox : Nat) (s : State) : Out :=
  mailbox mbox 0x30 (fun m s =>
    if 2 ^ 20 ≤ s.leaf then s.says 5
    else
      let q := (List.range (Nat.min Config.quoteLen 4096)).map (Config.quoteByte (s.quoteReport m) s.leaf)
      ⟨0, none, some (cellsWrite m.data 12 0 q.length (ofBytes q)), { s with leaf := s.leaf + 1, seq := s.seq + 1 }⟩) s

/-- QUEUE_CREATE (R292). -/
def execQueueCreate (mbox : Nat) (s : State) : Out :=
  mailbox mbox 0x40 (fun m s =>
    if mbox = 0 then s.says 1
    else if 2 ^ 32 ≤ m.arg 0 ∨ m.arg 1 % 64 ≠ 0 ∨ (s.userQ (m.arg 0)).isSome then s.says 2
    else
      let q : UserQ := ⟨m.arg 0, mbox - 1, m.arg 1 % 2 ^ 60, none⟩
      ({ s with userQs := s.userQs ++ [q] }).did) s

/-- QUEUE_DESTROY (R424). -/
def execQueueDestroy (mbox : Nat) (s : State) : Out :=
  mailbox mbox 0x41 (fun m s =>
    match s.userQ (m.arg 0) with
    | none => s.says (if mbox = 0 then 1 else 2)
    | some q =>
      if mbox = 0 ∨ q.pen ≠ mbox - 1 then s.says 1
      else
        let s := match q.slot with
          | some k => s.unmapSlot k
          | none => s
        ({ s with userQs := s.userQs.filter (fun x => x.id != m.arg 0) }).did) s

/-- QUEUE_QUOTA (R292). -/
def execQueueQuota (mbox : Nat) (s : State) : Out :=
  mailbox mbox 0x42 (fun m s =>
    if mbox ≠ 0 then s.says 1
    else if 64 ≤ m.arg 0 ∨ 128 < m.arg 1 then s.says 2
    else (s.updPen (m.arg 0) (fun p => { p with uqQuota := m.arg 1 })).did) s

/-- A spill descriptor (R290, Table 8). -/
def spillOf (v : Nat) : Spill :=
  ⟨bits v 51 0 / 64 * 64, bits v 127 96, bits v 69 64, bits v 197 192, bits v 191 160, bits v 159 128⟩

/-- SPILL_SET (R290): kind 0 the request queue of a groom, kind 1 an engine queue. The descriptor is taken as it is given, its
counts and a quota above the ring included (assumption log 101). -/
def execSpillSet (mbox : Nat) (s : State) : Out :=
  mailbox mbox 0x50 (fun m s =>
    let u := m.arg 1
    let put (k : Nat) : Done := ({ s with spills := sput Spill.reset s.spills k (spillOf (cellsRead m.data 12 0 32)) }).did
    if mbox ≠ 0 then s.says 1
    else if m.arg 0 = 0 ∧ u < 32 then put (256 + u)
    else if m.arg 0 = 1 ∧ u < 132 then put u
    else s.says 2) s

end Sys2Proof.Machine
end

