-- ==== Sys2Proof/Machine/Scalar.lean ====
section
/-! DEFINITION. Scalar syllables: integer and bit-field operations, compares and predicates, scalar
floating arithmetic, system registers (chapter 05). -/

namespace Sys2Proof.Machine

/-- x[rd] := f(x[rs1], x[rs2]) under the guard (R121, R123). -/
def scalar2 (o : RROp) (f : Word → Word → Word) (lat : Nat) (s : State) : Out :=
  guarded o.g (fun s => s.putX o.rd (f (s.pre.x o.rs1) (s.pre.x o.rs2)) lat) s

/-- x[rd] := f(x[rs1]) under the guard (R125). -/
def scalar1 (o : RUnOp) (f : Word → Word) (s : State) : Out :=
  guarded o.g (fun s => s.putX o.rd (f (s.pre.x o.rs1)) 1) s

/-- x[rd] := f(x[rs1], imm10) under the guard (R122). -/
def scalarImm (o : RIOp) (f : Word → BitVec 10 → Word) (s : State) : Out :=
  guarded o.g (fun s => s.putX o.rd (f (s.pre.x o.rs1) o.imm) 1) s

/-! ### Multiply and divide (R120, R123) -/

def mulLow (a b : Word) : Word := a * b
def mulHigh (a b : Word) : Word := BitVec.ofInt 64 (a.toInt * b.toInt / (2 : Int) ^ 64)
def mulHighU (a b : Word) : Word := BitVec.ofNat 64 (a.toNat * b.toNat / 2 ^ 64)

/-- Signed quotient: toward zero, all ones for b = 0, and −2^63 / −1 = −2^63 (Table 4). -/
def divS (a b : Word) : Word := if b = 0 then BitVec.allOnes 64 else BitVec.ofInt 64 (a.toInt.tdiv b.toInt)
def divU (a b : Word) : Word := if b = 0 then BitVec.allOnes 64 else BitVec.ofNat 64 (a.toNat / b.toNat)
/-- Signed remainder: the sign of the dividend, a for b = 0 (Table 4). -/
def remS (a b : Word) : Word := if b = 0 then a else BitVec.ofInt 64 (a.toInt.tmod b.toInt)
def remU (a b : Word) : Word := if b = 0 then a else BitVec.ofNat 64 (a.toNat % b.toNat)

/-- Magnitudes of the quotients, whose significant bits give the time (R120); that those of a negative quotient are the bits of its
magnitude is the model's choice (assumption log 99). -/
def quotS (a b : Word) : Nat := (a.toInt.tdiv b.toInt).natAbs
def quotU (a b : Word) : Nat := a.toNat / b.toNat

/-- Cycles of a divide: 4 + q, or 4 for a zero divisor (R120). -/
def divCycles (q : Nat) : Nat := 4 + (if q = 0 then 0 else Nat.log2 q + 1)

/-- A divide starts when the context's divider is free; its result is available when it finishes
(R120). -/
def divide (o : RROp) (f : Word → Word → Word) (q : Word → Word → Nat) (s : State) : Out :=
  guarded o.g (fun s =>
    let a := s.pre.x o.rs1
    let b := s.pre.x o.rs2
    let now := s.now s.issue.ctx
    let done := Nat.max now s.cur.divFree + divCycles (if b = 0 then 0 else q a b)
    (s.updCur (fun c => { c with divFree := done })).putX o.rd (f a b) (done - now)) s

/-! ### Bit counts and bit fields (R124, R125) -/

def clz64 (a : Word) : Word := BitVec.ofNat 64 (if a = 0 then 64 else 63 - Nat.log2 a.toNat)
def ctz64 (a : Word) : Word :=
  BitVec.ofNat 64 (((List.range 64).find? (fun i => a.getLsbD i)).getD 64)
def popc64 (a : Word) : Word := BitVec.ofNat 64 ((List.range 64).filter (fun i => a.getLsbD i)).length

/-- Position and width that a field description gives (R124). -/
def fieldOf (d : Word) : Nat × Nat :=
  let pos := d.toNat % 64
  (pos, Nat.min (bits d.toNat 13 8 + 1) (64 - pos))

def fieldGet (a d : Word) : Word :=
  let (pos, w) := fieldOf d
  let v := a.toNat / 2 ^ pos % 2 ^ w
  if d.getLsbD 16 then BitVec.ofInt 64 (sextInt v w) else BitVec.ofNat 64 v

def fieldPut (old a d : Word) : Word :=
  let (pos, w) := fieldOf d
  let m : Word := BitVec.ofNat 64 ((2 ^ w - 1) * 2 ^ pos)
  (old &&& ~~~m) ||| ((a <<< pos) &&& m)

def execAdd (o : RROp) (s : State) : Out := scalar2 o (fun a b => a + b) 1 s
def execSub (o : RROp) (s : State) : Out := scalar2 o (fun a b => a - b) 1 s
def execAnd (o : RROp) (s : State) : Out := scalar2 o (fun a b => a &&& b) 1 s
def execOr (o : RROp) (s : State) : Out := scalar2 o (fun a b => a ||| b) 1 s
def execXor (o : RROp) (s : State) : Out := scalar2 o (fun a b => a ^^^ b) 1 s
def execAndn (o : RROp) (s : State) : Out := scalar2 o (fun a b => a &&& ~~~b) 1 s
def execShl (o : RROp) (s : State) : Out := scalar2 o (fun a b => a <<< (b.toNat % 64)) 1 s
def execShr (o : RROp) (s : State) : Out := scalar2 o (fun a b => a >>> (b.toNat % 64)) 1 s
def execSra (o : RROp) (s : State) : Out := scalar2 o (fun a b => a.sshiftRight (b.toNat % 64)) 1 s
def execRot (o : RROp) (s : State) : Out := scalar2 o (fun a b => a.rotateRight (b.toNat % 64)) 1 s
def execMin (o : RROp) (s : State) : Out := scalar2 o (fun a b => if a.slt b then a else b) 1 s
def execMax (o : RROp) (s : State) : Out := scalar2 o (fun a b => if a.slt b then b else a) 1 s
def execMinu (o : RROp) (s : State) : Out := scalar2 o (fun a b => if a < b then a else b) 1 s
def execMaxu (o : RROp) (s : State) : Out := scalar2 o (fun a b => if a < b then b else a) 1 s
def execMul (o : RROp) (s : State) : Out := scalar2 o mulLow 3 s
def execMulh (o : RROp) (s : State) : Out := scalar2 o mulHigh 3 s
def execMulhu (o : RROp) (s : State) : Out := scalar2 o mulHighU 3 s
def execDiv (o : RROp) (s : State) : Out := divide o divS quotS s
def execDivu (o : RROp) (s : State) : Out := divide o divU quotU s
def execRem (o : RROp) (s : State) : Out := divide o remS quotS s
def execRemu (o : RROp) (s : State) : Out := divide o remU quotU s

def execClz (o : RUnOp) (s : State) : Out := scalar1 o (fun a => clz64 a) s
def execCtz (o : RUnOp) (s : State) : Out := scalar1 o (fun a => ctz64 a) s
def execPopc (o : RUnOp) (s : State) : Out := scalar1 o (fun a => popc64 a) s
def execExtB (o : RUnOp) (s : State) : Out := scalar1 o (fun a => (a.setWidth 8).signExtend 64) s
def execExtH (o : RUnOp) (s : State) : Out := scalar1 o (fun a => (a.setWidth 16).signExtend 64) s
def execExtW (o : RUnOp) (s : State) : Out := scalar1 o (fun a => (a.setWidth 32).signExtend 64) s
def execExtBu (o : RUnOp) (s : State) : Out := scalar1 o (fun a => (a.setWidth 8).setWidth 64) s
def execExtHu (o : RUnOp) (s : State) : Out := scalar1 o (fun a => (a.setWidth 16).setWidth 64) s
def execExtWu (o : RUnOp) (s : State) : Out := scalar1 o (fun a => (a.setWidth 32).setWidth 64) s

def execBfx (o : RROp) (s : State) : Out := scalar2 o fieldGet 1 s

/-- `bfi` reads x[rd] before writing it (R125). -/
def execBfi (o : RROp) (s : State) : Out :=
  guarded o.g (fun s =>
    s.putX o.rd (fieldPut (s.pre.x o.rd) (s.pre.x o.rs1) (s.pre.x o.rs2)) 1) s

def execAddi (o : RIOp) (s : State) : Out := scalarImm o (fun a k => a + k.signExtend 64) s
def execAndi (o : RIOp) (s : State) : Out := scalarImm o (fun a k => a &&& k.signExtend 64) s
def execOri (o : RIOp) (s : State) : Out := scalarImm o (fun a k => a ||| k.signExtend 64) s
def execXori (o : RIOp) (s : State) : Out := scalarImm o (fun a k => a ^^^ k.signExtend 64) s
def execShli (o : RIOp) (s : State) : Out := scalarImm o (fun a k => a <<< (k.toNat % 64)) s
def execShri (o : RIOp) (s : State) : Out := scalarImm o (fun a k => a >>> (k.toNat % 64)) s
def execSrai (o : RIOp) (s : State) : Out := scalarImm o (fun a k => a.sshiftRight (k.toNat % 64)) s

/-- `sel` (R126). -/
def execSel (o : SelOp) (s : State) : Out :=
  guarded o.g (fun s => s.putX o.rd (if s.pre.p o.p then s.pre.x o.rs1 else s.pre.x o.rs2) 1) s

/-- `lui` (R127). -/
def execLui (o : RUOp) (s : State) : Out :=
  guarded o.g (fun s => s.putX o.rd ((s.pre.x o.rd <<< 16) ||| o.imm.setWidth 64) 1) s

/-- `addpc` (R128). -/
def execAddpc (o : RUOp) (s : State) : Out :=
  guarded o.g (fun s =>
    s.putX o.rd ((s.issue.pc + 16 * BitVec.ofInt 60 o.imm.toInt).setWidth 64) 1) s

/-! ### Compares and predicates (R129 to R133) -/

/-- The value of a predicate that a compare folds into: that of before the bundle, or, for two
accumulating writes, the one S has left (R118, R131). -/
def State.predIn (s : State) (acc : Bool) (i : BitVec 4) : Bool :=
  if acc && s.issue.accP.getLsbD i.toNat then s.cur.p i else s.pre.p i

/-- One predicate write, available after `lat` cycles, and no sooner than what it is folded into: an accumulating write of
the same bundle (R119, R131). -/
def State.putP (s : State) (acc : Bool) (lat : Nat) (i : BitVec 4) (v : Option Bool) : State :=
  match v with
  | none => s
  | some b =>
    let now := s.now s.issue.ctx
    let before := if acc && s.issue.accP.getLsbD i.toNat then sget 0 s.cur.sb (keyP i) - now else 0
    let s := s.updCur (fun c => (c.setP i b).avail (keyP i) now (Nat.max lat before))
    { s with issue := { s.issue with accP := setPred s.issue.accP i acc } }

/-- A compare with condition `c` writes its pair (R130): only `.gpair` writes under a false guard. -/
def comparePair (g : BitVec 4) (pair ct : BitVec 3) (c : State → Bool × Flags) (lat : Nat) (s : State) : Out :=
  let pa : BitVec 4 := BitVec.ofNat 4 (2 * pair.toNat)
  let pb : BitVec 4 := BitVec.ofNat 4 (2 * pair.toNat + 1)
  let acc := ctAccum ct.toNat
  if s.pre.p g then
    let (b, fl) := c s
    let w := combine ct.toNat b (s.predIn acc pa) (s.predIn acc pb)
    .next (((s.putP acc lat pa w.1).putP acc lat pb w.2).raise fl)
  else if ct = 1 then .next ((s.putP false lat pa (some false)).putP false lat pb (some false))
  else .next s

def execCmp (o : CmpOp) (s : State) : Out :=
  comparePair o.g o.pair o.ct
    (fun s => (icmpCond 64 o.cc.toNat (s.pre.x o.rs1).toNat (s.pre.x o.r).toNat, fNone)) 1 s

def execCmpi (o : CmpOp) (s : State) : Out :=
  comparePair o.g o.pair o.ct
    (fun s => (icmpCond 64 o.cc.toNat (s.pre.x o.rs1).toNat (o.r.signExtend 64).toNat, fNone)) 1 s

/-- `tbit` (R129). -/
def execTbit (o : TbitOp) (s : State) : Out :=
  comparePair o.g o.pair o.ct
    (fun s =>
      let n := if o.i = 1 then o.r.toNat else (s.pre.x o.r).toNat % 64
      ((s.pre.x o.rs1).getLsbD n == (o.c == 0), fNone)) 1 s

/-- `fcmp` compares the low 32 bits as FP32 (R129). -/
def execFcmp (o : CmpOp) (s : State) : Out :=
  comparePair o.g o.pair o.ct
    (fun s => fcmpCond o.cc.toNat (fmtF32.decode ((s.pre.x o.rs1).toNat % 2 ^ 32))
      (fmtF32.decode ((s.pre.x o.r).toNat % 2 ^ 32))) 2 s

def execPmov (o : PmovOp) (s : State) : Out :=
  guarded o.g (fun s => s.putP false 1 o.pd (some (s.pre.p o.ps))) s

def execPmovN (o : PmovOp) (s : State) : Out :=
  guarded o.g (fun s => s.putP false 1 o.pd (some (!s.pre.p o.ps))) s

/-- The predicate file as a number; bit 0 is 1 (R133). -/
def Ctx.predFile (c : Ctx) : BitVec 16 := c.ps ||| 1

def execPmovGet (o : PfOp) (s : State) : Out :=
  guarded o.g (fun s => s.putX o.r (s.pre.predFile.setWidth 64) 1) s

/-- `pmov.set` writes p1 to p15 (R133). -/
def Ctx.setPreds (c : Ctx) (v : BitVec 16) : Ctx :=
  { c with ps := (c.ps &&& 1) ||| (v &&& 0xFFFE), sb := c.sb.filter (fun k => k.1 < 65 || 79 < k.1) }

def execPmovSet (o : PfOp) (s : State) : Out :=
  guarded o.g (fun s =>
    let s := s.updCur (fun c => c.setPreds ((s.pre.x o.r).setWidth 16))
    { s with issue := { s.issue with accP := 0 } }) s

/-! ### Scalar floating arithmetic (R134, R135) -/

/-- An FP32 result goes zero-extended to x[rd], its events to the slot's group. -/
def scalarFloat (o : RROp) (f : Nat → Nat → Nat → Nat × Flags) (s : State) : Out :=
  guarded o.g (fun s =>
    let w (r : BitVec 6) : Nat := (s.pre.x r).toNat % 2 ^ 32
    let (v, fl) := f (w o.rs1) (w o.rs2) (w o.rd)
    (s.putX o.rd (BitVec.ofNat 64 v) 4).raise fl) s

def execFadd (o : RROp) (s : State) : Out := scalarFloat o (fun a b _ => f32Add a b) s
def execFmul (o : RROp) (s : State) : Out := scalarFloat o (fun a b _ => f32Mul a b) s
def execFfma (o : RROp) (s : State) : Out := scalarFloat o f32Fma s

/-- A pattern of a format code as it stands in a scalar register (R135). -/
def scalarOfPattern (fmt v : Nat) : Word :=
  match ifmtOf fmt with
  | some g => BitVec.ofInt 64 (g.value v)
  | none => BitVec.ofNat 64 v

/-- `fcvt` (R135): nearest even, no saturation. -/
def execFcvt (o : FcvtOp) (s : State) : Out :=
  guarded o.g (fun s =>
    let v := (s.pre.x o.rs1).toNat % 2 ^ elemBits o.src.toNat
    let (r, fl) := convert o.src.toNat o.dst.toNat false false v
    (s.putX o.rd (scalarOfPattern o.dst.toNat r) 4).raise fl) s

/-! ### System registers (R136 to R138) -/

/-- lcN (R97): rem in [63:32], idx in [31:0], zero beyond the depth. -/
def lcWord (l : List LoopEnt) (n : Nat) : Word :=
  match l[n]? with
  | some e => e.rem.setWidth 64 <<< 32 ||| e.idx.setWidth 64
  | none => 0

/-- The value of a system register of Table 7; indices outside it have been refused at decode. Bits [63:37] of a beat format
entry read as 0 (R5, Table 2 of R178), although `mtsr` has stored them for the check of R179. -/
def Ctx.sysRead (c : Ctx) (id cycle idx : Nat) : Word :=
  match idx with
  | 0x000 => c.wid
  | 0x001 => c.pen.setWidth 64
  | 0x002 => c.prio.setWidth 64
  | 0x003 => BitVec.ofNat 64 id
  | 0x004 => BitVec.ofNat 64 cycle
  | 0x008 => c.fpflags
  | 0x009 => c.fprec
  | 0x00A => c.mpc.setWidth 64
  | 0x00B => c.waitlim.setWidth 64
  | 0x030 => c.nextcid.setWidth 64
  | i =>
    if 0x010 ≤ i ∧ i ≤ 0x015 then lcWord c.loops (i - 0x010)
    else if 0x020 ≤ i ∧ i ≤ 0x027 then BitVec.ofNat 64 (bits (c.fmtEnt (BitVec.ofNat 3 (i - 0x020))).toNat 36 0)
    else 0

/-- A write under the access code of each field (R5, R136); read-only registers ignore it. Writes of `ctx.fpflags` and of
`ctx.fprec` act in slot order with the events of their bundle: what an earlier slot has recorded is cleared, and a later
slot's event is recorded (assumption log 34). -/
def Ctx.sysWrite (c : Ctx) (idx : Nat) (v : Word) : Ctx :=
  match idx with
  | 0x008 => { c with fpflags := c.fpflags &&& ~~~(v &&& 0xFFFFFFFFFF#64) }
  | 0x009 => if v.getLsbD 63 then { c with fprec := 0 } else c
  | 0x00A => { c with mpc := v.setWidth 60 }
  | 0x00B => { c with waitlim := v.setWidth 32 }
  | i =>
    if 0x020 ≤ i ∧ i ≤ 0x027 then { c with mft := sput 0 c.mft (i - 0x020) v } else c

def execMfsr (o : SrOp) (s : State) : Out :=
  guarded o.g (fun s =>
    s.putX o.rd (s.pre.sysRead s.issue.ctx (s.now s.issue.ctx) o.idx.toNat) 1) s

def execMtsr (o : SrOp) (s : State) : Out :=
  guarded o.g (fun s => s.updCur (fun c => c.sysWrite o.idx.toNat (s.pre.x o.rd))) s

end Sys2Proof.Machine
end

