-- ==== Sys2Proof/Machine/Seed.lean ====
section
/-! DEFINITION. Seed search and the attention state (R196 to R200, R343 to R350). A meaning here runs under a
true wide guard (R39). -/

namespace Sys2Proof.Machine

/-! ### Seed search (R196 to R200) -/

/-- The FP32 lanes of a vector. -/
def f32Lanes (v : Nat) : List FV := (List.range 64).map (fun i => fmtF32.decode (el 32 v i))

/-- The vector slot that issued is held for `n` cycles (R196). -/
def State.holdSlot (s : State) (n : Nat) : State :=
  let now := s.now s.issue.ctx
  let i := match s.issue.slot with
    | .va => 0 | .vb => 1 | .vc => 2 | _ => 3
  s.updCurCore (fun c => { c with vBusy := sput 0 c.vBusy i (if n ≤ 1 then 0 else now + n) })

/-- The exponent of R197. -/
def seedExp (l : List FV) : Int :=
  if l.any (fun x => x.isNan || x.isInf) then 15
  else match maxMag l with
    | .fin _ m e => if m = 0 then -16 else clampInt (floorLog2 m 1 + e - 5) (-16) 15
    | _ => 15

def execVseedexp (o : VOp) (s : State) : Out :=
  .next (s.withOperands [s.operand o.sa true] (fun vals s =>
    let e := seedExp (f32Lanes (vals.getD 0 0))
    s.putVec o.vd (packEl 32 (List.replicate 64 (wrapInt 32 e)), fNone) 6))

/-- A sum of 64 FP32 patterns by the tree (R85). -/
def tsum (l : List Nat) : Nat := ((treeUp sumNode 6 (l.map (fun v => (v, fNone)))).getD 0 (0, fNone)).1

/-- The coefficient that `fit` takes for one term (R198). -/
def fitCoef (res : List Nat) (us : List Int) : Int :=
  let num := tsum (List.zipWith (fun r u => (arith fmtF32 false false (mulFV (fmtF32.decode r) (intFV u))).1) res us)
  let den := us.foldl (fun a u => a + u * u) 0
  match fmtF32.decode num with
  | .nan => 0
  | .inf neg => if den = 0 then 0 else if neg then -8 else 7
  | .fin neg m e =>
    if den = 0 then 0
    else
      let (n, d) := scaleFrac m den.natAbs e
      let q : Int := ((roundNat false n d).1 : Nat)
      clampInt (if neg then -q else q) (-8) 7

/-- The terms of `fit` (R198): coefficients in order, and the residual left. -/
def fitGo : Nat → Nat → List Nat → List Int × List Nat
  | 0, _, res => ([], res)
  | p + 1, st, res =>
    let (us, st) := genDraws 64 st
    let q := fitCoef res us
    let res := List.zipWith (fun r u =>
      (arith fmtF32 false false (addFV (fmtF32.decode r) (intFV (-(q * u))))).1) res us
    let (qs, res) := fitGo p st res
    (q :: qs, res)

/-- `fit(A, e, seed, P)` of R198: the coefficients and rss. -/
def seedFit (a : List FV) (e : Int) (seed p : Nat) : List Int × Nat :=
  let res := a.map (fun x => (roundFV fmtF32 false false (scaleFV (-e) x)).1)
  let (qs, res) := fitGo p (genInit seed) res
  (qs, tsum (res.map (fun r => (f32Mul r r).1)))

/-- The exponent operand of both fits (R199). -/
def seedE (b : Nat) : Int := clampInt (sextInt (el 32 b 0) 32) (-16) 15

def execVseedscore (o : VOp) (s : State) : Out :=
  .next (s.withOperands [s.operand o.sa true, s.operand o.sb true, s.operand o.sc true] (fun vals s =>
    let a := f32Lanes (vals.getD 0 0)
    let e := seedE (vals.getD 1 0)
    let s0 := vals.getD 2 0 % 2 ^ 16
    let lane (i : Nat) : Nat :=
      let sd := (s0 + i) % 65536
      if sd = 0 then 0x7F800000 else (seedFit a e sd (o.k + 1)).2
    (s.putVec o.vd (packEl 32 ((List.range 64).map lane), fNone) 66).holdSlot 64))

/-- The record that `vseedfit` builds (R199, R73). -/
def seedRecord (seed p : Nat) (e : Int) (qs : List Int) : Nat :=
  seed + (p - 1) * 2 ^ 16 + wrapInt 5 e * 2 ^ 19 + packEl 4 (qs.map (wrapInt 4)) * 2 ^ 24

def execVseedfit (o : VOp) (s : State) : Out :=
  .next (s.withOperands [s.operand o.sa true, s.operand o.sb true, s.operand o.sc true] (fun vals s =>
    let e := seedE (vals.getD 1 0)
    let sd := vals.getD 2 0 % 2 ^ 16
    let p := o.k + 1
    let r := seedFit (f32Lanes (vals.getD 0 0)) e sd p
    let v := if sd = 0 then 0x7F800000 * 2 ^ 64 else seedRecord sd p e r.1 + r.2 * 2 ^ 64
    (s.putVec o.vd (v, fNone) 8).holdSlot 8))

/-- `vgen` (R200): the record is read and checked whatever the mask. -/
def execVgen (o : VOp) (s : State) : Out :=
  .next (s.withOperands [s.operand o.sa true] (fun vals s =>
    let r := vals.getD 0 0 % 2 ^ 64
    if !recOk r then s.fault .formatMismatch
    else
      let w := genExpand r o.f
      s.putVec o.vd (s.mergeV o (fun i => (w.getD i 0, fNone))) 6))

/-! ### Attention state (R343 to R350) -/

/-- The unset and initial exponent, minus infinity (Table 1 of R343). -/
def negInf : Nat := 0xFF800000

/-- ceil of a finite value (R346). -/
def ceilFV (neg : Bool) (m : Nat) (e : Int) : Int :=
  let (n, d) := scaleFrac m 1 e
  if neg then -((n / d : Nat) : Int) else (((n + d - 1) / d : Nat) : Int)

/-- The larger of two FP32 patterns, as `vfmax` (R150). -/
def f32Max (a b : Nat) : Nat := (fminmax fmtF32 false a b).1

/-- One row of the update form (R346): m, E, l and d from the old state and the row's active scores. -/
def smaxRow (m e l : Nat) (scores : List Nat) : (Nat × Nat × Nat × Nat) × Flags :=
  let k := scores.filter (fun v => v != negInf)
  if k.isEmpty then ((m, e, l, 0), fNone)
  else if k.any (fun v => (fmtF32.decode v).isNan) then ((0x7FC00000, e, l, 0), fInv)
  else if k.any (fun v => decide (v = 0x7F800000)) then ((0x7F800000, e, l, 0), fInv)
  else
    let bm := k.foldl f32Max negInf
    let m' := f32Max m bm
    match fmtF32.decode bm with
    | .fin neg bn be =>
      let t := ceilFV neg bn be
      let tp := (roundFV fmtF32 false false (intFV t)).1
      if e = negInf then ((m', tp, l, 0), fNone)
      else
        let diff := addFV (intFV t) (fmtF32.decode e).neg
        let big : Bool := match diff.1 with
          | .nan => false
          | d => cmpFV d (intFV 8) == .gt
        if big then ((m', tp, l, (arith fmtF32 false false (addFV (fmtF32.decode e) (intFV (-t)))).1), fNone)
        else ((m', e, l, 0), fNone)
    | _ => ((m', e, l, 0), fNone)

/-- The eight lanes of a row. -/
def rowLanes (r : Nat × Nat × Nat × Nat) : List Nat := [r.1, r.2.1, r.2.2.1, r.2.2.2, 0, 0, 0, 0]

def execVsmax (o : VOp) (s : State) : Out :=
  let mk := s.gmask o
  let any := anyActive mk 64 allEl
  .next (s.withOperands [s.operand o.sa true, s.operand o.sb any] (fun vals s =>
    let a := vals.getD 0 0
    let b := vals.getD 1 0
    let rows := (List.range 8).map (fun r =>
      smaxRow (el 32 a (8 * r)) (el 32 a (8 * r + 1)) (el 32 a (8 * r + 2))
        (((List.range 8).filter (fun c => mk.getLsbD (8 * r + c))).map (fun c => el 32 b (8 * r + c))))
    s.putVec o.vd (packEl 32 (rows.flatMap (fun r => rowLanes r.1)),
      rows.foldl (fun f r => f ||| r.2) fNone) 6))

def execVsmaxInit (o : VOp) (s : State) : Out :=
  .next (s.putVec o.vd
    (packEl 32 ((List.range 8).flatMap (fun _ => rowLanes (negInf, negInf, 0, 0))), fNone) 4)

/-- A value of each row spread over its lanes. -/
def spreadRows (f : Nat → Nat) : Nat := packEl 32 ((List.range 64).map (fun i => f (i / 8)))

/-- `.e` (R347): +infinity for an unset row. -/
def execVsmaxE (o : VOp) (s : State) : Out :=
  .next (s.withOperands [s.operand o.sa true] (fun vals s =>
    s.putVec o.vd (spreadRows (fun r =>
      let e := el 32 (vals.getD 0 0) (8 * r + 1)
      if e = negInf then 0x7F800000 else e), fNone) 4))

/-- 2^d for an FP32 d that is an integer (R347). -/
def pow2Int (neg : Bool) (m : Nat) (e : Int) : Option Int :=
  let (n, d) := scaleFrac m 1 e
  if n % d = 0 then some (if neg then -((n / d : Nat) : Int) else ((n / d : Nat) : Int)) else none

/-- 2^x in fixed point for the fraction x of a finite FP32 value, which has at most 149 bits, with the
value's floor. Used only for a d that is no integer (R347; assumption log 12). -/
def pow2Frac (neg : Bool) (m : Nat) (e : Int) : Nat × Int :=
  let fl := floorFV neg m e
  match addFV (.fin neg m e) (intFV (-fl)) with
  | (.fin _ fm fe, _) =>
    let (n, d) := scaleFrac (fm * 2 ^ 160) 1 fe
    (pow2Go 160 (n / d) (2 * fxOne) fxOne, fl)
  | _ => (fxOne, fl)

/-- A finite power clamped so that an exponent far outside every format stays small. -/
def boundExp (n : Int) : Int := clampInt n (-4096) 4096

/-- The factor 2^d as a value (R347): the power of an integer exactly. A d that is no integer stands for its
power with more bits than any rounding here keeps (assumption log 12). -/
def pow2FV (d : Nat) : FV :=
  match fmtF32.decode d with
  | .nan => .nan
  | .inf neg => if neg then .fin false 0 0 else .inf false
  | .fin neg m e =>
    match pow2Int neg m e with
    | some n => .fin false 1 (boundExp n)
    | none =>
      let (p, fl) := pow2Frac neg m e
      .fin false (2 * p + 1) (boundExp fl - fxP - 1)

/-- `.d` (R347). -/
def execVsmaxD (o : VOp) (s : State) : Out :=
  .next (s.withOperands [s.operand o.sa true] (fun vals s =>
    s.putVec o.vd (spreadRows (fun r =>
      (roundFV fmtF32 false false (pow2FV (el 32 (vals.getD 0 0) (8 * r + 3)))).1), fNone) 4))

/-- The l of a row (R348): rne(l × 2^d + S) with one rounding. -/
def massL (l d sum : Nat) : Nat × Flags :=
  arith fmtF32 false false (fmaFV (fmtF32.decode l) (pow2FV d) (fmtF32.decode sum))

/-- Adds a mass to the slot at a consumer cursor, or to its pending mass inside a region (R348, R349). -/
def State.addMass (s : State) (slot sum : Nat) : Nat × Flags × State :=
  let core := coreOf s.issue.ctx
  let t := s.tile core slot
  if s.cur.inRegion then
    let old := match t.pend with
      | some p => p.toNat
      | none => 0
    let (v, f) := f32Add old sum
    (v, f, s.updTile core slot (fun t => { t with pend := some (BitVec.ofNat 32 v) }))
  else
    let (v, f) := f32Add t.mass.toNat sum
    (v, f, s.updTile core slot (fun t => { t with mass := BitVec.ofNat 32 v }))

/-- The slot that `vmass` names, READY at the consumer cursor (R348). -/
def State.massSlot (s : State) (h : BitVec 4) : Option Nat :=
  let r := s.pre.ring h
  if r.n = 0 then none
  else match ringAt s.preTile r r.cc.toNat with
    | some (slot, _) => if (s.preTile slot).state = .ready then some slot else none
    | none => none

def execVmass (o : VOp) (s : State) : Out :=
  let mk := s.gmask o
  let any := anyActive mk 64 allEl
  .next (s.withOperands [s.operand o.sa true, s.operand o.sb any] (fun vals s =>
    let a := vals.getD 0 0
    let b := vals.getD 1 0
    let xs := (List.range 64).map (fun i =>
      (if mk.getLsbD i then el 32 b i else 0x80000000, fNone))
    let rows := treeUp sumNode 3 xs
    let total := (treeUp sumNode 3 rows).getD 0 (0, fNone)
    let slot := s.massSlot (BitVec.ofNat 4 o.c)
    if bit o.k 1 && slot.isNone then s.fault .ringMisuse
    else
      let ls := (List.range 8).map (fun r =>
        if bit o.k 0 then
          let w := massL (el 32 a (8 * r + 2)) (el 32 a (8 * r + 3)) (rows.getD r (0, fNone)).1
          ([el 32 a (8 * r), el 32 a (8 * r + 1), w.1, el 32 a (8 * r + 3), 0, 0, 0, 0], w.2)
        else ((List.range 8).map (fun c => el 32 a (8 * r + c)), fNone))
      let fl := ls.foldl (fun f r => f ||| r.2) total.2
      let s := s.putV o.vd (BitVec.ofNat 2048 (packEl 32 (ls.flatMap Prod.fst))) 6
      -- the events of the operation are one set, recorded in the order of kinds (R87)
      match bit o.k 1, slot with
      | true, some i =>
        let (_, f, s) := s.addMass i total.1
        s.raise (fl ||| f)
      | _, _ => s.raise fl))

/-- One element of `vsfin` (R350): divide-by-zero cannot arise, as a zero l gives +0. -/
def sfinEl (fmt : Nat) (sat : Bool) (o l : Nat) : Nat × Flags :=
  match fmtF32.decode l with
  | .fin _ 0 _ => (0, fNone)
  | x => divFV ((ffmtOf fmt).getD fmtF32) false sat (fmtF32.decode o) x

def execVsfin (o : VOp) (s : State) : Out :=
  let mk := s.gmask o
  let w := vw o
  let any := anyActive mk 64 allEl
  .next (s.withOperands [s.operand o.sa any, s.operand o.sb any] (fun vals s =>
    let old := (s.pre.v o.vd).toNat
    let r := mergeBy (fun i => mk.getLsbD i) (o.mm = 1) w 64 old (fun i =>
      sfinEl o.f (bit o.k 0) (el 32 (vals.getD 0 0) i) (el 32 (vals.getD 1 0) (8 * (i / 8) + 2)))
    s.putVec o.vd r 4))

end Sys2Proof.Machine
end

