-- ==== Sys2Proof/Machine/SfuSlot.lean ====
section
/-! DEFINITION. The SFU slot (R163 to R173). A meaning here runs under a true wide guard (R39), in a bundle
that found the unit free. -/

namespace Sys2Proof.Machine

/-- An operation of function code `fn` (R53, R168): the merge of R141 without zeroing, the unit occupied for
4 or 8 cycles and the result available after 12 or 16 (R163, R165). -/
def sfuOp (fn : Nat) (o : SfuOp) (s : State) : Out :=
  let fmt := o.fmt.toNat
  let f := (ffmtOf fmt).getD fmtF32
  let w := f.width
  let n := 2048 / w
  let m := s.pre.m o.mask
  .next (s.withOperands [s.operand o.sa (anyActive m n (fun _ => true))] (fun vals s =>
    let a := vals.getD 0 0
    let r := mergeBy (activeAt m n) false w n (s.pre.v o.vd).toNat (fun i => sfuElem fn f (el w a i))
    let busy := if fmt = 0 then 4 else 8
    let now := s.now s.issue.ctx
    let s := (s.updCurCore (fun c => { c with sfuFree := now + busy })).updCur (fun c => { c with sfuDue := now + 8 + busy })
    (s.putV o.vd (BitVec.ofNat 2048 r.1) (8 + busy)).raise r.2))

def execSfuExp2 (o : SfuOp) (s : State) : Out := sfuOp 1 o s
def execSfuLog2 (o : SfuOp) (s : State) : Out := sfuOp 2 o s
def execSfuRcp (o : SfuOp) (s : State) : Out := sfuOp 3 o s
def execSfuRsqrt (o : SfuOp) (s : State) : Out := sfuOp 4 o s
def execSfuSqrt (o : SfuOp) (s : State) : Out := sfuOp 5 o s
def execSfuSin (o : SfuOp) (s : State) : Out := sfuOp 6 o s
def execSfuCos (o : SfuOp) (s : State) : Out := sfuOp 7 o s
def execSfuTanh (o : SfuOp) (s : State) : Out := sfuOp 8 o s
def execSfuSigm (o : SfuOp) (s : State) : Out := sfuOp 9 o s
def execSfuSilu (o : SfuOp) (s : State) : Out := sfuOp 10 o s
def execSfuGelu (o : SfuOp) (s : State) : Out := sfuOp 11 o s
def execSfuErf (o : SfuOp) (s : State) : Out := sfuOp 12 o s
def execSfuSexp (o : SfuOp) (s : State) : Out := sfuOp 13 o s

end Sys2Proof.Machine
end

