-- ==== Sys2Proof/Machine/Tiles.lean ====
section
/-! DEFINITION. Tile table, ring and multicast-window syllables (R203 to R213). -/

namespace Sys2Proof.Machine

/-- A slot of the tile table that the issuing context owns (R94, R203). -/
def State.mine (s : State) (slot : Nat) : Bool := s.owns s.issue.ctx slot

/-- `tlook` (R208): the lowest owned slot with the tag, else the lowest owned EMPTY one. -/
def tileLook (rd : BitVec 6) (a : Word) (s : State) : State :=
  let tag := a.setWidth 48
  let own := (List.range 256).filter s.mine
  let hit := own.find? (fun i => (s.preTile i).state ≠ .empty && (s.preTile i).tag == tag)
  let v := match hit with
    | some i => i
    | none => 2 ^ 63 + (own.find? (fun i => decide ((s.preTile i).state = .empty))).getD 0x100
  s.putX rd (BitVec.ofNat 64 v) 2

def execTlook (o : RUnOp) (s : State) : Out := guarded o.g (fun s => tileLook o.rd (s.pre.x o.rs1) s) s

/-- `tset` and `tclr` refuse a slot that is being filled or drained, and a ring's slot inside a region. -/
def State.tileBusy (s : State) (slot : Nat) : Bool :=
  let t := s.preTile slot
  decide (t.state = .filling) || decide (t.state = .draining) ||
    (s.cur.inRegion && s.pre.ringSlots.contains slot)

/-- `tset` (R208). -/
def tileSet (a d : Word) (s : State) : State :=
  let slot := a.toNat % 256
  let v := d.toNat
  if !s.mine slot then s.fault .permission
  else if bits a.toNat 15 8 ≠ 0 ∨ bits v 63 36 ≠ 0 then s.fault .reservedField
  else if s.tileBusy slot then s.fault .ringMisuse
  else if bits v 25 13 = 0 ∨ groupLines (BitVec.ofNat 1 (bits v 26 26)) < bits v 12 0 + bits v 25 13 then
    s.fault .ringMisuse
  else if 12 < bits v 30 27 then s.fault .formatMismatch
  else if bits v 33 31 = 7 then s.fault .layoutMismatch
  else
    s.updTile (coreOf s.issue.ctx) slot (fun t => { t with
      persist := bit v 34, layout := BitVec.ofNat 3 (bits v 33 31), fmt := BitVec.ofNat 4 (bits v 30 27),
      group := BitVec.ofNat 1 (bits v 26 26), lines := BitVec.ofNat 13 (bits v 25 13),
      base := BitVec.ofNat 13 (bits v 12 0), tag := BitVec.ofNat 48 (bits a.toNat 63 16),
      state := if bit v 35 then .ready else .empty, faulted := false, fcode := 0, mass := 0,
      pend := none, stall := 0xFFFFFFFF, fill := none })

def execTset (o : Rs2Op) (s : State) : Out :=
  guarded o.g (fun s => tileSet (s.pre.x o.rs1) (s.pre.x o.rs2) s) s

/-- `tread` (R208). -/
def tileRead (rd : BitVec 6) (a k : Word) (s : State) : State :=
  let slot := a.toNat % 256
  if !s.mine slot then s.fault .permission
  else s.putX rd (BitVec.ofNat 64 ((s.preTile slot).word s.issue.ctx (k.toNat % 64))) 2

def execTread (o : RROp) (s : State) : Out :=
  guarded o.g (fun s => tileRead o.rd (s.pre.x o.rs1) (s.pre.x o.rs2) s) s

/-- `tclr` (R208): word 1 is kept. -/
def tileClear (a : Word) (s : State) : State :=
  let slot := a.toNat % 256
  if !s.mine slot then s.fault .permission
  else if s.tileBusy slot then s.fault .ringMisuse
  else s.updTile (coreOf s.issue.ctx) slot (fun t => { t with
    state := .empty, tag := 0, faulted := false, fcode := 0, mass := 0, pend := none,
    stall := 0xFFFFFFFF, fill := none })

def execTclr (o : JrOp) (s : State) : Out := guarded o.g (fun s => tileClear (s.pre.x o.rs1) s) s

/-- `rdef` (R212): n slots from f, cursors 0. -/
def ringDef (h : BitVec 4) (f n rsv : Nat) (s : State) : State :=
  let slots := (List.range n).map (f + ·)
  let others := (s.pre.rings.filter (fun kr => kr.1 != h.toNat)).flatMap (fun kr => kr.2.slots)
  if s.cur.inRegion then s.fault .ringMisuse
  else if rsv ≠ 0 then s.fault .reservedField
  else if n = 0 then s.updCur (fun c => c.setRing h Ring.none)
  else if 256 < f + n then s.fault .ringMisuse
  else if slots.any (fun i => !s.mine i) then s.fault .permission
  else if slots.any (fun i => others.contains i || (s.preTile i).lines == 0) then s.fault .ringMisuse
  else s.updCur (fun c => c.setRing h ⟨f, n, 0, 0⟩)

def execRdef (o : RdefOp) (s : State) : Out :=
  guarded o.g (fun s =>
    let d := (s.pre.x o.rs2).toNat
    ringDef o.h ((s.pre.x o.rs1).toNat % 256) (bits d 8 0) (bits d 63 9) s) s

/-- `radv` (R212): by 2 × count lines. -/
def ringConsume (h : BitVec 4) (count : Nat) (s : State) : State :=
  let r := s.pre.ring h
  let c := 2 * count
  if r.n = 0 ∨ r.fill < c then s.fault .ringMisuse
  else
    let gone := ringLeaves s.preTile r (r.n + c) r.cc.toNat c
    if s.notDone gone then s.fault .ringMisuse else s.moveConsumer h c

def execRadv (o : RadvOp) (s : State) : Out :=
  guarded o.g (fun s => ringConsume o.h ((s.pre.x o.rs1).toNat % 2 ^ 32) s) s

/-- `padv` (R212); leaving a DRAINING slot is an event that Table 3 of R205 does not list. -/
def ringProduce (h : BitVec 4) (count : Nat) (s : State) : State :=
  let r := s.pre.ring h
  let c := 2 * count
  if r.n = 0 ∨ ringLen s.preTile r < r.fill + c then s.fault .ringMisuse
  else
    let gone := ringLeaves s.preTile r (r.n + c) r.pc.toNat c
    if gone.any (fun i => decide ((s.preTile i).state = .draining)) then s.fault .ringMisuse
    else s.moveProducer h c

def execPadv (o : RadvOp) (s : State) : Out :=
  guarded o.g (fun s => ringProduce o.h ((s.pre.x o.rs1).toNat % 2 ^ 32) s) s

/-- `rcnt` (R212): fill level, and the slot at the consumer cursor. -/
def ringCount (rd : BitVec 6) (h : BitVec 4) (s : State) : State :=
  let r := s.pre.ring h
  if r.n = 0 then s.fault .ringMisuse
  else
    let slot := match ringAt s.preTile r r.cc.toNat with
      | some (i, _) => i
      | none => r.first
    s.putX rd (BitVec.ofNat 64 (r.fill + slot * 2 ^ 32)) 2

def execRcnt (o : RcntOp) (s : State) : Out := guarded o.g (ringCount o.rd o.h) s

/-- `mcwin` (R213). -/
def setWindow (a m : Word) (s : State) : State :=
  let v := a.toNat
  if bits v 7 0 ≠ 0 ∨ bits v 63 32 ≠ 0 ∨ bits m.toNat 63 16 ≠ 0 then s.fault .reservedField
  else if 2 ^ 20 < bits v 19 8 * 256 + bits v 31 20 * 256 then s.fault .permission
  else s.updCur (fun c => { c with mcbase := a, mcmask := m.setWidth 16 })

def execMcwin (o : Rs2Op) (s : State) : Out :=
  guarded o.g (fun s => setWindow (s.pre.x o.rs1) (s.pre.x o.rs2) s) s

end Sys2Proof.Machine
end

