-- ==== Sys2Proof/Machine/VMem.lean ====
section
/-! DEFINITION. Vector and mask accesses of majors 0x24 and 0x25, and the register moves (R158 to R162, R214). -/

namespace Sys2Proof.Machine

/-! ### Addresses (R159) -/

/-- Addresses of `vld` and `vst`. -/
def vldAddrs (o : RROp) (s : State) : List Nat := [(s.pre.x o.rs1 + s.pre.x o.rs2).toNat]

/-- Addresses of `vlds`: 16 chunks of 16 bytes at a signed stride. -/
def vldsAddrs (o : RROp) (s : State) : List Nat :=
  (List.range 16).map (fun c => (s.pre.x o.rs1 + BitVec.ofNat 64 c * s.pre.x o.rs2).toNat)

/-- Addresses of `vgather` and `vscatter`: 64 elements of 4 bytes. -/
def vgatherAddrs (o : RROp) (s : State) : List Nat :=
  (List.range 64).map (fun i =>
    (s.pre.x o.rs1 + BitVec.ofInt 64 (4 * sextInt (el 32 (s.pre.v o.rs2).toNat i) 32)).toNat)

/-- Address of `mld` and `mst`. -/
def mldAddrs (o : MMemOp) (s : State) : List Nat := [(s.pre.x o.rs1).toNat]

/-- Every address is a multiple of `n`, checked first (R159). -/
def aligned (n : Nat) (l : List Nat) (k : State → State) (s : State) : State :=
  match l.find? (fun a => a % n ≠ 0) with
  | some a => s.faultAt .misaligned (a % 2 ^ 60)
  | none => k s

/-! ### Device memory -/

/-- A load of `n`-byte pieces at aligned addresses. -/
def devLoad (n : Nat) (l : List Nat) (k : List Nat → Nat → State → State) (s : State) : State :=
  aligned n l (fun s => s.load false (l.map (fun a => (a % 2 ^ 60, n))) k) s

/-- A store of `n`-byte pieces at aligned addresses, in ascending element order (R160). -/
def devStore (n : Nat) (l : List Nat) (v : Nat) (s : State) : State :=
  aligned n l (fun s => s.store false 0 (l.mapIdx (fun i a => (a % 2 ^ 60, n, el (8 * n) v i)))) s

/-- Pieces of `n` bytes as one vector. -/
def joinPieces (n : Nat) (vs : List Nat) : VWord := BitVec.ofNat 2048 (packEl (8 * n) vs)

def execVldDevice (o : RROp) (s : State) : Out :=
  guarded o.g (fun s => devLoad 256 (vldAddrs o s) (fun vs lat s => s.putV o.rd (joinPieces 256 vs) lat) s) s
def execVldsDevice (o : RROp) (s : State) : Out :=
  guarded o.g (fun s => devLoad 16 (vldsAddrs o s) (fun vs lat s => s.putV o.rd (joinPieces 16 vs) lat) s) s
def execVgatherDevice (o : RROp) (s : State) : Out :=
  guarded o.g (fun s => devLoad 4 (vgatherAddrs o s) (fun vs lat s => s.putV o.rd (joinPieces 4 vs) lat) s) s
def execMldDevice (o : MMemOp) (s : State) : Out :=
  guarded o.g (fun s =>
    devLoad 8 (mldAddrs o s) (fun vs lat s => s.putM o.m (BitVec.ofNat 64 (vs.getD 0 0)) lat) s) s
def execVstDevice (o : RROp) (s : State) : Out :=
  guarded o.g (fun s => devStore 256 (vldAddrs o s) (s.pre.v o.rd).toNat s) s
def execVscatterDevice (o : RROp) (s : State) : Out :=
  guarded o.g (fun s => devStore 4 (vgatherAddrs o s) (s.pre.v o.rd).toNat s) s
def execMstDevice (o : MMemOp) (s : State) : Out :=
  guarded o.g (fun s => devStore 8 (mldAddrs o s) (s.pre.m o.m).toNat s) s

/-! ### Scratchpad (R158, R161) -/

/-- The alignment and range checks of a scratchpad form. -/
def inPad (n : Nat) (l : List Nat) (k : State → State) (s : State) : State :=
  aligned n l (fun s =>
    match l.find? (fun a => decide (2 ^ 20 ≤ a)) with
    | some a => s.faultAt .permission a
    | none => k s) s

/-- Puts a write on its way into a scratchpad. -/
def State.padWrite (s : State) (core due order a n v : Nat) : State :=
  s.updCore core (fun c => { c with writes := c.writes ++ [⟨due, order, a, n, v, none⟩] })

/-- Whether a multicast window is in force at an address (R213): base and length in 256-byte units. -/
def Ctx.inWindow (c : Ctx) (a : Nat) : Bool :=
  let b := c.mcbase.toNat
  let lo := bits b 19 8 * 256
  let len := bits b 31 20 * 256
  c.mcmask != 0 && decide (lo ≤ a) && decide (a < lo + len)

/-- A `vst` or `mst` to the scratchpad: at the end of its cycle, or in every target of the window in cycle
t + 6 (R158, R214). -/
def State.padStore (s : State) (a n v : Nat) : State :=
  let ctx := s.issue.ctx
  let now := s.now ctx
  if s.pre.inWindow a then
    ((List.range 16).filter (fun i => s.pre.mcmask.getLsbD i)).foldl (fun s i =>
      s.padWrite (clusterOf ctx * 16 + i) (now + 6) (1 + coreOf ctx % 16) a n v) s
  else s.padWrite (coreOf ctx) now 0 a n v

def execVldScratchpad (o : RROp) (s : State) : Out :=
  guarded o.g (fun s =>
    inPad 256 (vldAddrs o s) (fun s =>
      let a := (vldAddrs o s).getD 0 0
      if s.scattering (linesAt a 2) then s.stall
      else match addLines s.issue.lines (linesAt a 2) with
      | none => s.fault .bankConflict
      | some ls =>
        ({ s with issue := { s.issue with lines := ls } }).putV o.rd
          (BitVec.ofNat 2048 (s.curCore.spRead a 256)) 3) s) s

/-- The lines of a `vst` count among the bundle's (R202). -/
def execVstScratchpad (o : RROp) (s : State) : Out :=
  guarded o.g (fun s =>
    inPad 256 (vldAddrs o s) (fun s =>
      let a := (vldAddrs o s).getD 0 0
      match addLines s.issue.lines (linesAt a 2) with
      | none => s.fault .bankConflict
      | some ls =>
        ({ s with issue := { s.issue with lines := ls } }).padStore a 256 (s.pre.v o.rd).toNat) s) s

def execMldScratchpad (o : MMemOp) (s : State) : Out :=
  guarded o.g (fun s =>
    inPad 8 (mldAddrs o s) (fun s =>
      if s.scattering (linesAt ((mldAddrs o s).getD 0 0) 1) then s.stall
      else s.putM o.m (BitVec.ofNat 64 (s.curCore.spRead ((mldAddrs o s).getD 0 0) 8)) 3) s) s

def execMstScratchpad (o : MMemOp) (s : State) : Out :=
  guarded o.g (fun s =>
    inPad 8 (mldAddrs o s) (fun s => s.padStore ((mldAddrs o s).getD 0 0) 8 (s.pre.m o.m).toNat) s) s

/-! ### The gather port (R161) -/

/-- Cycles of the elements of one group of four, in ascending order from cycle `t`: one that falls in the bank of another of
its cycle is served in the next; `seen` are the lines of those of the cycle. -/
def groupCycles : Nat → List Nat → List Nat → List Nat
  | _, _, [] => []
  | t, seen, l :: r =>
    if seen.any (fun k => bankOf k == bankOf l) then (t + 1) :: groupCycles (t + 1) [l] r else t :: groupCycles t (l :: seen) r

/-- Cycle in which the port reaches each element, counted from issue (R161). -/
def portCycles : Nat → Nat → List Nat → List Nat
  | 0, _, _ => []
  | f + 1, t, l =>
    match l with
    | [] => []
    | _ =>
      let g := groupCycles t [] ((l.take 4).map (· / 128))
      g ++ portCycles f (g.foldl Nat.max t + 1) (l.drop 4)

/-- Cycles that an access of these elements holds the port. -/
def portTime (l : List Nat) : Nat := (portCycles 17 0 l).foldl Nat.max 0 + 1

/-- The port is held for the access (R161). -/
def State.holdPort (s : State) (n : Nat) : State :=
  let now := s.now s.issue.ctx
  s.updCurCore (fun c => { c with portFree := now + n })

/-- A `vlds` or `vgather` of the scratchpad: each element is read in the cycle in which the port reaches it (R161, R248), and
the register is available 3 cycles after the port is done (Table 1 of R143). -/
def portLoad (n : Nat) (l : List Nat) (rd : BitVec 6) (s : State) : State :=
  inPad n l (fun s =>
    let now := s.now s.issue.ctx
    let t := portTime l
    let cs := portCycles 17 0 l
    ((s.putV rd (s.cur.v rd) (t + 3)).updCur (fun c => { c with
      gath := c.gath ++ l.mapIdx (fun i a => ⟨now + cs.getD i 0, rd, i, a, n⟩) })).holdPort t) s

def execVldsScratchpad (o : RROp) (s : State) : Out :=
  guarded o.g (fun s => portLoad 16 (vldsAddrs o s) o.rd s) s
def execVgatherScratchpad (o : RROp) (s : State) : Out :=
  guarded o.g (fun s => portLoad 4 (vgatherAddrs o s) o.rd s) s

/-- `vscatter` (R161): each element is written in the cycle in which the port reaches it; a later bundle that reads a line of
them waits. -/
def execVscatterScratchpad (o : RROp) (s : State) : Out :=
  guarded o.g (fun s =>
    let l := vgatherAddrs o s
    inPad 4 l (fun s =>
      let v := (s.pre.v o.rd).toNat
      let now := s.now s.issue.ctx
      let core := coreOf s.issue.ctx
      let cs := portCycles 17 0 l
      let s := (List.range 64).foldl (fun s i =>
        s.padWrite core (now + cs.getD i 0) 0 (l.getD i 0) 4 (el 32 v i)) s
      (s.holdPort (portTime l)).updCurCore (fun c => { c with portAt := now, portLines := l.map (· / 128) })) s) s

/-! ### Register moves (R162) -/

def execVmvx (o : VMoveOp) (s : State) : Out :=
  guarded o.g (fun s =>
    s.putX o.rd (BitVec.ofNat 64 (el 64 (s.pre.v o.rs1).toNat ((s.pre.x o.rs2).toNat % 32))) 1) s

def execVmxv (o : VMoveOp) (s : State) : Out :=
  guarded o.g (fun s =>
    let old := (s.pre.v o.rd).toNat
    let k := (s.pre.x o.rs2).toNat % 32
    s.putV o.rd (BitVec.ofNat 2048 (packEl 64 ((List.range 32).map (fun i =>
      if i = k then (s.pre.x o.rs1).toNat else el 64 old i)))) 2) s

def execVbx (o : VMoveOp) (s : State) : Out :=
  guarded o.g (fun s =>
    s.putV o.rd (BitVec.ofNat 2048 (packEl 64 (List.replicate 32 (s.pre.x o.rs1).toNat))) 2) s

/-! ### Writes that land (R158, R184, R214) -/

/-- The writes of a core that `f` picks and whose cycle has ended land, in order. -/
def State.landWrites (s : State) (core : Nat) (f : SpWrite → Bool) : State :=
  let now := (s.cluster (clusterOfCore core)).cycle
  let go (w : SpWrite) : Bool := decide (w.due < now) && f w
  s.updCore core (fun c =>
    (c.writes.filter go).foldl Core.land { c with writes := c.writes.filter (fun w => !go w) })

/-- DRAIN_LANDS, and the other local writes of a core that are due: at the end of their cycle (R184, R158). -/
def execDrainLands (core : Nat) (s : State) : Out :=
  .next (s.landWrites core (fun w => w.order == 0))

/-- MULTICAST_ARRIVAL (R214): after the local writes of the cycle, in ascending source core. -/
def execMulticastArrival (cluster : Nat) (s : State) : Out :=
  .next ((List.range 16).foldl (fun s k =>
    (List.range 16).foldl (fun s src =>
      s.landWrites (cluster * 16 + k) (fun w => w.order == 1 + src)) s) s)

/-- The elements that the gather port reaches in the cycle that ends are read, before what lands at its end (R161). -/
def State.portStep (s : State) (ctx : Nat) : State :=
  let now := s.now ctx
  s.updCtx ctx (fun c => c.portRead (s.core (coreOf ctx)) (fun r => decide (r.due < now)))

/-- Scale loads whose time has come reach their registers, in order (R215). -/
def Ctx.landScl (c : Ctx) (now : Nat) : Ctx :=
  (c.scl.filter (fun l => decide (l.1 < now))).foldl (fun c l => c.setE (BitVec.ofNat 4 l.2.1) l.2.2)
    { c with scl := c.scl.filter (fun l => !decide (l.1 < now)) }

/-- SCALE_LOAD_COMPLETE (R215). -/
def execScaleLoadComplete (ctx : Nat) (s : State) : Out :=
  let now := s.now ctx
  .next (s.updCtx ctx (fun c => c.landScl now))

end Sys2Proof.Machine
end

