-- ==== Sys2Proof/Machine/Dispatch.lean ====
section
/-! DEFINITION. The dispatch: one arm for each constructor of `Instr`. -/

namespace Sys2Proof.Machine

def exec (i : Instr) (s : State) : Host.Outcome State Fault Refusal :=
  match i with
  | .region o => Sys2Proof.Machine.execRegion o s
  | .commit o => Sys2Proof.Machine.execCommit o s
  | .ret o => Sys2Proof.Machine.execRet o s
  | .lpop o => Sys2Proof.Machine.execLpop o s
  | .yield o => Sys2Proof.Machine.execYield o s
  | .jr o => Sys2Proof.Machine.execJr o s
  | .twait o => Sys2Proof.Machine.execTwait o s
  | .br o => Sys2Proof.Machine.execBr o s
  | .call o => Sys2Proof.Machine.execCall o s
  | .brX o => Sys2Proof.Machine.execBrX o s
  | .loop o => Sys2Proof.Machine.execLoop o s
  | .loopi o => Sys2Proof.Machine.execLoopi o s
  | .brv o => Sys2Proof.Machine.execBrv o s
  | .brvAny o => Sys2Proof.Machine.execBrvAny o s
  | .brvAll o => Sys2Proof.Machine.execBrvAll o s
  | .trap o => Sys2Proof.Machine.execTrap o s
  | .sys o => Sys2Proof.Machine.execSys o s
  | .add o => Sys2Proof.Machine.execAdd o s
  | .sub o => Sys2Proof.Machine.execSub o s
  | .and_ o => Sys2Proof.Machine.execAnd o s
  | .or_ o => Sys2Proof.Machine.execOr o s
  | .xor o => Sys2Proof.Machine.execXor o s
  | .andn o => Sys2Proof.Machine.execAndn o s
  | .shl o => Sys2Proof.Machine.execShl o s
  | .shr o => Sys2Proof.Machine.execShr o s
  | .sra o => Sys2Proof.Machine.execSra o s
  | .rot o => Sys2Proof.Machine.execRot o s
  | .min o => Sys2Proof.Machine.execMin o s
  | .max o => Sys2Proof.Machine.execMax o s
  | .minu o => Sys2Proof.Machine.execMinu o s
  | .maxu o => Sys2Proof.Machine.execMaxu o s
  | .mul o => Sys2Proof.Machine.execMul o s
  | .mulh o => Sys2Proof.Machine.execMulh o s
  | .mulhu o => Sys2Proof.Machine.execMulhu o s
  | .div o => Sys2Proof.Machine.execDiv o s
  | .divu o => Sys2Proof.Machine.execDivu o s
  | .rem o => Sys2Proof.Machine.execRem o s
  | .remu o => Sys2Proof.Machine.execRemu o s
  | .sel o => Sys2Proof.Machine.execSel o s
  | .clz o => Sys2Proof.Machine.execClz o s
  | .ctz o => Sys2Proof.Machine.execCtz o s
  | .popc o => Sys2Proof.Machine.execPopc o s
  | .extB o => Sys2Proof.Machine.execExtB o s
  | .extH o => Sys2Proof.Machine.execExtH o s
  | .extW o => Sys2Proof.Machine.execExtW o s
  | .extBu o => Sys2Proof.Machine.execExtBu o s
  | .extHu o => Sys2Proof.Machine.execExtHu o s
  | .extWu o => Sys2Proof.Machine.execExtWu o s
  | .bfx o => Sys2Proof.Machine.execBfx o s
  | .bfi o => Sys2Proof.Machine.execBfi o s
  | .addi o => Sys2Proof.Machine.execAddi o s
  | .andi o => Sys2Proof.Machine.execAndi o s
  | .ori o => Sys2Proof.Machine.execOri o s
  | .xori o => Sys2Proof.Machine.execXori o s
  | .shli o => Sys2Proof.Machine.execShli o s
  | .shri o => Sys2Proof.Machine.execShri o s
  | .srai o => Sys2Proof.Machine.execSrai o s
  | .lui o => Sys2Proof.Machine.execLui o s
  | .addpc o => Sys2Proof.Machine.execAddpc o s
  | .cmp o => Sys2Proof.Machine.execCmp o s
  | .cmpi o => Sys2Proof.Machine.execCmpi o s
  | .tbit o => Sys2Proof.Machine.execTbit o s
  | .fcmp o => Sys2Proof.Machine.execFcmp o s
  | .pmov o => Sys2Proof.Machine.execPmov o s
  | .pmovN o => Sys2Proof.Machine.execPmovN o s
  | .pmovGet o => Sys2Proof.Machine.execPmovGet o s
  | .pmovSet o => Sys2Proof.Machine.execPmovSet o s
  | .mfsr o => Sys2Proof.Machine.execMfsr o s
  | .mtsr o => Sys2Proof.Machine.execMtsr o s
  | .fadd o => Sys2Proof.Machine.execFadd o s
  | .fmul o => Sys2Proof.Machine.execFmul o s
  | .ffma o => Sys2Proof.Machine.execFfma o s
  | .fcvt o => Sys2Proof.Machine.execFcvt o s
  | .ld o => Sys2Proof.Machine.execLd o s
  | .ldAcq o => Sys2Proof.Machine.execLdAcq o s
  | .st o => Sys2Proof.Machine.execSt o s
  | .stRel o => Sys2Proof.Machine.execStRel o s
  | .vldDevice o => Sys2Proof.Machine.execVldDevice o s
  | .vldScratchpad o => Sys2Proof.Machine.execVldScratchpad o s
  | .vstDevice o => Sys2Proof.Machine.execVstDevice o s
  | .vstScratchpad o => Sys2Proof.Machine.execVstScratchpad o s
  | .vldsDevice o => Sys2Proof.Machine.execVldsDevice o s
  | .vldsScratchpad o => Sys2Proof.Machine.execVldsScratchpad o s
  | .vgatherDevice o => Sys2Proof.Machine.execVgatherDevice o s
  | .vgatherScratchpad o => Sys2Proof.Machine.execVgatherScratchpad o s
  | .vscatterDevice o => Sys2Proof.Machine.execVscatterDevice o s
  | .vscatterScratchpad o => Sys2Proof.Machine.execVscatterScratchpad o s
  | .vmvx o => Sys2Proof.Machine.execVmvx o s
  | .vmxv o => Sys2Proof.Machine.execVmxv o s
  | .vbx o => Sys2Proof.Machine.execVbx o s
  | .mldDevice o => Sys2Proof.Machine.execMldDevice o s
  | .mldScratchpad o => Sys2Proof.Machine.execMldScratchpad o s
  | .mstDevice o => Sys2Proof.Machine.execMstDevice o s
  | .mstScratchpad o => Sys2Proof.Machine.execMstScratchpad o s
  | .cfl o => Sys2Proof.Machine.execCfl o s
  | .cinv o => Sys2Proof.Machine.execCinv o s
  | .cpf o => Sys2Proof.Machine.execCpf o s
  | .cwb o => Sys2Proof.Machine.execCwb o s
  | .atom o => Sys2Proof.Machine.execAtom o s
  | .atomF o => Sys2Proof.Machine.execAtomF o s
  | .cas o => Sys2Proof.Machine.execCas o s
  | .fence o => Sys2Proof.Machine.execFence o s
  | .waita o => Sys2Proof.Machine.execWaita o s
  | .tlbshRange o => Sys2Proof.Machine.execTlbshRange o s
  | .tlbshPen o => Sys2Proof.Machine.execTlbshPen o s
  | .tlbshPenG o => Sys2Proof.Machine.execTlbshPenG o s
  | .tlook o => Sys2Proof.Machine.execTlook o s
  | .tset o => Sys2Proof.Machine.execTset o s
  | .tread o => Sys2Proof.Machine.execTread o s
  | .tclr o => Sys2Proof.Machine.execTclr o s
  | .rdef o => Sys2Proof.Machine.execRdef o s
  | .radv o => Sys2Proof.Machine.execRadv o s
  | .padv o => Sys2Proof.Machine.execPadv o s
  | .rcnt o => Sys2Proof.Machine.execRcnt o s
  | .mcwin o => Sys2Proof.Machine.execMcwin o s
  | .xfer o => Sys2Proof.Machine.execXfer o s
  | .xferQ1 o => Sys2Proof.Machine.execXferQ1 o s
  | .tmov o => Sys2Proof.Machine.execTmov o s
  | .conv o => Sys2Proof.Machine.execConv o s
  | .qfp8 o => Sys2Proof.Machine.execQfp8 o s
  | .qmx4 o => Sys2Proof.Machine.execQmx4 o s
  | .cmpr o => Sys2Proof.Machine.execCmpr o s
  | .expd o => Sys2Proof.Machine.execExpd o s
  | .csum o => Sys2Proof.Machine.execCsum o s
  | .kvres o => Sys2Proof.Machine.execKvres o s
  | .kvapp o => Sys2Proof.Machine.execKvapp o s
  | .kvfork o => Sys2Proof.Machine.execKvfork o s
  | .kvfree o => Sys2Proof.Machine.execKvfree o s
  | .kvcommit o => Sys2Proof.Machine.execKvcommit o s
  | .kvtrunc o => Sys2Proof.Machine.execKvtrunc o s
  | .kvq o => Sys2Proof.Machine.execKvq o s
  | .kvclass o => Sys2Proof.Machine.execKvclass o s
  | .kvatt o => Sys2Proof.Machine.execKvatt o s
  | .kvdemote o => Sys2Proof.Machine.execKvdemote o s
  | .kvpromote o => Sys2Proof.Machine.execKvpromote o s
  | .kvexport o => Sys2Proof.Machine.execKvexport o s
  | .kvimport o => Sys2Proof.Machine.execKvimport o s
  | .smpost o => Sys2Proof.Machine.execSmpost o s
  | .hctld o => Sys2Proof.Machine.execHctld o s
  | .qpush o => Sys2Proof.Machine.execQpush o s
  | .erd o => Sys2Proof.Machine.execErd o s
  | .ewr o => Sys2Proof.Machine.execEwr o s
  | .xwait o => Sys2Proof.Machine.execXwait o s
  | .xpoll o => Sys2Proof.Machine.execXpoll o s
  | .tget o => Sys2Proof.Machine.execTget o s
  | .publish o => Sys2Proof.Machine.execPublish o s
  | .barInitReg o => Sys2Proof.Machine.execBarInitReg o s
  | .barArrReg o => Sys2Proof.Machine.execBarArrReg o s
  | .barWaitReg o => Sys2Proof.Machine.execBarWaitReg o s
  | .barSyncReg o => Sys2Proof.Machine.execBarSyncReg o s
  | .barInitImm o => Sys2Proof.Machine.execBarInitImm o s
  | .barArrImm o => Sys2Proof.Machine.execBarArrImm o s
  | .barWaitImm o => Sys2Proof.Machine.execBarWaitImm o s
  | .barSyncImm o => Sys2Proof.Machine.execBarSyncImm o s
  | .pop o => Sys2Proof.Machine.execPop o s
  | .popTry o => Sys2Proof.Machine.execPopTry o s
  | .jraise o => Sys2Proof.Machine.execJraise o s
  | .texit o => Sys2Proof.Machine.execTexit o s
  | .push o => Sys2Proof.Machine.execPush o s
  | .mac o => Sys2Proof.Machine.execMac o s
  | .drain o => Sys2Proof.Machine.execDrain o s
  | .drainDiscard o => Sys2Proof.Machine.execDrainDiscard o s
  | .scl o => Sys2Proof.Machine.execScl o s
  | .sclTile o => Sys2Proof.Machine.execSclTile o s
  | .sfuExp2 o => Sys2Proof.Machine.execSfuExp2 o s
  | .sfuLog2 o => Sys2Proof.Machine.execSfuLog2 o s
  | .sfuRcp o => Sys2Proof.Machine.execSfuRcp o s
  | .sfuRsqrt o => Sys2Proof.Machine.execSfuRsqrt o s
  | .sfuSqrt o => Sys2Proof.Machine.execSfuSqrt o s
  | .sfuSin o => Sys2Proof.Machine.execSfuSin o s
  | .sfuCos o => Sys2Proof.Machine.execSfuCos o s
  | .sfuTanh o => Sys2Proof.Machine.execSfuTanh o s
  | .sfuSigm o => Sys2Proof.Machine.execSfuSigm o s
  | .sfuSilu o => Sys2Proof.Machine.execSfuSilu o s
  | .sfuGelu o => Sys2Proof.Machine.execSfuGelu o s
  | .sfuErf o => Sys2Proof.Machine.execSfuErf o s
  | .sfuSexp o => Sys2Proof.Machine.execSfuSexp o s
  | .vadd o => Sys2Proof.Machine.execVadd o s
  | .vsub o => Sys2Proof.Machine.execVsub o s
  | .vmul o => Sys2Proof.Machine.execVmul o s
  | .vmulh o => Sys2Proof.Machine.execVmulh o s
  | .vmin o => Sys2Proof.Machine.execVmin o s
  | .vmax o => Sys2Proof.Machine.execVmax o s
  | .vabs o => Sys2Proof.Machine.execVabs o s
  | .vand o => Sys2Proof.Machine.execVand o s
  | .vor o => Sys2Proof.Machine.execVor o s
  | .vxor o => Sys2Proof.Machine.execVxor o s
  | .vandn o => Sys2Proof.Machine.execVandn o s
  | .vshl o => Sys2Proof.Machine.execVshl o s
  | .vshr o => Sys2Proof.Machine.execVshr o s
  | .vsra o => Sys2Proof.Machine.execVsra o s
  | .vclz o => Sys2Proof.Machine.execVclz o s
  | .vpopc o => Sys2Proof.Machine.execVpopc o s
  | .vnarrow o => Sys2Proof.Machine.execVnarrow o s
  | .vwiden o => Sys2Proof.Machine.execVwiden o s
  | .vcmp o => Sys2Proof.Machine.execVcmp o s
  | .vsel o => Sys2Proof.Machine.execVsel o s
  | .vmov o => Sys2Proof.Machine.execVmov o s
  | .vimm o => Sys2Proof.Machine.execVimm o s
  | .vfadd o => Sys2Proof.Machine.execVfadd o s
  | .vfsub o => Sys2Proof.Machine.execVfsub o s
  | .vfmul o => Sys2Proof.Machine.execVfmul o s
  | .vfma o => Sys2Proof.Machine.execVfma o s
  | .vfms o => Sys2Proof.Machine.execVfms o s
  | .vfnma o => Sys2Proof.Machine.execVfnma o s
  | .vfmin o => Sys2Proof.Machine.execVfmin o s
  | .vfmax o => Sys2Proof.Machine.execVfmax o s
  | .vfabs o => Sys2Proof.Machine.execVfabs o s
  | .vfneg o => Sys2Proof.Machine.execVfneg o s
  | .vfcmp o => Sys2Proof.Machine.execVfcmp o s
  | .vfclass o => Sys2Proof.Machine.execVfclass o s
  | .vround o => Sys2Proof.Machine.execVround o s
  | .vcvt o => Sys2Proof.Machine.execVcvt o s
  | .vscale o => Sys2Proof.Machine.execVscale o s
  | .vbcast o => Sys2Proof.Machine.execVbcast o s
  | .vperm o => Sys2Proof.Machine.execVperm o s
  | .vslide o => Sys2Proof.Machine.execVslide o s
  | .vzip o => Sys2Proof.Machine.execVzip o s
  | .vunzip o => Sys2Proof.Machine.execVunzip o s
  | .vcompress o => Sys2Proof.Machine.execVcompress o s
  | .vexpand o => Sys2Proof.Machine.execVexpand o s
  | .viota o => Sys2Proof.Machine.execViota o s
  | .vredsum o => Sys2Proof.Machine.execVredsum o s
  | .vredmax o => Sys2Proof.Machine.execVredmax o s
  | .vredmin o => Sys2Proof.Machine.execVredmin o s
  | .vargmax o => Sys2Proof.Machine.execVargmax o s
  | .vargmin o => Sys2Proof.Machine.execVargmin o s
  | .vredand o => Sys2Proof.Machine.execVredand o s
  | .vredor o => Sys2Proof.Machine.execVredor o s
  | .mand o => Sys2Proof.Machine.execMand o s
  | .mor o => Sys2Proof.Machine.execMor o s
  | .mxor o => Sys2Proof.Machine.execMxor o s
  | .mnot o => Sys2Proof.Machine.execMnot o s
  | .mrange o => Sys2Proof.Machine.execMrange o s
  | .vsmax o => Sys2Proof.Machine.execVsmax o s
  | .vsmaxInit o => Sys2Proof.Machine.execVsmaxInit o s
  | .vsmaxE o => Sys2Proof.Machine.execVsmaxE o s
  | .vsmaxD o => Sys2Proof.Machine.execVsmaxD o s
  | .vmass o => Sys2Proof.Machine.execVmass o s
  | .vsfin o => Sys2Proof.Machine.execVsfin o s
  | .vseedexp o => Sys2Proof.Machine.execVseedexp o s
  | .vseedscore o => Sys2Proof.Machine.execVseedscore o s
  | .vseedfit o => Sys2Proof.Machine.execVseedfit o s
  | .vgen o => Sys2Proof.Machine.execVgen o s
  | .nop o => Sys2Proof.Machine.execNop o s
  | .lld o => Sys2Proof.Machine.execLld o s
  | .lbias o => Sys2Proof.Machine.execLbias o s
  | .lcnt o => Sys2Proof.Machine.execLcnt o s
  | .lpen o => Sys2Proof.Machine.execLpen o s
  | .ltemp o => Sys2Proof.Machine.execLtemp o s
  | .lmask o => Sys2Proof.Machine.execLmask o s
  | .lnoise o => Sys2Proof.Machine.execLnoise o s
  | .lamax o => Sys2Proof.Machine.execLamax o s
  | .lmerge o => Sys2Proof.Machine.execLmerge o s
  | .ladd o => Sys2Proof.Machine.execLadd o s
  | .lsub o => Sys2Proof.Machine.execLsub o s
  | .lmul o => Sys2Proof.Machine.execLmul o s
  | .lfma o => Sys2Proof.Machine.execLfma o s
  | .lmin o => Sys2Proof.Machine.execLmin o s
  | .lmax o => Sys2Proof.Machine.execLmax o s
  | .lsel o => Sys2Proof.Machine.execLsel o s
  | .lcmp o => Sys2Proof.Machine.execLcmp o s
  | .lcap o => Sys2Proof.Machine.execLcap o s
  | .limm o => Sys2Proof.Machine.execLimm o s
  | .lmov o => Sys2Proof.Machine.execLmov o s
  | .lacc o => Sys2Proof.Machine.execLacc o s
  | .lput o => Sys2Proof.Machine.execLput o s
  | .lbump o => Sys2Proof.Machine.execLbump o s
  | .lend o => Sys2Proof.Machine.execLend o s
  | .denialSoleIssue ctx => Sys2Proof.Machine.execDenialSoleIssue ctx s
  | .faultRecordHeldWrite pen => Sys2Proof.Machine.execFaultRecordHeldWrite pen s
  | .driverResume pen task xregs => Sys2Proof.Machine.execDriverResume pen task xregs s
  | .driverTerminate pen task => Sys2Proof.Machine.execDriverTerminate pen task s
  | .launch slot => Sys2Proof.Machine.execLaunch slot s
  | .attachedLaunch slot => Sys2Proof.Machine.execAttachedLaunch slot s
  | .graphLaunch slot => Sys2Proof.Machine.execGraphLaunch slot s
  | .graphNodeStep graph => Sys2Proof.Machine.execGraphNodeStep graph s
  | .taskPlacement core => Sys2Proof.Machine.execTaskPlacement core s
  | .preemption task => Sys2Proof.Machine.execPreemption task s
  | .taskRestart ctx => Sys2Proof.Machine.execTaskRestart ctx s
  | .jobSignalWrite job => Sys2Proof.Machine.execJobSignalWrite job s
  | .commandStart ctx cid => Sys2Proof.Machine.execCommandStart ctx cid s
  | .commandRetire ctx cid => Sys2Proof.Machine.execCommandRetire ctx cid s
  | .engineFillRetire ctx cid => Sys2Proof.Machine.execEngineFillRetire ctx cid s
  | .hctldWordArrival ctx cid => Sys2Proof.Machine.execHctldWordArrival ctx cid s
  | .transformOpRetire ctx cid => Sys2Proof.Machine.execTransformOpRetire ctx cid s
  | .publishFlip ctx cid => Sys2Proof.Machine.execPublishFlip ctx cid s
  | .drainLands core => Sys2Proof.Machine.execDrainLands core s
  | .multicastArrival cluster => Sys2Proof.Machine.execMulticastArrival cluster s
  | .scaleLoadComplete ctx => Sys2Proof.Machine.execScaleLoadComplete ctx s
  | .tlbshComplete ctx => Sys2Proof.Machine.execTlbshComplete ctx s
  | .cacheOpComplete ctx => Sys2Proof.Machine.execCacheOpComplete ctx s
  | .waitaWake ctx => Sys2Proof.Machine.execWaitaWake ctx s
  | .waitaMonitorLost cluster pa => Sys2Proof.Machine.execWaitaMonitorLost cluster pa s
  | .waitaTimeout ctx => Sys2Proof.Machine.execWaitaTimeout ctx s
  | .twaitWake ctx => Sys2Proof.Machine.execTwaitWake ctx s
  | .barrierOpAtHome core => Sys2Proof.Machine.execBarrierOpAtHome core s
  | .workQueueCycle queue hostPushes => Sys2Proof.Machine.execWorkQueueCycle queue hostPushes s
  | .queueSpillRefill queue => Sys2Proof.Machine.execQueueSpillRefill queue s
  | .notify pen slot value => Sys2Proof.Machine.execNotify pen slot value s
  | .userQueueMap queue slot => Sys2Proof.Machine.execUserQueueMap queue slot s
  | .userQueueUnmap slot => Sys2Proof.Machine.execUserQueueUnmap slot s
  | .kvattSlotFill ctx cid => Sys2Proof.Machine.execKvattSlotFill ctx cid s
  | .heatRefresh pool => Sys2Proof.Machine.execHeatRefresh pool s
  | .kvDecayPeriod pool => Sys2Proof.Machine.execKvDecayPeriod pool s
  | .deferredBlockRelease pool => Sys2Proof.Machine.execDeferredBlockRelease pool s
  | .droverPageMove die => Sys2Proof.Machine.execDroverPageMove die s
  | .kvNotNearService task => Sys2Proof.Machine.execKvNotNearService task s
  | .recall pool blocks deadline => Sys2Proof.Machine.execRecall pool blocks deadline s
  | .returnMsg pool blocks => Sys2Proof.Machine.execReturnMsg pool blocks s
  | .recallDeadline pool => Sys2Proof.Machine.execRecallDeadline pool s
  | .groomRequest cluster => Sys2Proof.Machine.execGroomRequest cluster s
  | .budgetPeriodBoundary slot => Sys2Proof.Machine.execBudgetPeriodBoundary slot s
  | .rfmIssue stack bank row => Sys2Proof.Machine.execRfmIssue stack bank row s
  | .rfmHoldEnd stack bank => Sys2Proof.Machine.execRfmHoldEnd stack bank s
  | .periodicRefresh stack bank row => Sys2Proof.Machine.execPeriodicRefresh stack bank row s
  | .flitReceived link flit => Sys2Proof.Machine.execFlitReceived link flit s
  | .replayRequest link seq => Sys2Proof.Machine.execReplayRequest link seq s
  | .linkDown link => Sys2Proof.Machine.execLinkDown link s
  | .inboundRequest rq => Sys2Proof.Machine.execInboundRequest rq s
  | .inboundRouteTimeout ctx => Sys2Proof.Machine.execInboundRouteTimeout ctx s
  | .remoteResponse ctx data => Sys2Proof.Machine.execRemoteResponse ctx data s
  | .uncorrectableError target pa => Sys2Proof.Machine.execUncorrectableError target pa s
  | .coldReset selfTestOk => Sys2Proof.Machine.execColdReset selfTestOk s
  | .updateBoundary inst record => Sys2Proof.Machine.execUpdateBoundary inst record s
  | .alivePost inst version => Sys2Proof.Machine.execAlivePost inst version s
  | .watchdogExpiry inst => Sys2Proof.Machine.execWatchdogExpiry inst s
  | .regRead mbox => Sys2Proof.Machine.execRegRead mbox s
  | .regWrite mbox => Sys2Proof.Machine.execRegWrite mbox s
  | .imageLoad mbox => Sys2Proof.Machine.execImageLoad mbox s
  | .imageVerify mbox => Sys2Proof.Machine.execImageVerify mbox s
  | .update mbox => Sys2Proof.Machine.execUpdate mbox s
  | .tfrange mbox => Sys2Proof.Machine.execTfrange mbox s
  | .tframeSet mbox => Sys2Proof.Machine.execTframeSet mbox s
  | .tframeClear mbox => Sys2Proof.Machine.execTframeClear mbox s
  | .quote mbox => Sys2Proof.Machine.execQuote mbox s
  | .queueCreate mbox => Sys2Proof.Machine.execQueueCreate mbox s
  | .queueDestroy mbox => Sys2Proof.Machine.execQueueDestroy mbox s
  | .queueQuota mbox => Sys2Proof.Machine.execQueueQuota mbox s
  | .spillSet mbox => Sys2Proof.Machine.execSpillSet mbox s
  | .registerWrite pen offset value => Sys2Proof.Machine.execRegisterWrite pen offset value s
  | .lendMessage pool blocks => Sys2Proof.Machine.execLendMessage pool blocks s

end Sys2Proof.Machine
end

