-- ==== Sys2Proof/Machine/Ready.lean ====
section
/-! DEFINITION. What a bundle waits for before it is ready (R113): the registers that each slot operation reads,
and the units and busy marks that its encoding names (R119, R120, R143, R161, R163, R184, R196, R230, R265). Readiness
follows the encoding, guards play no part in it. -/

namespace Sys2Proof.Machine

/-! ### Interlocked registers -/

/-- Marks of a register that is read; x0, p0 and m0 have none (R117, R139). -/
def kx (i : BitVec 6) : List Nat := if i = 0 then [] else [keyX i]
def kp (i : BitVec 4) : List Nat := if i = 0 then [] else [keyP i]
def km (i : BitVec 4) : List Nat := if i = 0 then [] else [keyM i]
def kv (i : BitVec 6) : List Nat := [keyV i]

/-- A vector source: a register, or a ring chunk, which waits by its slot's state (R144). -/
def ksrc (i : BitVec 7) : List Nat := if i.toNat < 64 then kv (i.setWidth 6) else []

/-- Register `i`, and the next for a 16-byte access (R27). -/
def kpair (size : BitVec 3) (i : BitVec 6) : List Nat := if size = 4 then kx i ++ kx (i + 1) else kx i

def kGop (o : GOp) : List Nat := kp o.g
def kJr (o : JrOp) : List Nat := kp o.g ++ kx o.rs1
def kRs2 (o : Rs2Op) : List Nat := kp o.g ++ kx o.rs1 ++ kx o.rs2
def kRR (o : RROp) : List Nat := kp o.g ++ kx o.rs1 ++ kx o.rs2
def kRUn (o : RUnOp) : List Nat := kp o.g ++ kx o.rs1
def kRI (o : RIOp) : List Nat := kp o.g ++ kx o.rs1
def kBr (o : BrOp) : List Nat := kp o.g
def kBrv (o : BrvOp) : List Nat := kp o.g ++ km o.m
def kBar (o : BarOp) : List Nat := kp o.g
def kEng (o : EngOp) : List Nat := kp o.g ++ kx o.rs1 ++ kx o.rs2
def kTrig (o : TrigOp) : List Nat := kp o.g ++ kx o.rs1 ++ kx o.rs2
def kCache (o : CacheOp) : List Nat := kp o.g ++ kx o.rs1 ++ kx o.rs2

/-- The predicates of a compare's pair that it reads: both for the accumulating types, the first for `.hist` (R130,
Table 6). -/
def kPreds (pair ct : BitVec 3) : List Nat :=
  if ct = 4 then kp (BitVec.ofNat 4 (2 * pair.toNat))
  else if 2 ≤ ct.toNat then
    kp (BitVec.ofNat 4 (2 * pair.toNat)) ++ kp (BitVec.ofNat 4 (2 * pair.toNat + 1)) else []

def kCmp (o : CmpOp) : List Nat := kp o.g ++ kPreds o.pair o.ct ++ kx o.rs1

/-- A vector slot that writes v[vd] under its mask, with its sources (R143). -/
def kV0 (o : VOp) : List Nat := kv o.vd ++ km o.mask
def kV1 (o : VOp) : List Nat := kV0 o ++ ksrc o.sa
def kV2 (o : VOp) : List Nat := kV1 o ++ ksrc o.sb
def kV3 (o : VOp) : List Nat := kV2 o ++ ksrc o.sc

/-- A vector compare writes a pair of masks (R148). -/
def kVCmp (o : VOp) : List Nat :=
  km (BitVec.ofNat 4 (2 * (o.d / 8))) ++ km (BitVec.ofNat 4 (2 * (o.d / 8) + 1)) ++ km o.mask ++
    ksrc o.sa ++ ksrc o.sb

/-- A mask operation (R157). -/
def kMask (o : VOp) (n : Nat) : List Nat :=
  km (BitVec.ofNat 4 o.d) ++ km o.mask ++ (if 1 ≤ n then km (BitVec.ofNat 4 o.a) else []) ++
    (if 2 ≤ n then km (BitVec.ofNat 4 o.b) else [])

def kSfu (o : SfuOp) : List Nat := kv o.vd ++ km o.mask ++ ksrc o.sa

/-- The registers of a vector access: `rd`, written or stored, and its address (R143, R159). -/
def kVmem (o : RROp) : List Nat := kp o.g ++ kv o.rd ++ kx o.rs1 ++ kx o.rs2
def kVidx (o : RROp) : List Nat := kp o.g ++ kv o.rd ++ kx o.rs1 ++ kv o.rs2
def kMmem (o : MMemOp) : List Nat := kp o.g ++ km o.m ++ kx o.rs1

/-- The marks that must be past before a slot operation may issue. -/
def sources (i : Instr) : List Nat :=
  match i with
  | .region o | .commit o | .lpop o | .yield o | .tlbshPen o | .tlbshPenG o | .texit o => kGop o
  | .ret o | .jr o | .tclr o | .barArrReg o | .barWaitReg o | .barSyncReg o | .jraise o => kJr o
  | .twait o | .tlbshRange o | .tset o | .mcwin o | .barInitReg o => kRs2 o
  | .br o | .call o => kBr o
  | .brX o => kp o.g
  | .loop o => kp o.g ++ kx o.rd
  | .loopi o => kp o.g
  | .brv o | .brvAny o | .brvAll o => kBrv o
  | .trap o => kp o.g
  | .sys o => kp o.g ++ (List.range 8).map (fun k => keyX (BitVec.ofNat 6 (k + 1)))
  | .add o | .sub o | .and_ o | .or_ o | .xor o | .andn o | .shl o | .shr o | .sra o | .rot o | .min o | .max o
  | .minu o | .maxu o | .mul o | .mulh o | .mulhu o | .div o | .divu o | .rem o | .remu o | .bfx o | .fadd o
  | .fmul o | .waita o | .tread o => kRR o
  | .bfi o | .ffma o => kRR o ++ kx o.rd
  | .pop o | .popTry o => kp o.g ++ kx o.rs1
  | .sel o => kp o.g ++ kp o.p ++ kx o.rs1 ++ kx o.rs2
  | .clz o | .ctz o | .popc o | .extB o | .extH o | .extW o | .extBu o | .extHu o | .extWu o | .tlook o | .xwait o
  | .xpoll o | .tget o => kRUn o
  | .addi o | .andi o | .ori o | .xori o | .shli o | .shri o | .srai o => kRI o
  | .lui o => kp o.g ++ kx o.rd
  | .addpc o => kp o.g
  | .cmp o | .fcmp o => kCmp o ++ kx o.r
  | .cmpi o => kCmp o
  | .tbit o => kp o.g ++ kPreds o.pair o.ct ++ kx o.rs1 ++ (if o.i = 1 then [] else kx o.r)
  | .pmov o | .pmovN o => kp o.g ++ kp o.ps
  | .pmovGet o => kp o.g ++ (List.range 15).map (fun k => keyP (BitVec.ofNat 4 (k + 1)))
  | .pmovSet o => kp o.g ++ kx o.r
  | .mfsr o | .erd o => kp o.g
  | .mtsr o | .ewr o => kp o.g ++ kx o.rd
  | .fcvt o => kp o.g ++ kx o.rs1
  | .ld o => kp o.g ++ kx o.rs1
  | .st o => kp o.g ++ kx o.rs1 ++ kpair o.size o.rd
  | .ldAcq o => kp o.g ++ kx o.rs1
  | .stRel o => kp o.g ++ kx o.rs1 ++ kpair o.size o.rd
  | .vldDevice o | .vldScratchpad o | .vstDevice o | .vstScratchpad o | .vldsDevice o | .vldsScratchpad o => kVmem o
  | .vgatherDevice o | .vgatherScratchpad o | .vscatterDevice o | .vscatterScratchpad o => kVidx o
  | .vmvx o => kp o.g ++ kv o.rs1 ++ kx o.rs2
  | .vmxv o => kp o.g ++ kv o.rd ++ kx o.rs1 ++ kx o.rs2
  | .vbx o => kp o.g ++ kv o.rd ++ kx o.rs1
  | .mldDevice o | .mldScratchpad o | .mstDevice o | .mstScratchpad o => kMmem o
  | .cfl o | .cinv o | .cpf o | .cwb o => kCache o
  | .atom o | .atomF o => kp o.g ++ kx o.rs1 ++ kx o.rd
  | .cas o => kp o.g ++ kx o.rs1 ++ kx o.rd ++ kx (o.rd + 1)
  | .fence o => kp o.g
  | .rdef o => kp o.g ++ kx o.rs1 ++ kx o.rs2
  | .radv o | .padv o => kp o.g ++ kx o.rs1
  | .rcnt o => kp o.g
  | .xfer o | .xferQ1 o | .kvres o | .kvapp o | .kvfork o | .kvfree o | .kvcommit o | .kvtrunc o | .kvq o | .kvclass o
  | .kvatt o | .kvdemote o | .kvpromote o | .kvexport o | .kvimport o | .smpost o | .hctld o | .qpush o => kEng o
  | .tmov o => kp o.g ++ kx o.rs1
  | .conv o | .qfp8 o | .qmx4 o | .cmpr o | .expd o | .csum o => kTrig o
  | .publish o => kp o.g ++ kx o.rs1
  | .barInitImm o => kp o.g ++ kx o.rs1
  | .barArrImm o | .barWaitImm o | .barSyncImm o => kBar o
  | .mac _ => [keyLatch]
  | .drain o => [keyA o.bank]
  | .drainDiscard o => [keyA o.bank]
  | .sfuExp2 o | .sfuLog2 o | .sfuRcp o | .sfuRsqrt o | .sfuSqrt o | .sfuSin o | .sfuCos o | .sfuTanh o | .sfuSigm o
  | .sfuSilu o | .sfuGelu o | .sfuErf o | .sfuSexp o => kSfu o
  | .vadd o | .vsub o | .vmul o | .vmulh o | .vmin o | .vmax o | .vand o | .vor o | .vxor o | .vandn o | .vshl o
  | .vshr o | .vsra o | .vnarrow o | .vsel o | .vfadd o | .vfsub o | .vfmul o | .vfmin o | .vfmax o | .vperm o
  | .vslide o | .vzip o | .vunzip o | .vsmax o | .vmass o | .vsfin o => kV2 o
  | .vabs o | .vclz o | .vpopc o | .vwiden o | .vmov o | .vfabs o | .vfneg o | .vfclass o | .vround o | .vcvt o
  | .vscale o | .vbcast o | .vcompress o | .vexpand o | .vredsum o | .vredmax o | .vredmin o | .vargmax o | .vargmin o
  | .vredand o | .vredor o | .vsmaxE o | .vsmaxD o | .vseedexp o | .vgen o => kV1 o
  | .vfma o | .vfms o | .vfnma o | .vseedscore o | .vseedfit o => kV3 o
  | .vimm o | .viota o | .vsmaxInit o => kV0 o
  | .vcmp o | .vfcmp o => kVCmp o
  | .mand o | .mor o | .mxor o => kMask o 2
  | .mnot o => kMask o 1
  | .mrange o => kMask o 0
  | _ => []

/-! ### Units and busy marks -/

/-- A divide or remainder (R120). -/
def isDivide (i : Instr) : Bool :=
  match i with
  | .div _ | .divu _ | .rem _ | .remu _ => true
  | _ => false

/-- A syllable that uses the gather port of the scratchpad (R161). -/
def usesPort (i : Instr) : Bool :=
  match i with
  | .vldsScratchpad _ | .vgatherScratchpad _ | .vscatterScratchpad _ => true
  | _ => false

/-- A syllable that reaches device memory (R265). -/
def reachesMemory (i : Instr) : Bool :=
  match i with
  | .ld _ | .st _ | .ldAcq _ | .stRel _ | .atom _ | .atomF _ | .cas _ | .waita _ | .vldDevice _ | .vstDevice _
  | .vldsDevice _ | .vgatherDevice _ | .vscatterDevice _ | .mldDevice _ | .mstDevice _ | .cfl _ | .cinv _ | .cpf _
  | .cwb _ | .fence _ | .twait _ | .xfer _ | .xferQ1 _ | .kvres _ | .kvapp _ | .kvfork _ | .kvfree _ | .kvcommit _
  | .kvtrunc _ | .kvq _ | .kvclass _ | .kvatt _ | .kvdemote _ | .kvpromote _ | .kvexport _ | .kvimport _ | .smpost _
  | .hctld _ | .qpush _ | .conv _ | .qfp8 _ | .qmx4 _ | .cmpr _ | .expd _ | .csum _ | .publish _ => true
  | _ => false

/-- The guard of a syllable that closes a region when it is true: `commit` and the instructions of R102. -/
def closesUnder (i : Instr) : Option (BitVec 4) :=
  match i with
  | .commit o | .texit o => some o.g
  | .atomF o | .cas o => some o.g
  | .pop o | .popTry o => some o.g
  | .barInitReg o => some o.g
  | .barInitImm o => some o.g
  | .barArrReg o | .barSyncReg o | .jraise o => some o.g
  | .barArrImm o | .barSyncImm o => some o.g
  | .trap o | .sys o => some o.g
  | _ => none

/-- The guard of `region`. -/
def opensUnder (i : Instr) : Option (BitVec 4) :=
  match i with
  | .region o => some o.g
  | _ => none

/-- An instruction that may end the context's task or stop it, and runs after the rest of its bundle: `trap`,
`sys` and `texit` (R106, R391). -/
def runsLast (i : Instr) : Bool :=
  match i with
  | .trap _ | .sys _ | .texit _ => true
  | _ => false

end Sys2Proof.Machine
end

