-- ==== Sys2Proof/Machine/Issue.lean ====
section
/-! DEFINITION. One bundle of one context: its fetch, its readiness, its slot operations as one event, and the
next pc (R8, R22, R23, R31 to R33, R39, R98, R99, R102, R113, R118). -/

namespace Sys2Proof.Machine

/-! ### Fetch -/

/-- A bundle as fetched, with its horizontal control word where H16 is valid. -/
structure Fetched where
  bundle : Bundle
  hcw : Hcw
  deriving DecidableEq, Repr

/-- One slot operation. -/
structure SlotOp where
  slot : Slot
  instr : Instr
  deriving DecidableEq, Repr

def slotOps (k : Slot) (i : Option Instr) : List SlotOp :=
  match i with
  | some i => [⟨k, i⟩]
  | none => []

/-- The operations of a horizontal control word. -/
def hcwOps (h : Hcw) : List SlotOp :=
  slotOps .va h.va ++ slotOps .vb h.vb ++ slotOps .vc h.vc ++ slotOps .vd h.vd ++ slotOps .sfu h.sfu ++ slotOps .sc h.sc

/-- What a fetch gives. -/
inductive Fetch where
  | bundle (f : Fetched)
  | wait (posts : List (Slot × Post))
  /-- A fault, with the slots that the encoding occupies, the wide guard, and the operations that decode (R23, R113). -/
  | fault (f : FaultInfo) (occ : List Slot) (guard : BitVec 4) (ops : List SlotOp)
  deriving DecidableEq, Repr

def Hcw.empty : Hcw := ⟨none, none, none, none, none, none⟩

/-- The code of a decode fault (R30). -/
def decCode : DecErr → Code
  | .illegalSyllable => .illegalSyllable
  | .illegalSlot => .illegalSlot
  | .reservedField => .reservedField

/-- The HCW that a valid H16 selects (R33): a loading entry makes the bundle wait, an unloaded one raises the code
recorded for it, or `HCT_INVALID`. -/
def hctFetch (c : Ctx) (i : Nat) : Except (Option FaultInfo) Hcw :=
  match c.hctAt i with
  | .loading => .error none
  | .unloaded code =>
    .error (some ⟨if code = 0 then .hctInvalid else Code.ofNum code, 0, .h16, none, none, false, 0, 0⟩)
  | .loaded w =>
    match decodeHcw w with
    | some h => .ok h
    | none => .error (some ⟨.hctInvalid, 0, .h16, none, none, false, 0, 0⟩)

/-- A syllable that decodes, in a bundle that does not. -/
def syllableOf (k : Slot) (w : Nat) : Option Instr :=
  match decodeSyllable k w with
  | .ok i => i
  | .error _ => none

/-- A beat that decodes, in a bundle that does not. -/
def beatOf (w : Nat) : Option Instr :=
  match decodeBeat w with
  | .ok i => i
  | .error _ => none

/-- A bundle that faults in decode: its fault, with what its encoding occupies and reads (R23, R113). -/
def faultyBundle (c : Ctx) (b : Nat) (f : FaultInfo) : Fetch :=
  let h : List SlotOp := if bit b 111 then
      match hctFetch c (bits b 110 102) with
      | .ok h => hcwOps h
      | .error _ => []
    else []
  let occ := (if bits b 31 4 = 0 then [] else [Slot.c]) ++ (if bits b 63 36 = 0 then [] else [.s]) ++
    (if bits b 95 68 = 0 then [] else [.e]) ++ h.map SlotOp.slot ++ (if bits b 127 126 = 0 then [] else [.x])
  .fault f occ (BitVec.ofNat 4 (bits b 101 98))
    (slotOps .c (syllableOf .c (bits b 31 0)) ++ slotOps .s (syllableOf .s (bits b 63 32)) ++
      slotOps .e (syllableOf .e (bits b 95 64)) ++ h ++ slotOps .x (beatOf (bits b 127 112)))

/-- The decode of a bundle's bits, and of the HCW it selects. -/
def decodeFetched (c : Ctx) (b : Nat) : Fetch :=
  match decodeBundle b with
  | .error (k, e) =>
    let f : Fetch := faultyBundle c b ⟨decCode e, 0, k, none, none, false, 0, 0⟩
    -- an entry that is loading makes the bundle wait, whatever else it holds (R113); a fault of H16, with the entry that it
    -- selects, comes before one of X16 (R31, R33)
    if bit b 111 then
      match hctFetch c (bits b 110 102) with
      | .ok _ => f
      | .error none => .wait []
      | .error (some g) => if k = .x then faultyBundle c b g else f
    else f
  | .ok bundle =>
    match bundle.hct with
    | none => .bundle ⟨bundle, Hcw.empty⟩
    | some i =>
      match hctFetch c i with
      | .ok h => .bundle ⟨bundle, h⟩
      | .error none => .wait []
      | .error (some f) => faultyBundle c b f

/-- A fault of the fetch itself: source 9, at the address that could not be fetched (R231). -/
def fetchFault (code : Code) (pc : Nat) : FaultInfo := ⟨code, pc, .c, some 9, none, false, 0, 0⟩

/-- Fetches the bundle at the context's pc with its execute permission (R222), through the L2 of its cluster (assumption
log 74). -/
def State.fetch (s : State) (ctx : Nat) : Fetch × State :=
  let c := s.ctx ctx
  let pc := c.pc.toNat
  let (r, s) := s.xlate (s.coreAccess ctx false false true) pc
  match r with
  | .error c => (.fault (fetchFault c pc) [] 0 [], s)
  | .ok t =>
    if s.elsewhere t.pa then
      match s.need none 0 0 [(pc, t, 16)] with
      | .wait => (.wait [], s)
      | .post r => (.wait [(.c, .remote r)], s)
      | .fail c _ => (.fault (fetchFault c pc) [] 0 [], s)
      | .none => (decodeFetched c (match s.remoteOf t.pa 16 none 0 0 with
          | some m => m.ans.getD 0
          | none => 0), s)
    else
      (decodeFetched c (s.physRead t.pa 16),
        (s.touchL2 (clusterOf ctx) c.pen.toNat t.cpol t.evp (s.home t.pa) 16).2)

/-! ### The operations of a bundle -/

/-- The occupied slots with their operations, in the order in which their writes land (R23, R118). -/
def Fetched.ops (f : Fetched) : List SlotOp :=
  slotOps .c f.bundle.c ++ slotOps .s f.bundle.s ++ slotOps .e f.bundle.e ++ hcwOps f.hcw ++ slotOps .x f.bundle.beat

/-- A slot that the wide guard governs (R39). -/
def isWide : Slot → Bool
  | .c | .s | .e => false
  | _ => true

/-- The operations that act: those of the horizontal word and X16 only under a true wide guard (R39). -/
def Fetched.active (f : Fetched) (c : Ctx) : List SlotOp :=
  f.ops.filter (fun o => !isWide o.slot || c.p f.bundle.guard)

/-! ### Readiness (R113) -/

/-- How ready a bundle is; one that waits only for the SFU keeps its denial count (R164). -/
inductive Readiness where
  | ready | onlySfu | no
  deriving DecidableEq, Repr

/-- The marks are past. -/
def marksPast (c : Ctx) (now : Nat) (l : List Nat) : Bool := l.all (fun k => decide (sget 0 c.sb k ≤ now))

/-- Every register that a bundle reads is available, and so are the units of its encoding but for the SFU. -/
def opsReady (c : Ctx) (core : Core) (now : Nat) (guard : BitVec 4) (ops : List SlotOp) : Bool :=
  (!ops.any (fun o => isWide o.slot) || marksPast c now (kp guard)) &&
  ops.all (fun o =>
    marksPast c now (sources o.instr) &&
    (!isDivide o.instr || decide (c.divFree ≤ now)) &&
    (!usesPort o.instr || decide (core.portFree ≤ now)) &&
    ((!c.cacheBusy && c.fence == 0) || !reachesMemory o.instr) &&
    (match o.slot with
      | .va => decide (sget 0 core.vBusy 0 ≤ now)
      | .vb => decide (sget 0 core.vBusy 1 ≤ now)
      | .vc => decide (sget 0 core.vBusy 2 ≤ now)
      | .vd => decide (sget 0 core.vBusy 3 ≤ now)
      | _ => true))

/-- The same of a bundle that decodes. -/
def operandsReady (c : Ctx) (core : Core) (now : Nat) (f : Fetched) : Bool := opsReady c core now f.bundle.guard f.ops

/-- A bundle that holds an SFU operation while the unit is busy (R163). -/
def sfuWait (core : Core) (now : Nat) (l : List SlotOp) : Bool :=
  l.any (fun o => decide (o.slot = .sfu)) && decide (now < core.sfuFree)

/-! ### Running the operations -/

/-- What an operation of a bundle left. -/
structure OpEnd where
  slot : Slot
  status : BStat
  post : Option Post
  deriving DecidableEq, Repr

/-- The lines that a `vscatter` of an earlier cycle writes, while it holds the port (R161). -/
def Core.scatterLines (k : Core) (now : Nat) : List Nat := if k.portAt < now ∧ now < k.portFree then k.portLines else []

/-- The issue record at the start of a bundle. -/
def State.begin (s : State) (ctx : Nat) : State :=
  let k := s.core (coreOf ctx)
  { s with issue := { Issue.none with
      ctx := ctx, pc := (s.ctx ctx).pc, pre := s.ctx ctx, preTiles := k.tiles, portLines := k.scatterLines (s.now ctx) } }

/-- One operation by its own meaning: its effect joins the bundle's where it neither waits nor faults. -/
def runOp (o : SlotOp) (s : State) : OpEnd × State :=
  match exec o.instr { s with issue := { s.issue with slot := o.slot, status := .ok, post := none } } with
  | .next t =>
    match t.issue.status with
    | .ok => (⟨o.slot, .ok, none⟩, t)
    | st => (⟨o.slot, st, t.issue.post⟩, s)
  | _ => (⟨o.slot, .ok, none⟩, s)

/-- The operations of a bundle in order. -/
def runOps : List SlotOp → State → List OpEnd × State
  | [], s => ([], s)
  | o :: r, s =>
    let (e, s) := runOp o s
    let (es, s) := runOps r s
    (e :: es, s)

/-- A region-closing instruction under a true guard releases the open region before the bundle acts (R99, R102). -/
def closing (c : Ctx) (l : List SlotOp) : Bool :=
  l.any (fun o => match closesUnder o.instr with
    | some g => c.p g
    | none => false)

/-- `region` under a true guard. -/
def opening (c : Ctx) (l : List SlotOp) : Bool :=
  l.any (fun o => match opensUnder o.instr with
    | some g => c.p g
    | none => false)

/-! ### The next pc (R98) -/

/-- The loop-end test: the next pc and the stack that it leaves. -/
def loopEnd (pc : BitVec 60) : List LoopEnt → BitVec 60 × List LoopEnt
  | [] => (pc + 16, [])
  | e :: r =>
    if e.fin = pc then
      if 1 < e.rem.toNat then (e.start, { e with rem := e.rem - 1, idx := e.idx + 1 } :: r) else loopEnd pc r
    else (pc + 16, e :: r)

/-- A bundle that has issued moves its context on; what it was answered while it waited is used up. -/
def State.advance (s : State) : State :=
  let pc := s.issue.pc
  let branch := s.issue.branch
  s.updCur (fun c =>
    let n := match branch with
      | some t => (t, c.loops)
      | none => loopEnd pc c.loops
    { c with pc := n.1, loops := n.2, ans := Ans.none, remote := [] })

/-! ### What a waiting bundle leaves -/

/-- Arms the monitor of a `waita` (R258): a 33rd tag of a slice evicts the oldest. -/
def State.armMon (s : State) (m : Mon) : State :=
  let cl := clusterOf m.ctx
  let old := (s.cluster cl).mons.filter (fun k => k.slice == m.slice)
  let tags := (old.map Mon.line).dedup
  let s := if tags.contains m.line || decide (tags.length < 32) then s
    else match old with
      | k :: _ => s.loseMons cl (old.filter (fun x => x.line == k.line))
      | [] => s
  s.updCluster cl (fun c => { c with mons := c.mons ++ [m] })

/-- A context parks (R95). -/
def State.parkCtx (s : State) (ctx : Nat) (p : Park) : State :=
  if (s.ctx ctx).st ≠ .ready then s
  else
    let s := match p with
      | .waita _ slice line _ _ => s.armMon ⟨slice, line, ctx⟩
      | _ => s
    s.updCtx ctx (fun c => { c with st := .parked p })

/-- A `waita` reads its word again as it parks, so that the read and the arming are one event (R257, R258): a word that has
changed, or that a budget holds (R396), leaves the bundle to issue again. The core keeps no older copy of the line (R240). -/
def State.awaitCtx (s : State) (ctx : Nat) (p : Park) (pa want cpol evp : Nat) : State :=
  match s.metered 0 0 true 0 (fun s => ((), (s.touchL2 (clusterOf ctx) (s.ctx ctx).pen.toNat cpol evp pa 8).2)) with
  | (.error _, s) => s
  | (.ok _, s) =>
    if forward (s.ctx ctx).sbuf pa 8 (s.physRead pa 8) = want then
      (s.updCore (coreOf ctx) (fun c => { c with l1 := c.l1.filter (fun l => l.pa != pa / 128 * 128) })).parkCtx ctx p
    else s

/-- A remote access leaves once (R402, R406). -/
def State.sendRemote (s : State) (ctx : Nat) (r : Remote) : State :=
  if (s.ctx ctx).remote.any (fun m => m.pa == r.pa && m.n == r.n && m.op == r.op && m.a == r.a && m.c == r.c) then s
  else
    let dst := pkgOf r.pa
    let m : Outbound := match r.op with
      | none => .load ctx dst r.pa r.n
      | some k => .atomic ctx dst r.pa k r.n r.a r.c
    { (s.updCtx ctx (fun c => { c with remote := c.remote ++ [r] })) with outbox := s.outbox ++ [m] }

/-- What a slot of a bundle that is not ready leaves behind. -/
def State.applyPost (s : State) (ctx : Nat) (p : Slot × Post) : State :=
  match p.2 with
  | .park k => s.parkCtx ctx k
  | .bar op b c => s.sendBar ctx p.1 op b c
  | .pop q =>
    let w := s.queue q
    if w.waiters.contains ctx then s else s.setQueue q { w with waiters := w.waiters ++ [ctx] }
  | .remote l => l.foldl (fun s r => s.sendRemote ctx r) s
  | .hold l =>
    let (n, s) := State.pay 0 0 true l 0 s
    s.updCtx ctx (fun c => { c with paid := c.paid + n })
  | .await k pa want cpol evp => s.awaitCtx ctx k pa want cpol evp
  | .order => s
  | .release => s.releaseRegion ctx

/-- Requests leave in this order, one rank at a time: those with no effect elsewhere; the atomics of other packages; those
to a barrier's home. So a bundle that an answer makes fault has done nothing that a later answer would show (R8). -/
def Post.rank : Post → Nat
  | .bar _ _ _ => 2
  | .remote l => if l.any (fun r => r.op.isSome) then 1 else 0
  | _ => 0

/-! ### The bundle as one event -/

/-- What a context offers in a cycle: the slots its bundle occupies, the scratchpad lines it reads, and what comes
of it: it waits, leaving requests, or it issues with the state after it, a fault included. -/
structure Offer where
  ready : Readiness
  occ : List Slot
  lines : List Nat
  posts : List (Slot × Post)
  after : State
  deriving DecidableEq, Repr

/-- An offer that is not ready. -/
def Offer.waits (posts : List (Slot × Post)) (s : State) : Offer := ⟨.no, [], [], posts, s⟩

/-- The first fault of a bundle in the order of its slots. -/
def firstFault : List OpEnd → Option FaultInfo
  | [] => none
  | e :: r =>
    match e.status with
    | .fault f => some f
    | _ => firstFault r

/-- The requests of the operations that wait which leave now: those of the lowest rank. -/
def waitPosts (l : List OpEnd) : List (Slot × Post) :=
  let all := l.filterMap (fun e => e.post.map (fun p => (e.slot, p)))
  all.filter (fun p => all.all (fun q => decide (p.2.rank ≤ q.2.rank)))

/-- The operations of a ready bundle (R8, R118): all of them take effect, or none. An operand that is not available makes
the bundle not ready; else the first fault is taken, after a true `region` of the bundle has opened the new region; an
operation that waits for another unit then leaves its request. The region that a closing instruction ends stays open
meanwhile, so that a fault aborts it (R102); it is released only where an operation waits for what it holds to perform
(assumption logs 24, 91). -/
def State.attempt (s : State) (l act : List SlotOp) (b : State) : Offer :=
  let occ := l.map SlotOp.slot
  let c := b.issue.pre
  let ctx := b.issue.ctx
  let ends := closing c act || opening c act
  let start := if closing c act then b.releaseRegion ctx else b
  let (outs, done) := runOps (act.filter (fun o => !runsLast o.instr)) start
  let lines := done.issue.lines
  if outs.any (fun e => decide (e.status = .stall) && e.post.isNone) then Offer.waits [] s
  else
    match firstFault outs with
    | some f => ⟨.ready, occ, lines, [], takeFault f (if opening c act then openRegion b else b)⟩
    | none =>
      -- what the region that ends has buffered may act as an acquire, before any other access of the bundle (R241)
      let order := ends && (b.releaseRegion ctx).cur.fence != 0 && act.any (fun o => reachesMemory o.instr)
      let posts := if order then [(.c, .order)] else waitPosts outs
      match posts with
      | [] => ⟨.ready, occ, lines, [], (runOps (act.filter (fun o => runsLast o.instr)) done.advance).2⟩
      | _ => Offer.waits
          ((if ends && c.inRegion && posts.any (fun p => decide (p.2 = .order)) then [(.c, .release)] else []) ++ posts) s

/-- An offer as the SFU leaves it: a bundle that holds an SFU operation while the unit is busy waits for it (R163). -/
def Offer.withSfu (o : Offer) (core : Core) (now : Nat) (ops : List SlotOp) (s : State) : Offer :=
  if sfuWait core now ops then
    { o with ready := if o.ready = .ready then .onlySfu else .no, posts := [], after := s }
  else o

/-- An offer as budgets leave it: a bundle that is ready issues once they have admitted every HBM request that it makes, its
fetch and a fault's record among them; those of its `paid` have been admitted before (R396). -/
def Offer.withBudgets (o : Offer) (ctx : Nat) (s : State) : Offer :=
  if o.ready = .no then o
  else
    let l := o.after.noted.drop (s.ctx ctx).paid
    if (State.pay 0 0 true l 0 s).1 < l.length then Offer.waits [(.c, .hold l)] s
    else
      { o with after := ((State.pay 0 0 true l 0 { o.after with tally := none }).2).updCtx ctx (fun c => { c with paid := 0 }) }

/-- What a bundle of a context would do, with the HBM requests that it makes noted. -/
def State.offerNoted (s : State) (ctx : Nat) : Offer :=
  let c := s.ctx ctx
  if c.st ≠ .ready || c.task = 0 || c.yielded || c.leave.isSome || c.tlbshBusy then Offer.waits [] s
  else
    let (f, t) := ({ s with tally := some [] }.begin ctx).fetch ctx
    let core := s.core (coreOf ctx)
    let now := s.now ctx
    match f with
    | .wait posts => Offer.waits posts s
    | .fault f occ guard ops =>
      if opsReady c core now guard ops then
        (⟨.ready, occ, [], [], takeFault f t⟩ : Offer).withSfu core now ops s
      else Offer.waits [] s
    | .bundle f =>
      if !operandsReady c core now f then Offer.waits [] s
      else (s.attempt f.ops (f.active c) t).withSfu core now f.ops s

/-- What a context offers to the merge stage. -/
def State.offer (s : State) (ctx : Nat) : Offer := (s.offerNoted ctx).withBudgets ctx s

end Sys2Proof.Machine
end

