-- ==== Sys2Proof/Machine/Merge.lean ====
section
/-! DEFINITION. The merge stage of a core and the cycle of a cluster (R113 to R116, R164, R184, R214, R215, R257,
R388). -/

namespace Sys2Proof.Machine

/-- Two offers may merge (R113, R115): no slot of both, and no scratchpad bank that both read. -/
def mergeable (a b : Offer) : Bool :=
  a.occ.all (fun k => !b.occ.contains k) &&
  a.lines.all (fun l => b.lines.all (fun m => bankOf l != bankOf m))

/-- The bundle holds an SFU operation (R163). -/
def Offer.sfu (o : Offer) : Bool := o.occ.contains .sfu

def Offer.isReady (o : Offer) : Bool := decide (o.ready = .ready)

/-- Context `k` of a core goes before the other (R113, R164): both offers are ready. `marks` are those of contexts that
the SFU passed over. -/
def firstOf (ca cb : Ctx) (a b : Offer) (ma mb : Bool) : Nat :=
  let both := a.sfu && b.sfu
  if both && ma then 0
  else if both && mb then 1
  else if ca.prio < cb.prio then 1
  else if cb.prio < ca.prio then 0
  else if ca.denial < cb.denial then 1
  else 0

/-- The contexts of a core that issue, and whether one of them has sole issue (R113, R114). The bundles of a merged pair
apply in ascending context number, as requests of one cycle are served (R386, R388, R396). -/
def chosen (ca cb : Ctx) (a b : Offer) (ma mb : Bool) : List Nat × Bool :=
  match a.isReady, b.isReady with
  | false, false => ([], false)
  | true, false => ([0], ca.sole)
  | false, true => ([1], cb.sole)
  | true, true =>
    if ca.sole then ([0], true)
    else if cb.sole then ([1], true)
    else
      let k := firstOf ca cb a b ma mb
      if mergeable a b then ([0, 1], false) else ([k], false)

/-- A denial count after a cycle (R114, R164). -/
def denialAfter (o : Offer) (issued : Bool) (n : Nat) : Nat :=
  match o.ready with
  | .ready => if issued then 0 else n + 1
  | .onlySfu => n
  | .no => 0

/-- The marks of a context for the next cycle (R114): its denial count, at 16 the sole issue, and no `yield` but one
that this cycle's bundle holds. -/
def State.countDenial (s : State) (ctx : Nat) (o : Offer) (issued yielded : Bool) (n : Nat) : State :=
  let d := denialAfter o issued n
  let s := s.updCtx ctx (fun c => { c with
    denial := d, sole := false, yielded := c.yielded && !yielded })
  if 16 ≤ d then
    match execDenialSoleIssue ctx s with
    | .next t => t
    | _ => s
  else s

/-- A context was passed over by the SFU at a free cycle (R164). A context that the other's sole issue (R114) keeps out
while it takes the unit counts as passed over, marked or not (assumption log 75). -/
def passedOver (me other : Offer) (mine theirs sole mark : Bool) : Bool :=
  (me.isReady && me.sfu && !mine && theirs && other.sfu) || (sole && theirs && mark)

/-- One cycle of a core (R113). -/
def State.coreCycle (s : State) (core : Nat) : State :=
  let a := 2 * core
  let b := 2 * core + 1
  let ca := s.ctx a
  let cb := s.ctx b
  if ca.task = 0 && cb.task = 0 then
    -- a free cycle with nothing to choose passes over nobody (R164)
    if (s.core core).sfuPassed.isEmpty || !decide ((s.core core).sfuFree ≤ s.now a) then s
    else s.updCore core (fun c => { c with sfuPassed := [] })
  else
    let oa := s.offer a
    let ob := s.offer b
    let c := s.core core
    let free := decide (c.sfuFree ≤ s.now a)
    let ma := sget false c.sfuPassed 0
    let mb := sget false c.sfuPassed 1
    let (order, sole) := chosen ca cb oa ob ma mb
    let ia := order.contains 0
    let ib := order.contains 1
    let s := match order with
      | [] => s
      | k :: rest =>
        let s := (if k = 0 then oa else ob).after
        match rest with
        | [] => s
        | k :: _ =>
          -- the second of a merged pair acts on what the first has left (R115)
          let o := s.offer (2 * core + k)
          if o.isReady then o.after else s
    let s := if ia then s else oa.posts.foldl (fun s p => s.applyPost a p) s
    let s := if ib then s else ob.posts.foldl (fun s p => s.applyPost b p) s
    let s := { s with issue := Issue.none }
    let s := s.countDenial a oa ia ca.yielded ca.denial
    let s := s.countDenial b ob ib cb.yielded cb.denial
    if free then
      s.updCore core (fun c => { c with
        sfuPassed := sput false (sput false [] 0 (passedOver oa ob ia ib sole ma)) 1 (passedOver ob oa ib ia sole mb) })
    else s

/-- The state of an outcome that the meaning of a step of the part's own always gives. -/
def Out.get (o : Out) (s : State) : State :=
  match o with
  | .next t => t
  | _ => s

/-- Barrier operations that have arrived at a core apply, one after another (R388). -/
def barrierArrivals : Nat → Nat → State → State
  | 0, _, s => s
  | n + 1, core, s => barrierArrivals n core ((execBarrierOpAtHome core s).get s)

/-- The end of a cluster's cycle: what lands in its scratchpads and scale registers, waits that time out, and barrier
operations that arrive, and heat that slots have released; then flits leave (R184, R214, R215, R257, R321, R388, R401). -/
def State.endCycle (s : State) (cluster : Nat) : State :=
  let cores := (List.range 16).map (fun k => 16 * cluster + k)
  let ctxs := (List.range 32).map (fun k => 32 * cluster + k)
  let s := s.updCluster cluster (fun c => { c with cycle := c.cycle + 1 })
  let s := (ctxs.filter (fun k => !(s.ctx k).gath.isEmpty)).foldl State.portStep s
  let s := (cores.filter (fun k => !(s.core k).writes.isEmpty)).foldl (fun s k => (execDrainLands k s).get s) s
  let s := if cores.all (fun k => (s.core k).writes.isEmpty) then s else (execMulticastArrival cluster s).get s
  let s := (ctxs.filter (fun k => !(s.ctx k).scl.isEmpty)).foldl (fun s k => (execScaleLoadComplete k s).get s) s
  let s := (ctxs.filter (fun k => decide ((s.ctx k).st ≠ .ready) && decide ((s.ctx k).st ≠ .idle))).foldl
    (fun s k => (execWaitaTimeout k s).get s) s
  let s := (ctxs.filter (fun k => !(s.ctx k).drain.isEmpty || (s.ctx k).fence != 0)).foldl State.drainCtx s
  let s := if s.lates.isEmpty then s else s.drainLates cluster
  let s := cores.foldl (fun s k => barrierArrivals (sget [] s.barReqs k).length k s) s
  let s := s.settleHeat
  if s.outbox.isEmpty && s.links.all (fun l => !l.2.due) then s else s.sendFlits

/-- One cycle of a cluster: each core's merge stage, then what the cycle ends. While the data plane is held in reset,
or in the safe state, no cluster runs (R413, R414). -/
def State.clusterCycle (s : State) (cluster : Nat) : State :=
  if !s.booted || s.safe then s
  else (((List.range 16).map (fun k => 16 * cluster + k)).foldl State.coreCycle s).endCycle cluster

end Sys2Proof.Machine
end

