-- ==== Sys2Proof/Machine/Auto.lean ====
section
/-! DEFINITION. What the part does next (R16, R18, R435).

The spec fixes neither the duration of an engine's step nor the order in which units that share nothing act. A move
says what acts next: a step of the opcode table, or a cycle of a cluster. `State.plan` holds the moves that come
next; what arrives from outside the package, and what a clock that the model does not hold sets off, comes from
there. Where it is empty, a step of the part's own that can make progress is taken, and where there is none the
clusters take a cycle each in turn (assumption log 3). -/

namespace Sys2Proof.Machine

/-! ### Steps that the part takes without being told -/

/-- The steps of engine commands (R274, R275, R205, R38, R286, R285, R317). -/
def commandSteps (s : State) : List (State → Out) :=
  s.cmds.flatMap (fun k =>
    let c := k.ctx
    let i := k.cid.toNat
    [execCommandStart c i, execEngineFillRetire c i, execHctldWordArrival c i, execTransformOpRetire c i,
      execPublishFlip c i, execKvattSlotFill c i, execCommandRetire c i])

/-- What ends the waits of contexts (R108, R230, R258, R265, R360). -/
def contextSteps (s : State) : List (State → Out) :=
  s.ctxs.flatMap (fun kc =>
    let n := kc.1
    let c := kc.2
    (if c.leave.isSome then [fun s => .next (s.finishLeave n)] else []) ++
    (if c.tlbshBusy then [execTlbshComplete n] else []) ++
    (if c.cacheBusy then [execCacheOpComplete n] else []) ++
    (match c.st with
      | .parked _ => [execWaitaWake n, execTwaitWake n, execTaskRestart n]
      | _ => []))

/-- Homes of work queues (R290, R386). -/
def queueSteps (s : State) : List (State → Out) :=
  s.queues.flatMap (fun kq =>
    let q := kq.2
    (if q.spilled = 0 then [] else [execQueueSpillRefill kq.1]) ++
    (if q.arrivals.isEmpty && (q.waiters.isEmpty || q.hw.isEmpty) then [] else [execWorkQueueCycle kq.1 []]))

/-- Fault records that wait for room (R233), and writes that a budget has held (R396). -/
def recordSteps (s : State) : List (State → Out) :=
  (if s.posts.isEmpty then [] else [fun s => .next s.postStep]) ++
    s.pens.flatMap (fun kp => if kp.2.held.isEmpty then [] else [execFaultRecordHeldWrite kp.1])

/-- A free slot of the user-queue mapping table. -/
def State.freeUqSlot (s : State) : Nat :=
  ((List.range 128).find? (fun i => (sfind s.uqSlots i).isNone)).getD 128

/-- The job sequencer and the walker (R292, R377 to R383, R250); idle queues are unmapped by the plan (assumption log 102). -/
def sequencerSteps (s : State) : List (State → Out) :=
  s.userQs.map (fun q => execUserQueueMap q.id s.freeUqSlot) ++
  s.uqSlots.flatMap (fun ku => [execLaunch ku.1, execAttachedLaunch ku.1, execGraphLaunch ku.1]) ++
  ((s.graphs.map Prod.fst ++ (if s.graphWait.isEmpty then [] else List.range 64)).dedup).map execGraphNodeStep ++
  [execTaskPlacement 0] ++ s.jobs.map (fun kj => execJobSignalWrite kj.1)

/-- Drovers, the allocators and the grooms (R298, R332, R334, R362). -/
def serviceSteps (s : State) : List (State → Out) :=
  s.pools.map (fun kp => execDeferredBlockRelease kp.1) ++
  s.tasks.flatMap (fun kt => match kt.2.st with
    | .near _ _ => [execKvNotNearService kt.1]
    | .on c => (match (s.ctx c).st with
      | .parked (.near _ _) => [execKvNotNearService kt.1]
      | _ => [])
    | _ => []) ++
  [execDroverPageMove 0, execDroverPageMove 1, execDroverPageMove 2, execDroverPageMove 3] ++
  s.grooms.flatMap (fun kg => if kg.2.run.isNone && kg.2.queue.isEmpty then [] else [execGroomRequest kg.1])

/-- Inbound requests that a budget has held, and links that have failed (R396, R404, R408). -/
def linkSteps (s : State) : List (State → Out) :=
  (if s.inq.isEmpty then [] else [fun s => .next s.inboundStep]) ++
  s.links.flatMap (fun kl => if kl.2.up && decide (16 < kl.2.tries) then [execLinkDown kl.1] else [])

/-- Record `i` of the event log's ring, as its eight words. -/
def State.evlRecord (s : State) (i : Nat) : List Word :=
  let at_ := bits s.evl.base.toNat 51 12 * 2 ^ 12 + 64 * (i % 2 ^ bits s.evl.ctl.toNat 4 0)
  (List.range 8).map (fun j => s.phys64 (at_ + 8 * j))

/-- The management controller forwards records of the event log (R405; assumption log 82). -/
def State.forwardStep (s : State) : State :=
  if !s.evl.ring || s.evl.head == s.evl.tail then s
  else
    { s with
      free := s.free + 1
      outbox := s.outbox ++ (match Config.evForward s.free with
        | [dst, i] => if dst % 64 = s.pkg then [] else [.event (dst % 64) (s.evlRecord i)]
        | _ => []) }

/-- What the management controller, the firmware that lends blocks and new images do of themselves (R335, R405, R411, R418,
R420). -/
def firmwareSteps (s : State) : List (State → Out) :=
  [fun s => .next s.penResume, fun s => .next s.evlFlush, fun s => .next s.forwardStep] ++
  s.pools.flatMap (fun kp => if kp.2.enable then [fun s => .next (s.lendStep kp.1)] else []) ++
  s.fws.flatMap (fun kf => if kf.2.state = 2 ∨ kf.2.state = 3 then [fun s => .next (s.imageStep kf.1)] else [])

/-- The mailbox that is served next (R424). -/
def mailboxSteps (s : State) : List (State → Out) :=
  match s.served with
  | none => []
  | some n =>
    [execRegRead n, execRegWrite n, execImageLoad n, execImageVerify n, execUpdate n, execTfrange n, execTframeSet n,
      execTframeClear n, execQuote n, execQueueCreate n, execQueueDestroy n, execQueueQuota n, execSpillSet n]

/-- The first of some steps that changes the state. -/
def firstChange (s : State) : List (State → Out) → Option State
  | [] => none
  | f :: r =>
    match f s with
    | .next t => if t = s then firstChange s r else some t
    | _ => firstChange s r

/-- The cluster that takes its cycle after this one. -/
def nextCluster (turn : Nat) : Nat := (turn + 1) % 32

/-- A cycle of the cluster whose turn it is. -/
def turnCycle (s : State) : Out := .next { s.clusterCycle s.turn with turn := nextCluster s.turn }

/-- The data plane runs: it has been released from reset, and the part is not in the safe state (R413, R414). -/
def State.dataRuns (s : State) : Bool := s.booted && !s.safe

/-- The steps that a plane can take: data, control, management, and last a cycle of a cluster (R16); held in reset, the data
plane takes none (R413, R414). -/
def planeSteps (s : State) (plane : Nat) : List (State → Out) :=
  match plane with
  | 0 => if s.dataRuns then commandSteps s ++ contextSteps s ++ recordSteps s ++ serviceSteps s ++ linkSteps s else []
  | 1 => queueSteps s ++ sequencerSteps s
  | 2 => mailboxSteps s ++ firmwareSteps s
  | _ => [turnCycle]

/-- A list from its `n`-th element round. -/
def rotate {α : Type} (n : Nat) (l : List α) : List α := l.drop (n % l.length) ++ l.take (n % l.length)

/-- The next thing that the part does with an empty plan: bring-up (R413), then a step of the plane whose turn it is, or of
the next plane that can make progress: no plane waits on another (R16). -/
def State.idleStep (s : State) : Out :=
  if !s.booted && !s.safe then
    execColdReset (Config.selfTest s.free) { s with free := s.free + 1 }
  else
    let r := s.round
    let s := { s with round := r + 1 }
    match [0, 1, 2, 3].findSome? (fun k => firstChange s (rotate (r / 4) (planeSteps s ((r + k) % 4)))) with
    | some t => .next t
    | none => .next s

/-- A step that the part, its driver or the world outside takes: one without an encoding, whose numbers name things that
the part has. A move that is no such step is passed over. -/
def isStep (i : Instr) : Bool := (encode i).isNone && i.WellFormed

/-- Steps of the management plane, and of what it governs (R16): they are taken in the safe state too (R414). -/
def managementStep : Instr → Bool
  | .budgetPeriodBoundary _ | .uncorrectableError (.controller _) _ | .coldReset _ | .updateBoundary _ _ | .alivePost _ _
  | .watchdogExpiry _ | .regRead _ | .regWrite _ | .imageLoad _ | .imageVerify _ | .update _ | .tfrange _ | .tframeSet _
  | .tframeClear _ | .quote _ | .queueCreate _ | .queueDestroy _ | .queueQuota _ | .spillSet _ | .registerWrite _ _ _ => true
  | _ => false

/-- A planned step is taken now: the data plane takes none while it is held in reset, nor is a launch accepted (R413, R414). -/
def State.takes (s : State) (i : Instr) : Bool := isStep i && (s.dataRuns || managementStep i)

/-- The source of a move that is an inbound request: a package, or the host after them. -/
def inboundSource : Move → Option Nat
  | .event (.inboundRequest rq) => some (if rq.host then 64 else rq.src)
  | _ => none

/-- The least source among the inbound requests at the head of a plan. -/
def leastSource : List Move → Option Nat
  | [] => none
  | m :: r =>
    match inboundSource m, leastSource r with
    | some a, some b => some (Nat.min a b)
    | some a, none => some a
    | none, _ => none

/-- A plan with the next of the inbound requests at its head put first: those that stand together are of one cycle, and
apply in ascending source package number (R406; assumption log 84). -/
def inOrder (l : List Move) : List Move :=
  match leastSource l with
  | none => l
  | some k =>
    match l.find? (fun m => inboundSource m == some k) with
    | none => l
    | some m => m :: l.erase m

/-- The next step of the part: a move that is planned, else what comes of itself. -/
def State.nextMove (s : State) : Out :=
  match inOrder s.plan with
  | .event i :: r => if s.takes i then exec i { s with plan := r } else .next { s with plan := r }
  | .cycle c :: r => .next ({ s with plan := r }.clusterCycle c)
  | .correct :: r => .next { s with plan := r }.correct
  | [] => s.idleStep

end Sys2Proof.Machine
end

