-- ==== Sys2Proof/Machine/Place.lean ====
section
/-! DEFINITION. Placing one instruction where the next step runs it (assumption log 4): what a launch and the job
sequencer would have set up for it. -/

namespace Sys2Proof.Machine

/-- The bundle word, and the HCW, that hold one word of an instruction: a 16-bit beat in X16, a 24-bit word in the SC
slot, a 48-bit word in VA; a 32-bit word is a syllable in the slot that admits it, or an SFU slot (R22, R34). -/
def placeWord (nbits w : Nat) : Nat × Option HWord :=
  match nbits with
  | 16 => (w * 2 ^ 112, none)
  | 24 => (0x8000 * 2 ^ 96, some (BitVec.ofNat 256 (w * 2 ^ 224)))
  | 48 => (0x8000 * 2 ^ 96, some (BitVec.ofNat 256 w))
  | _ =>
    let m := bits w 31 26
    let syllable := match decodeSyllable (homeSlot w) w with
      | .ok _ => true
      | .error _ => false
    if !syllable && (decodeSfu w).isSome then (0x8000 * 2 ^ 96, some (BitVec.ofNat 256 (w * 2 ^ 192)))
    else if Dec.admits .c m then (w, none) else (w * 2 ^ 64, none)

/-- A 32-bit word that is a logit word and nothing else. -/
def onlyLogit (nbits w : Nat) : Bool :=
  nbits == 32 && !(match decodeSyllable (homeSlot w) w with
    | .ok _ => true
    | .error _ => false) && !(decodeSfu w).isSome && logitOk (bits w 31 26) (logitFields w)

/-- A page of 1 GiB from address 0, SO, with every permission (R219). -/
def wholePage : TlbEnt := ⟨0, 0, 2 ^ 30, BitVec.ofNat 64 (2 ^ 29 + 0xFFF9), 0⟩

/-- A context that runs a task of pen 0 at pc 0 (R96). -/
def placedCtx (h : Option HWord) : Ctx :=
  { Ctx.idle with
    st := .ready, task := 1,
    hct := match h with
      | some w => [(0, .loaded w)]
      | none => [] }

/-- The task of that context; it belongs to no job. -/
def placedTask : Task :=
  { job := 0, launch := 0, ord := 0, wid := 0, st := .on 0, last := 0, gang := 0, saved := none, frame := none,
    stopCode := 0, stopSeq := 0, relief := false }

/-- A bundle stands at the pc of context 0, and cluster 0 takes the next cycle. -/
def State.placeBundle (s : State) (b : Nat) (h : Option HWord) : State :=
  let s := s.setCtx 0 (placedCtx h)
  let s := s.setCtx 1 Ctx.idle
  let s := s.updCore 0 (fun c => { c with tlb := wholePage :: c.tlb })
  let s := s.updPen 0 (fun p => { p with root := p.root ||| 1 })
  { s with
    booted := true, safe := false, plan := .cycle 0 :: s.plan, tasks := sset s.tasks 1 placedTask,
    nextTask := Nat.max 2 s.nextTask, mem := cellsWrite s.mem 52 0 16 b }

/-- A command that a groom runs for context 0. -/
def placedCmd : Cmd :=
  { ctx := 0, task := 1, cid := 0, kind := .smpost, st := .running, deferred := true, inRegion := false,
    aborted := false, preds := [], ord := 0, r1 := 0, r2 := 0, regs := [], ports := [], scope := 0, pc := 0, pen := 0,
    wid := 0, job := 0, core := 0, loops := 0, slot := none, pos := 0, fail := none, done := 0, got := [], paid := 0,
    rel := 0, at_ := 0, stream := Stream.none }

/-- A logit word is the next that the groom of cluster 0 runs. -/
def State.placeLogit (s : State) (w : Nat) : State :=
  { s with
    booted := true, safe := false,
    grooms := supd Groom.reset s.grooms 0 (fun g => { g with
      run := some ⟨placedCmd, 0, 0, 0, 0, 0, [w], .chunk, 0, 0, none, none⟩ }) }

end Sys2Proof.Machine
end

