-- ==== Sys2Proof/Machine/Step.lean ====
section
/-! DEFINITION. One step of the part, and the placing of one instruction as its next. -/

namespace Sys2Proof.Machine

/-- One step: the next move (assumption log 3). -/
def step (s : State) : Host.Outcome State Fault Refusal := s.nextMove

/-- `s` with one instruction placed where `step` runs it next (assumption log 4): in a bundle at the pc of context 0,
or, for a logit word, in the request that groom 0 runs. -/
noncomputable def State.withFetchWord (s : State) (nbits w : Nat) : State :=
  if onlyLogit nbits w then
    let s := s.placeLogit w
    { s with plan := .event (.groomRequest 0) :: s.plan }
  else
    let p := placeWord nbits w
    s.placeBundle p.1 p.2

end Sys2Proof.Machine
end

