-- ==== Sys2Proof/Safety.lean ====
section
/-! DEFINITION. The vocabulary of the statements: memory in canonical form, what an instruction completes with, and the
frames of instructions, each of which names all that an instruction of its shape may change. -/

namespace Sys2Proof.Machine

/-- Memory in canonical form (assumption log 1): addresses strictly rising, and no entry equal to what an unlisted
address reads as. -/
def Memory.wf (m : List (Nat × Byte)) : Bool := swf 0 m

/-- The instruction answers a next state, of which `P` holds. -/
def Completes (i : Instr) (s : State) (P : State → Prop) : Prop := ∃ t, exec i s = .next t ∧ P t

/-- Every byte of memory reads as before. -/
def SameBytes (s t : State) : Prop := ∀ a, t.physRead a 1 = s.physRead a 1

/-- Every byte of memory outside the `n` bytes at physical address `pa` reads as before. -/
def SameBytesBut (s t : State) (pa n : Nat) : Prop :=
  ∀ a, (∀ k < n, s.home a % 2 ^ 52 ≠ (s.home pa + k) % 2 ^ 52) → t.physRead a 1 = s.physRead a 1

/-- Every byte of memory outside the `n` bytes that control-plane writes from `pa` on reach reads as before. -/
def SameBytesOut (s t : State) (pa n : Nat) : Prop :=
  ∀ a, (∀ k < n, s.home a % 2 ^ 52 ≠ s.home (pa + k) % 2 ^ 52) → t.physRead a 1 = s.physRead a 1

/-- Of the interlock marks of the issuing context only that of `key` is written: the result can be read `lat` cycles
on (R113, R119). A result for the next cycle needs no mark. -/
def Marked (s t : State) (key lat : Nat) : Prop :=
  ∀ k, sget 0 t.cur.sb k =
    if k = key then (if lat ≤ 1 then 0 else s.now s.issue.ctx + lat) else sget 0 s.cur.sb k

/-- Nothing of the state differs but what `c`, the issuing context afterwards, says; every byte of memory reads as
before. -/
def OnlyCtx (s t : State) (c : Ctx) : Prop := t = s.setCtx s.issue.ctx c ∧ SameBytes s t

/-- The x registers of the issuing context after a write of `v` to x[rd]: x0 discards it (R117). -/
def XsAfter (s t : State) (rd : BitVec 6) (v : Word) : Prop :=
  ∀ j, t.cur.x j = if j = 0 then 0 else if j = rd then v else s.cur.x j

/-- x[rd] takes `v`, readable after `lat` cycles, and nothing else of the part changes. -/
def WroteX (s t : State) (rd : BitVec 6) (v : Word) (lat : Nat) : Prop :=
  XsAfter s t rd v ∧ Marked s t (keyX rd) lat ∧
  OnlyCtx s t { s.cur with
    xs := t.cur.xs
    sb := t.cur.sb }

/-- Flags raised by an operation in the slot that is issuing (R86, R87): its group gains the events, and the first-event
record is written if it is clear and there is an event. -/
def Raised (s t : State) (fl : Flags) : Prop :=
  t.cur.fpflags = (match slotGroup s.issue.slot with
    | some g => s.cur.fpflags ||| (fl.setWidth 64 <<< (5 * g))
    | none => s.cur.fpflags) ∧
  t.cur.fprec = (match slotGroup s.issue.slot with
    | some g => if fl = 0 ∨ s.cur.fprec.getLsbD 63 then s.cur.fprec else fprecWord g (firstKind fl) s.issue.pc
    | none => s.cur.fprec)

/-- As `WroteX`, with flags. -/
def WroteXF (s t : State) (rd : BitVec 6) (v : Word) (lat : Nat) (fl : Flags) : Prop :=
  XsAfter s t rd v ∧ Marked s t (keyX rd) lat ∧ Raised s t fl ∧
  OnlyCtx s t { s.cur with
    xs := t.cur.xs
    sb := t.cur.sb
    fpflags := t.cur.fpflags
    fprec := t.cur.fprec }

/-- v[vd] takes `v`, readable after `lat` cycles, with flags; nothing else of the part changes. -/
def WroteV (s t : State) (vd : BitVec 6) (v : VWord) (lat : Nat) (fl : Flags) : Prop :=
  (∀ j, t.cur.v j = if j = vd then v else s.cur.v j) ∧ Marked s t (keyV vd) lat ∧ Raised s t fl ∧
  OnlyCtx s t { s.cur with
    vs := t.cur.vs
    gath := s.cur.gath.filter (fun r => r.vd != vd)
    sb := t.cur.sb
    fpflags := t.cur.fpflags
    fprec := t.cur.fprec }

/-- m[md] takes `v` (m0 discards it, R139), readable after `lat` cycles; nothing else of the part changes. -/
def WroteM (s t : State) (md : BitVec 4) (v : BitVec 64) (lat : Nat) : Prop :=
  (∀ j, t.cur.m j = if j = 0 then BitVec.allOnes 64 else if j = md then v else s.cur.m j) ∧
  Marked s t (keyM md) lat ∧
  OnlyCtx s t { s.cur with
    ms := t.cur.ms
    sb := t.cur.sb }

/-- The predicates of the issuing context become `p` (p0 stays true, R117), with flags; nothing else of the part changes
but the interlock marks of predicates and the bundle's own record of accumulating writes (R131). -/
def WroteP (s t : State) (p : BitVec 4 → Bool) (fl : Flags) : Prop :=
  (∀ j, t.cur.p j = if j = 0 then true else p j) ∧ Raised s t fl ∧ SameBytes s t ∧
  (∀ k, (k < 64 ∨ 79 < k) → sget 0 t.cur.sb k = sget 0 s.cur.sb k) ∧
  t = { s.setCtx s.issue.ctx { s.cur with
      ps := t.cur.ps
      sb := t.cur.sb
      fpflags := t.cur.fpflags
      fprec := t.cur.fprec } with
    issue := { s.issue with accP := t.issue.accP } }

/-- The control syllable branches to `target` (R98); nothing else of the part changes. -/
def Branched (s t : State) (target : BitVec 60) : Prop :=
  t = { s with issue := { s.issue with branch := some target } } ∧ SameBytes s t

/-- The operation does not let its bundle issue: it waits, with what it leaves behind. -/
def Waits (s t : State) (p : Option Post) : Prop := t.issue.status = .stall ∧ t.issue.post = p ∧ SameBytes s t

/-- The operation raises a fault: code and address word. -/
def Faults (t : State) (c : Code) (addr : Nat) : Prop :=
  ∃ f, t.issue.status = .fault f ∧ f.code = c ∧ f.addr = addr

/-- The sum that R25 takes for a target: pc + 16 × off modulo 2^60. -/
def pcPlus (pc : BitVec 60) (off : Int) : BitVec 60 := BitVec.ofInt 60 (pc.toNat + 16 * off)

/-- Table 6 of R130, guard true: what the pair takes, of the condition and the values read. -/
def pairTable (ct : Nat) (c pa pb : Bool) : Bool × Bool :=
  match ct with
  | 0 | 1 => (c, !c)
  | 2 => (pa && c, pb || !c)
  | 3 => (pa || c, pb && !c)
  | 4 => (c, pa)
  | 5 => (pa != c, pb != c)
  | 6 => (pa || c, pb || !c)
  | _ => (pa && c, pb && !c)

/-- The condition of a compare on 64-bit values (R129, Table 18a). -/
def condTable (cc : Nat) (a b : Word) : Prop :=
  match cc with
  | 0 => a = b
  | 1 => a ≠ b
  | 2 => a.toInt < b.toInt
  | 3 => a.toInt ≤ b.toInt
  | 4 => a.toInt > b.toInt
  | 5 => a.toInt ≥ b.toInt
  | 6 => a.toNat < b.toNat
  | _ => a.toNat ≥ b.toNat

/-- A compare of pair `k` under Table 6 of R130: predicates 2k and 2k + 1 take the pair's values, the others stay. -/
def PairWritten (s t : State) (k ct : BitVec 3) (c : Bool) (fl : Flags) : Prop :=
  let pa : BitVec 4 := BitVec.ofNat 4 (2 * k.toNat)
  let pb : BitVec 4 := BitVec.ofNat 4 (2 * k.toNat + 1)
  let acc : Bool := ct ≠ 0 ∧ ct ≠ 1 ∧ ct ≠ 4
  let w := pairTable ct.toNat c (s.predIn acc pa) (s.predIn acc pb)
  WroteP s t (fun j => if j = pa then w.1 else if j = pb then w.2 else s.cur.p j) fl

/-- One bit of a bit-field extract (R124, R125). -/
def bfxBit (a d : Word) (i : Nat) : Bool :=
  let pos := d.toNat % 64
  let w := min (d.toNat / 2 ^ 8 % 64 + 1) (64 - pos)
  if i < w then a.getLsbD (pos + i) else d.getLsbD 16 && a.getLsbD (pos + w - 1)

/-- One bit of a bit-field insert (R124, R125). -/
def bfiBit (old a d : Word) (i : Nat) : Bool :=
  let pos := d.toNat % 64
  let w := min (d.toNat / 2 ^ 8 % 64 + 1) (64 - pos)
  if pos ≤ i ∧ i < pos + w then a.getLsbD (i - pos) else old.getLsbD i

/-- The next bundle and the loop stack of R98, where no branch is taken: finished entries that end at `pc` go, and the
next entry, if it ends there too, starts its next iteration. -/
def nextBundle (pc : BitVec 60) (l : List LoopEnt) : BitVec 60 × List LoopEnt :=
  match l.dropWhile (fun e => decide (e.fin = pc) && decide (e.rem.toNat ≤ 1)) with
  | [] => (pcPlus pc 1, [])
  | e :: r =>
    if e.fin = pc then (e.start, { e with
      rem := BitVec.ofNat 32 (e.rem.toNat - 1)
      idx := BitVec.ofNat 32 (e.idx.toNat + 1) } :: r)
    else (pcPlus pc 1, e :: r)

/-- A block of a store buffer holds each byte once, in its 256 bytes, and a block of SO stores those that its log lays there in
program order (R101, R246). -/
def SEnt.Whole (e : SEnt) : Prop :=
  ∀ pa bytes sealed so, e.kind = .block pa bytes sealed so → (bytes.map Prod.fst).Nodup ∧ (∀ b ∈ bytes, b.1 / 256 * 256 = pa) ∧
    (so = true → bytes = e.log.foldl (fun m w => layBytes m w.1 w.2.1 w.2.2) [])

/-- A tile slot after an abort (R104, Table 3): as the snapshot has it, but with the DRAINs under way; a fill that was under way
at region entry, or that a stream of before the region has armed, keeps the state that it has reached. -/
def TileEnt.aborted (cur snap : TileEnt) : TileEnt :=
  let e := if (snap.state = .filling ∧ snap.inflight = true) ∨ streamSlot cur snap = true then cur
    else { snap with drains := cur.drains }
  { e with
    state := if e.state = .draining ∧ e.drains = 0 then .ready else e.state
    relpend := false
    pend := none }

/-- What Table 3 of R100 keeps of the issuing context. -/
def SnapshotOf (s : State) (n : Snapshot) : Prop :=
  n.loops = s.cur.loops ∧ n.acc = s.cur.acc ∧ n.rings = s.cur.rings ∧ n.mpc = s.cur.mpc ∧
  n.tiles.map Prod.fst = s.cur.ringSlots ∧ ∀ k ∈ n.tiles, k.2 = s.curCore.tile k.1

/-- Nothing differs but what HBM requests leave: what budgets have been charged, the rows that stand open, or the requests
that a step which is admitted as a whole has noted (R394, R396, R398). -/
def Charged (s t : State) : Prop := t = { s with
  tally := t.tally
  budgets := t.budgets
  banks := t.banks
  rfms := t.rfms }

/-- No budget holds the HBM requests of a pen, no write for it waits, and every port of the memory serves (R396, R411). -/
def State.FreeFor (s : State) (pen : Nat) : Prop :=
  (∀ b ∈ s.budgets, b.2.covers 3 pen = false) ∧ (∀ w ∈ s.posts, w.pen ≠ pen) ∧ ∀ pa, s.portHeld pa = false

/-- A write of the control plane at an address is made at once: none of the pen waits, and no budget or memory controller holds it
(R396, R411). -/
def State.Makes (s : State) (pen pa : Nat) : Prop := (∀ w ∈ s.posts, w.pen ≠ pen) ∧ s.mayAsk pen pa = true

/-- A record of sixteen words is the newest of its pen's fault queue or, where the queue has no room or a budget of the pen
holds the write, of the records held for it (R233, R396). -/
def Recorded (s t : State) (pen : Nat) (words : List Word) : Prop :=
  if (s.pen pen).fqOpen = true ∧ s.mayAsk pen (s.pen pen).fqAt = true then
    t.physRead (bits (s.pen pen).fqBase.toNat 51 7 * 128 +
      128 * ((s.pen pen).fqTail.toNat % 2 ^ bits (s.pen pen).fqCtl.toNat 4 0)) 128 = packWords words ∧
    (t.pen pen).fqTail = (s.pen pen).fqTail + 1
  else (t.pen pen).held = (s.pen pen).held ++ [words]

/-- The bytes of the next entry of a pen's fault queue lie outside the `n` bytes from `pa` on. -/
def State.FqOutside (s : State) (pen pa n : Nat) : Prop :=
  ∀ j < 128, ∀ k < n, s.home ((s.pen pen).fqAt + j) % 2 ^ 52 ≠ s.home (pa + k) % 2 ^ 52

/-- The task on a context has stopped (R106): its state is in a frame and the context is free, or it stays on the context,
which issues no more. -/
def Stopped (s t : State) (ctx : Nat) (code : Nat) : Prop :=
  ∃ k, sfind t.tasks (s.ctx ctx).task = some k ∧ k.stopCode = code ∧
    ((k.st = .stopped ∧ k.saved.isSome ∧ k.frame.isSome ∧ (t.ctx ctx).st = .idle) ∨ (t.ctx ctx).st = .stopped)

/-- Every register and mark of every context stands as before, but for those in which `c` differs from the issuing
context, and for the wake reasons of contexts parked in `waita`. -/
def CtxsKept (s t : State) (c : Ctx) : Prop :=
  ∀ k, { t.ctx k with st := (s.ctx k).st } = if k = s.issue.ctx then { c with st := s.cur.st } else s.ctx k

/-- What an access to memory leaves alone: pens, tasks, jobs, commands, queues, pools, scratchpads and tile tables. -/
def RestKept (s t : State) : Prop :=
  t.issue = s.issue ∧ t.pens = s.pens ∧ t.tasks = s.tasks ∧ t.jobs = s.jobs ∧ t.gangs = s.gangs ∧ t.cmds = s.cmds ∧
  t.queues = s.queues ∧ t.pools = s.pools ∧ t.seq = s.seq ∧
  ∀ k, (t.core k).tiles = (s.core k).tiles ∧ (t.core k).scratch = (s.core k).scratch

/-- Where the level-0 entry stands that an access of `va` uses first: that of a cached translation, else that of the
walk (R222, R227). -/
def State.leafAddr (s : State) (a : Access) (va : Nat) : Option Nat :=
  match tlbHit (s.nearTlb a) a.pen va with
  | some e => some e.ptePa
  | none =>
    match a.cluster with
    | none =>
      match s.walk [] a.pen va with
      | .ok r => some r.2.1
      | .error _ => none
    | some cl =>
      match tlbHit (s.cluster cl).leaves a.pen va with
      | some e => some e.ptePa
      | none =>
        match s.walk (s.cluster cl).walk a.pen va with
        | .ok r => some r.2.1
        | .error _ => none

/-- The L1 line of the issuing core that serves a load, if one does: the page's policy allows it, and an acquire or an SO
page has dropped the RC lines first (R240, R241, R251). -/
def State.l1For (s : State) (acq : Bool) (t : Xlat) : Option L1Line :=
  if t.kind = 0 then none
  else if t.cpol = 0 ∨ t.cpol = 2 ∨ t.cpol = 4 then
    (s.curCore.l1.filter (fun l => !((acq && t.kind != 2) && l.kind == 1))).find?
      (fun l => l.pa == s.home t.pa / 128 * 128)
  else none

/-- The bytes that a load of `n` bytes gives, those buffered in the context's own region over them (R101, R251). -/
def State.loaded (s : State) (acq : Bool) (t : Xlat) (n : Nat) : Nat :=
  forward s.cur.sbuf (s.home t.pa) n (match s.l1For acq t with
    | some l => l.data / 2 ^ (8 * (s.home t.pa - l.pa)) % 2 ^ (8 * n)
    | none => s.physRead t.pa n)

/-- The latency class of a load: L1, L2 or HBM (R251). -/
def State.loadLat (s : State) (acq : Bool) (t : Xlat) : Nat :=
  if (s.l1For acq t).isSome then 8
  else if t.cpol ≠ 5 ∧ ((s.cluster (clusterOf s.issue.ctx)).l2.any (fun l => l.pa == s.home t.pa / 128 * 128)) then 40
  else 400

/-- x[rd], and x[rd + 1] for 16 bytes, take a loaded value, readable after `lat` cycles. -/
def LoadedX (s t : State) (rd : BitVec 6) (n v lat : Nat) : Prop :=
  (∀ j, t.cur.x j = if j = 0 then 0 else if n = 16 ∧ j = rd + 1 then BitVec.ofNat 64 (v / 2 ^ 64)
    else if j = rd then BitVec.ofNat 64 v else s.cur.x j) ∧
  (∀ k, sget 0 t.cur.sb k = if k = keyX rd ∨ (n = 16 ∧ k = keyX (rd + 1)) then
    (if lat ≤ 1 then 0 else s.now s.issue.ctx + lat) else sget 0 s.cur.sb k) ∧
  CtxsKept s t { s.cur with
    xs := t.cur.xs
    sb := t.cur.sb }

/-- What a load may see at a physical byte (R101, R240, R260): the byte buffered in its own region, else the coherent byte
or that of an L1 line that its core holds. -/
def SeenByte (s : State) (p b : Nat) : Prop :=
  match sbufByte s.cur.sbuf p with
  | some x => b = x.toNat
  | none => b = s.physRead p 1 ∨ ∃ l ∈ s.curCore.l1, l.pa = p / 128 * 128 ∧ b = l.data / 2 ^ (8 * (p % 128)) % 256

/-- An earlier access keeps a load of `n` bytes back: on an SO page any that has not performed, else a released `atom` of the
same bytes (R239, R240). -/
def State.LoadWaits (u : State) (t : Xlat) (n : Nat) : Prop :=
  (t.kind = 0 ∧ (u.cur.drain ≠ [] ∨ u.owed u.issue.ctx ≠ 0)) ∨ u.behindAtom (u.home t.pa) n = true

/-- None does. -/
def State.LoadClear (u : State) (t : Xlat) (n : Nat) : Prop :=
  (t.kind = 0 → u.cur.drain = [] ∧ u.owed u.issue.ctx = 0) ∧ u.behindAtom (u.home t.pa) n = false

/-- Nothing keeps a store back: inside a region the earlier regions' entries leave it room for `k` more; outside one those
have performed, and remote stores are acknowledged where its page is SO (R101, R239, R246). -/
def State.StoreClear (u : State) (t : Xlat) (k : Nat) : Prop :=
  match u.cur.region with
  | some r => r.sbuf.length + u.cur.drain.length + k ≤ 96
  | none => u.cur.drain = [] ∧ (t.kind = 0 → u.owed u.issue.ctx = 0)

/-- The translations of the pieces of an access all hold, on this package, at addresses that its alignment fits, and nothing
keeps them back (R222). -/
def GoodPieces (s : State) (r w : Bool) (n : Nat) (addrs : List Nat) (ts : List Xlat) (u : State) : Prop :=
  (∀ a ∈ addrs, a % n = 0) ∧ s.xlateAll (s.curAccess r w) (addrs.map (· % 2 ^ 60)) = (.ok ts, u) ∧
  ∀ t ∈ ts, t.pa % n = 0 ∧ u.elsewhere t.pa = false ∧ (if w then u.StoreClear t ts.length else u.LoadClear t n)

/-- The bytes of a value of pieces of `n` bytes are those a load of them may see. -/
def PiecesSeen (u : State) (n v : Nat) (ts : List Xlat) : Prop :=
  ∀ i (h : i < ts.length), ∀ k < n, SeenByte u (u.home ts[i].pa + k) (v / 256 ^ (n * i + k) % 256)

/-- The bytes of a value of pieces of `n` bytes are the coherent ones, those buffered in the context's own region over them
(R101, R189). -/
def PiecesCoherent (u : State) (n v : Nat) (ts : List Xlat) : Prop :=
  ∀ i (h : i < ts.length), ∀ k < n, v / 256 ^ (n * i + k) % 256 = (match sbufByte u.cur.sbuf (u.home ts[i].pa + k) with
    | some x => x.toNat
    | none => u.physRead (u.home ts[i].pa + k) 1)

/-- Byte `p` lies in piece `i` at offset `k`. -/
def InPiece (u : State) (n : Nat) (ts : List Xlat) (p i k : Nat) : Prop :=
  k < n ∧ ∃ h : i < ts.length, u.home p % 2 ^ 52 = (u.home ts[i].pa + k) % 2 ^ 52

/-- Stores of the pieces of `v` in ascending order (R160): each byte takes that of the last piece that covers it, and every
byte that none covers reads as before. -/
def PiecesStored (u w : State) (n v : Nat) (ts : List Xlat) : Prop :=
  (∀ p i k, InPiece u n ts p i k → (∀ j q, i < j → ¬InPiece u n ts p j q) →
    w.physRead p 1 = v / 256 ^ (n * i + k) % 256) ∧
  (∀ p, (∀ i k, ¬InPiece u n ts p i k) → w.physRead p 1 = u.physRead p 1)

/-- A write is on its way into the scratchpads that a store to `a` reaches (R158, R213, R214): the issuing core's own at the
end of the cycle, or, inside the multicast window, those of the window's targets after 6 cycles. -/
def OnItsWay (s t : State) (a n v : Nat) : Prop :=
  let ctx := s.issue.ctx
  let now := s.now ctx
  ∀ core, (t.core core).writes = (s.core core).writes ++
    (if s.pre.inWindow a then
      (if core / 16 = clusterOf ctx ∧ s.pre.mcmask.getLsbD (core % 16) then [⟨now + 6, 1 + coreOf ctx % 16, a, n, v, none⟩]
       else [])
     else if core = coreOf ctx then [⟨now, 0, a, n, v, none⟩] else [])

/-- Nothing but scratchpad writes on their way, the bundle's lines and the gather port differs. -/
def OnlyPad (s t : State) : Prop :=
  SameBytes s t ∧ t.ctxs = s.ctxs ∧ t.pens = s.pens ∧ t.tasks = s.tasks ∧ t.cmds = s.cmds ∧
  (∀ k, (t.core k).scratch = (s.core k).scratch ∧ (t.core k).tiles = (s.core k).tiles ∧ (t.core k).l1 = (s.core k).l1)

/-- A slot after the last byte of a scratchpad write has landed: one DRAIN into it is done (R205). -/
def TileEnt.landed (e : TileEnt) : TileEnt := { e with
  drains := e.drains - 1
  state := if e.drains - 1 = 0 ∧ e.state = .draining then .ready else e.state }

/-- Some of a core's writes on their way have landed, in the order of `l`, and those that `stays` picks have not (R158, R184,
R214): the scratchpad takes their bytes one after another, a slot counts its DRAINs down, and nothing else of the core
differs. -/
def PadLanded (s t : State) (core : Nat) (l : List SpWrite) (stays : SpWrite → Bool) : Prop :=
  (t.core core).scratch = l.foldl (fun m w => cellsWrite m 20 w.addr w.n w.data) (s.core core).scratch ∧
  (∀ i, t.tile core i = (l.filter (fun w => w.drain == some i)).foldl (fun (e : TileEnt) _ => e.landed) (s.tile core i)) ∧
  t.core core = { s.core core with
    scratch := (t.core core).scratch
    tiles := (t.core core).tiles
    writes := (s.core core).writes.filter stays }

/-- Of the part only the ring descriptors of the issuing context and the tile entries of its core may differ. -/
def OnlyRings (s t : State) : Prop :=
  t.issue = s.issue ∧ t.cur = { s.cur with rings := t.cur.rings } ∧ (∀ k, k ≠ s.issue.ctx → t.ctx k = s.ctx k) ∧
  t.curCore = { s.curCore with tiles := t.curCore.tiles } ∧ (∀ k, k ≠ coreOf s.issue.ctx → t.core k = s.core k) ∧
  t.pens = s.pens ∧ t.tasks = s.tasks ∧ t.jobs = s.jobs ∧ t.cmds = s.cmds ∧ t.pools = s.pools ∧ SameBytes s t

/-- As `OnlyRings`, and no ring descriptor differs. -/
def OnlyTiles (s t : State) : Prop := OnlyRings s t ∧ t.cur = s.cur

/-- What `tset` and `tclr` clear in an entry (R208). -/
def TileEnt.Cleared (t : TileEnt) : Prop :=
  t.faulted = false ∧ t.fcode = 0 ∧ t.mass = 0 ∧ t.stall = 0xFFFFFFFF

/-- A command as its syllable asks for it (R268, R271): guard, unit, whether it is deferred, and its operands. -/
structure CmdForm where
  g : BitVec 4
  kind : CmdKind
  deferred : Bool
  rs2 : BitVec 6
  ord : BitVec 2
  pm : BitVec 2
  r1 : Word
  r2 : Word
  scope : Nat
  deriving DecidableEq, Repr

/-- The form of an ENG syllable. -/
def State.engForm (s : State) (o : EngOp) (k : CmdKind) (deferred : Bool) : CmdForm :=
  ⟨o.g, k, deferred, o.rs2, o.ord, o.pm, s.pre.x o.rs1, s.pre.x o.rs2, 0⟩

/-- The form of a trigger: deferred where a destination names device memory (R271, R286). -/
def State.trigForm (s : State) (o : TrigOp) (port : Nat) : CmdForm :=
  ⟨o.g, .trig port, portDevice (s.pre.x o.rs2) || portDevice (s.pre.port 4), o.rs2, o.ord, 0, s.pre.x o.rs1,
    s.pre.x o.rs2, 0⟩

/-- Table 19 of R271: the command that a syllable asks for, none for any other instruction. -/
def State.commandOf (s : State) : Instr → Option CmdForm
  | .xfer o => some (s.engForm o (.xfer 0) (bits (s.pre.engReg 0x009).toNat 63 62 == 0))
  | .xferQ1 o => some (s.engForm o (.xfer 1) (bits (s.pre.engReg 0x009).toNat 63 62 == 0))
  | .conv o => some (s.trigForm o 0x40)
  | .qfp8 o => some (s.trigForm o 0x41)
  | .qmx4 o => some (s.trigForm o 0x42)
  | .cmpr o => some (s.trigForm o 0x43)
  | .expd o => some (s.trigForm o 0x44)
  | .csum o => some (s.trigForm o 0x45)
  | .kvres o => some (s.engForm o (.kv 0) true)
  | .kvapp o => some (s.engForm o (.kv 1) true)
  | .kvfork o => some (s.engForm o (.kv 2) true)
  | .kvfree o => some (s.engForm o (.kv 3) true)
  | .kvcommit o => some (s.engForm o (.kv 4) true)
  | .kvtrunc o => some (s.engForm o (.kv 5) true)
  | .kvq o => some (s.engForm o (.kv 6) false)
  | .kvclass o => some (s.engForm o (.kv 7) true)
  | .kvatt o => some (s.engForm o (.kv 8) false)
  | .kvdemote o => some (s.engForm o (.tier 0) true)
  | .kvpromote o => some (s.engForm o (.tier 1) true)
  | .kvexport o => some (s.engForm o (.tier 2) true)
  | .kvimport o => some (s.engForm o (.tier 3) true)
  | .smpost o => some (s.engForm o .smpost true)
  | .hctld o => some (s.engForm o .hctld false)
  | .qpush o => some (s.engForm o .qpush true)
  | .publish o => some ⟨o.g, .publish, true, 0, 0, 0, s.pre.x o.rs1, 0, o.scope.toNat⟩
  | _ => none

/-- The record of a command: it has copied the registers and, for a trigger, the ports (R268, R286). -/
def State.commandRec (s : State) (f : CmdForm) : Cmd :=
  let k := { s.newCmd f.kind f.deferred f.ord f.r1 f.r2 with scope := f.scope }
  match f.kind with
  | .trig _ => { k with ports := sput 0 (sput 0 k.ports 0 f.r1) 1 f.r2 }
  | _ => k

/-- The first of a command's own checks that fails, with its address word: what its unit's rules check at issue. -/
def State.commandFault (s : State) (f : CmdForm) : Option (Code × Nat) :=
  let k := s.commandRec f
  let a := f.r1.toNat
  let r := f.r2.toNat
  match f.kind with
  | .xfer _ =>
    if k.xferReserved f.rs2 then some (.reservedField, 0)
    else match s.xferCheck k with
      | .error e => some e
      | .ok _ => none
  | .trig _ => none
  | .kv op =>
    if k.kvReserved op then some (.reservedField, 0)
    else if op = 8 ∧ s.badRings k then some (.ringMisuse, 0) else none
  | .tier op => if k.tierReserved op then some (.reservedField, 0) else none
  | .smpost =>
    let logits := bits (k.reg 0x200) 59 0
    if k.smpReserved ∨ 2 ^ 24 < k.smpFirst + k.smpCount then some (.reservedField, 0)
    else if logits % k.smpSize ≠ 0 then some (.misaligned, logits)
    else if (k.reg 0x200).testBit 63 ∧ 2 ^ 20 < logits + k.smpCount * k.smpSize then some (.permission, 0) else none
  | .hctld =>
    if a % 32 ≠ 0 then some (.misaligned, a % 2 ^ 60)
    else if r / 2 ^ 16 % 2 ^ 10 = 0 ∨ 512 < r % 2 ^ 9 + r / 2 ^ 16 % 2 ^ 10 ∨ r / 2 ^ 9 % 2 ^ 7 ≠ 0 ∨ r / 2 ^ 26 ≠ 0 then
      some (.reservedField, 0)
    else none
  | .qpush =>
    let q := (s.pre.engReg 0x040).toNat
    if 2 ^ 8 ≤ q then some (.reservedField, 0)
    else if (s.queue q).job ≠ s.jobOf s.issue.ctx ∨ (s.queue q).job = 0 then some (.permission, 0) else none
  | .publish =>
    if 3 < f.scope then some (.reservedField, 0)
    else if a < 16 ∧ (sget Win.reset (s.pen s.pre.pen.toNat).wins a).enable then none else some (.permission, 0)

/-- A command is held by its open region, or its queue takes it (R101, R271, R289, R290). -/
def State.commandHeld (s : State) (f : CmdForm) : Bool := f.deferred && s.cur.region.isSome
def State.commandRoom (s : State) (f : CmdForm) : Bool := s.commandHeld f || s.queueRoom f.kind s.issue.ctx

/-- The state field of a status entry (R273). -/
def Ctx.statusOf (c : Ctx) (id : BitVec 16) : Nat := (c.stat id).toNat / 2 ^ 32 % 8

/-- A command has taken its id and its status entry shows `state` (R272, R273); entries of other indexes stand. -/
def TookId (s t : State) (state : Nat) : Prop :=
  let id := s.pre.nextcid
  t.cur.nextcid = id + 1 ∧ (t.cur.stat id).toNat / 2 ^ 48 = id.toNat ∧ t.cur.statusOf id = state ∧
  ∀ j : BitVec 16, j.toNat % 64 ≠ id.toNat % 64 → t.cur.stat j = s.cur.stat j

/-- A command is spilled: it is not held, and 64 stand in the queue of its unit (R290). -/
def State.Spills (s : State) (f : CmdForm) : Prop :=
  s.commandHeld f = false ∧ ∃ u, unitOf f.kind s.issue.ctx = some u ∧ 64 ≤ s.queueLen u

/-- No earlier command of the task holds this one back by its order field (Table 21). -/
def State.InOrder (s : State) (f : CmdForm) : Prop :=
  ∀ c ∈ s.cmdsBefore (s.commandRec f), c.task = s.pre.task →
    f.ord ≠ 2 ∧ (f.ord = 1 → c.kind.group ≠ f.kind.group)

/-- A command is accepted (R268, R271 to R274): HELD in its region, WAITING, or RUNNING where nothing holds it. A fill has
armed its slot (R280), and the entries of an `hctld` are loading (R38). What the context stored before performs first (R275).
One that is spilled is written to its ring (R290), which no other byte, and nothing but the wake reason of a parked `waita`,
shows. -/
def Accepted (s t : State) (f : CmdForm) (ps : List (BitVec 16)) (p : PredSt) : Prop :=
  let r := s.commandRec f
  let clear : Prop := s.storesLeft s.pre.task = false ∧ ∀ c ∈ s.cmds, c.task ≠ s.pre.task ∧
    (unitOf c.kind c.ctx ≠ unitOf f.kind s.issue.ctx ∨ unitOf f.kind s.issue.ctx = none)
  (∃ k ∈ t.cmds, ∃ slot : Option Nat, k = { r with
      st := k.st
      slot := slot
      preds := ps
      rel := k.rel
      at_ := k.at_ } ∧
    (s.commandHeld f = true → k.st = .held ∧ TookId s t 1) ∧
    (s.commandHeld f = false →
      (k.st = .waiting ∧ TookId s t 2 ∨ k.st = .running ∧ TookId s t 3) ∧
      (p = .wait ∨ ¬s.InOrder f ∨ s.storesLeft s.pre.task = true → k.st = .waiting) ∧ (p = .go → clear → k.st = .running)) ∧
    (∀ i, slot = some i → (t.curCore.tile i).state = .filling ∧ (t.curCore.tile i).inflight = true ∧
      (t.curCore.tile i).cid = r.cid) ∧
    (slot.isSome = true ↔ (∃ q, f.kind = .xfer q) ∧ r.xfer.kind = 2)) ∧
  (f.kind = .hctld → ∀ n < f.r2.toNat / 2 ^ 16 % 2 ^ 10, t.cur.hctAt (f.r2.toNat % 2 ^ 9 + n) = .loading) ∧
  CtxsKept s t { s.cur with
    nextcid := t.cur.nextcid
    status := t.cur.status
    rings := t.cur.rings
    hct := t.cur.hct } ∧
  ((∀ q, f.kind ≠ .xfer q) → t.cur.rings = s.cur.rings ∧ t.curCore = s.curCore) ∧
  (f.kind ≠ .hctld → t.cur.hct = s.cur.hct) ∧
  t.pens = s.pens ∧ t.tasks = s.tasks ∧ t.jobs = s.jobs ∧
  (¬s.Spills f → SameBytes s t ∧ ∀ k, (t.ctx k).st = (s.ctx k).st)

/-- A command has taken its id and retired FAILED with a code, without a start (R274, R276). -/
def FailedAtOnce (s t : State) (code : Nat) (inherited : Bool) : Prop :=
  TookId s t 5 ∧ (t.cur.stat s.pre.nextcid).toNat / 2 ^ 40 % 256 = code ∧
  (t.cur.stat s.pre.nextcid).getLsbD 39 = inherited ∧
  (∀ k ∈ t.cmds, ¬(k.ctx = s.issue.ctx ∧ k.task = s.pre.task ∧ k.cid = s.pre.nextcid)) ∧
  t.cur.xs = s.cur.xs ∧ t.cur.ps = s.cur.ps ∧ t.cur.vs = s.cur.vs ∧ t.cur.region = s.cur.region

/-- The gang of the issuing task, of two tasks or more (R387). -/
def State.InGang (s : State) (g : Gang) : Prop :=
  ∃ k, sfind s.tasks s.cur.task = some k ∧ k.gang ≠ 0 ∧ sfind s.gangs k.gang = some g ∧ 2 ≤ g.size

/-- What the home has answered to the slot that issues. -/
def State.homeAnswer (s : State) : Option Bool := if s.issue.slot = .c then s.pre.ans.barC else s.pre.ans.barE

/-- A wait has ended (R390): its record is cleared, at release inside a region, and the core holds no RC line of before. -/
def RecordCleared (s t : State) (i : Nat) : Prop :=
  (∀ j, sfind t.cur.arrivals j = if s.cur.region.isSome then
      (sfind s.cur.arrivals j).map (fun a => if j = i then { a with pend := true } else a)
    else if j = i then none else sfind s.cur.arrivals j) ∧
  t = (s.setCore (coreOf s.issue.ctx) { s.curCore with l1 := s.curCore.l1.filter (fun l => l.kind != 1) }).setCtx s.issue.ctx
    { s.cur with arrivals := t.cur.arrivals } ∧
  SameBytes s t

/-- `k` lines of ring `h` from line `off` past its consumer cursor lie in `slot`, from byte address `a` (R211). -/
def State.Span (s : State) (h : BitVec 4) (off k slot a : Nat) : Prop :=
  let r := s.pre.ring h
  r.n ≠ 0 ∧ ∃ o, ringAt s.preTile r ((r.cc.toNat + off) % 2 ^ 32) = some (slot, o) ∧
    o + k ≤ (s.preTile slot).lines.toNat ∧ a = (s.preTile slot).byteBase + 128 * o

/-- A consumer of a slot waits (R144, R206, R211). -/
def State.SlotWaits (s : State) (slot : Nat) : Prop :=
  (s.preTile slot).state = .filling ∨ (s.preTile slot).state = .draining ∨
  ((s.preTile slot).state = .empty ∧ s.fillComing slot = true)

/-- A consumer can read a slot. -/
def State.SlotReads (s : State) (slot : Nat) : Prop :=
  (s.preTile slot).state = .ready ∧ (s.preTile slot).faulted = false

/-- A `vscatter` that is still to finish writes one of `k` lines from byte address `a` (R161). -/
def State.Scattered (s : State) (a k : Nat) : Prop := ∃ l ∈ s.issue.portLines, a / 128 ≤ l ∧ l < a / 128 + k

/-- A consumer of `k` lines of a slot waits, or can read them. -/
def State.UnitWaits (s : State) (slot a k : Nat) : Prop := s.SlotWaits slot ∨ (s.SlotReads slot ∧ s.Scattered a k)
def State.UnitReads (s : State) (slot a k : Nat) : Prop := s.SlotReads slot ∧ ¬s.Scattered a k

/-- A consumer cursor has moved by `c` lines (R212, Table 3 of R205, R103): the READY slots that it leaves empty, or, inside a
region, wait for the release. -/
def ConsumerMoved (s t : State) (h : BitVec 4) (c : Nat) : Prop :=
  let q := s.cur.ring h
  let gone := ringLeaves (s.tile (coreOf s.issue.ctx)) q (q.n + c) q.cc.toNat c
  (∀ j, t.cur.ring j = if j = h then { q with cc := q.cc + BitVec.ofNat 32 c } else s.cur.ring j) ∧
  (∀ i ∈ gone, (s.curCore.tile i).state = .ready →
    (s.cur.region = none → (t.curCore.tile i).state = .empty ∧ (t.curCore.tile i).faulted = false ∧
      (t.curCore.tile i).mass = 0 ∧ (t.curCore.tile i).stall = 0xFFFFFFFF) ∧
    (s.cur.region.isSome → t.curCore.tile i = { s.curCore.tile i with relpend := true })) ∧
  (∀ i, i ∉ gone ∨ (s.curCore.tile i).state ≠ .ready → t.curCore.tile i = s.curCore.tile i) ∧
  ((∀ i ∈ gone, (s.curCore.tile i).stall = 0xFFFFFFFF) → SameBytes s t)

/-- What a beat's advance bit does to its ring. -/
def Advanced (s t : State) (adv : BitVec 1) (h : BitVec 4) (c : Nat) : Prop :=
  if adv = 1 then ConsumerMoved s t h c
  else t.cur.rings = s.cur.rings ∧ (∀ i, t.curCore.tile i = s.curCore.tile i) ∧ SameBytes s t

/-- What a beat leaves alone besides. -/
def BeatKept (s t : State) (ls : List Nat) : Prop :=
  t.issue = { s.issue with lines := ls } ∧ t.cur.xs = s.cur.xs ∧ t.cur.ps = s.cur.ps ∧ t.cur.vs = s.cur.vs ∧
  t.cur.ms = s.cur.ms ∧ t.cur.es = s.cur.es ∧ t.cur.region = s.cur.region ∧ t.cur.loops = s.cur.loops ∧
  t.curCore.scratch = s.curCore.scratch ∧ t.tasks = s.tasks ∧ t.cmds = s.cmds ∧ t.pens = s.pens

/-- Operand fields give values (R144): every one is read where an active element uses it, and the lines of all meet no bank
conflict with those that the bundle has read; `u` is the state with them counted. -/
def State.Reads (s : State) (srcs : List (BitVec 7 × Bool)) (vals : List Nat) (u : State) : Prop :=
  ∃ lines ls, srcs.map (fun p => s.operand p.1 p.2) = List.zipWith Opnd.val vals lines ∧ vals.length = srcs.length ∧
    lines.length = srcs.length ∧ addLines s.issue.lines lines.flatten = some ls ∧
    u = { s with issue := { s.issue with lines := ls } }

/-- The merge of R141 over `n` elements of width `w`, and the events of the active elements (R86). -/
def Merged (act : Nat → Bool) (zero : Bool) (w n : Nat) (old v : VWord) (fl : Flags) (f : Nat → Nat × Flags) : Prop :=
  (∀ i < n, v.toNat / 2 ^ (w * i) % 2 ^ w =
    if act i then (f i).1 % 2 ^ w else if zero then 0 else old.toNat / 2 ^ (w * i) % 2 ^ w) ∧
  ∀ b < 5, fl.getLsbD b = true ↔ ∃ i < n, act i = true ∧ (f i).2.getLsbD b = true

/-- A vector result, merged, readable after `lat` cycles; nothing else of the part changes. -/
def VecGives (s t : State) (vd : BitVec 6) (lat : Nat) (act : Nat → Bool) (zero : Bool) (w n : Nat)
    (f : Nat → Nat × Flags) : Prop :=
  ∃ v fl, WroteV s t vd v lat fl ∧ Merged act zero w n (s.pre.v vd) v fl f

/-- Element `i` of `n` is active under an operation's governing mask (R140). -/
def State.act (s : State) (mask : BitVec 4) (n i : Nat) : Bool := (s.pre.m mask).getLsbD (i * 64 / n)

/-- Some element of a set is active, so that a source which the set uses is read. -/
def State.uses (s : State) (mask : BitVec 4) (n : Nat) (p : Nat → Bool) : Bool :=
  (List.range n).any (fun i => s.act mask n i && p i)

/-- The masks of a vector compare (R148): each lane's condition folds into the two masks as Table 6 of R130 says, with the
lane's governing bit as guard; a bit that it does not write stays as it stands (the model's reading, assumption log 87). -/
def CompareWrote (s t : State) (o : VOp) (cond : Nat → Bool) (fl : Flags) : Prop :=
  let ct := o.d % 8
  let acc : Bool := ct ≠ 0 ∧ ct ≠ 1 ∧ ct ≠ 4
  let pa : BitVec 4 := BitVec.ofNat 4 (2 * (o.d / 8))
  let pb : BitVec 4 := BitVec.ofNat 4 (2 * (o.d / 8) + 1)
  let oa := s.maskIn acc pa
  let ob := s.maskIn acc pb
  ∃ va vb : BitVec 64,
    (∀ j < 64, (va.getLsbD j, vb.getLsbD j) =
      if (s.pre.m o.mask).getLsbD j then pairTable ct (cond j) (oa.getLsbD j) (ob.getLsbD j)
      else if ct = 1 then (false, false) else ((s.cur.m pa).getLsbD j, (s.cur.m pb).getLsbD j)) ∧
    (∀ j, t.cur.m j = if j = 0 then BitVec.allOnes 64 else if j = pb then vb else if j = pa then va else s.cur.m j) ∧
    (∀ k, sget 0 t.cur.sb k = if k = keyM pa ∨ k = keyM pb then s.now s.issue.ctx + 4 else sget 0 s.cur.sb k) ∧
    Raised s t fl ∧ SameBytes s t ∧
    t = { s.setCtx s.issue.ctx { s.cur with
        ms := t.cur.ms
        sb := t.cur.sb
        fpflags := t.cur.fpflags
        fprec := t.cur.fprec } with
      issue := { s.issue with accM := t.issue.accM } }

/-- The groom that runs a word becomes `g`; nothing else of the part changes. -/
def GroomBecomes (s t : State) (g : Groom) : Prop :=
  (∀ c, t.groom c = if c = s.groomNow then g else s.groom c) ∧ t = { s with grooms := t.grooms } ∧ SameBytes s t

/-- Register w[wd] of the groom that runs takes `f` lane by lane, and its mode `greedy`. -/
def LanesBecome (s t : State) (wd : BitVec 4) (greedy : Bool) (f : Nat → Nat) : Prop :=
  let g := s.groom s.groomNow
  ∃ g', GroomBecomes s t g' ∧ (∀ i < 16, g'.lane wd.toNat i = f i % 2 ^ 32) ∧
    (∀ k, k ≠ wd.toNat → g'.wReg k = g.wReg k) ∧ g' = { g with
      w := g'.w
      greedy := greedy }

/-- Some k registers of the groom that runs take values of 32 bits. -/
def KsBecome (s t : State) (v : List (Nat × Nat)) : Prop :=
  let g := s.groom s.groomNow
  ∃ g', GroomBecomes s t g' ∧ (∀ k, g'.kReg k = match v.find? (fun p => p.1 == k) with
    | some p => p.2 % 2 ^ 32
    | none => g.kReg k) ∧ g' = { g with k := g'.k }

/-- The request that runs changes to `r`. -/
def RunBecomes (s t : State) (r : GroomRun) : Prop := GroomBecomes s t { s.groom s.groomNow with run := some r }

/-- The request fails at the word that runs (R363). -/
def WordFails (s t : State) (c : Code) : Prop :=
  GroomBecomes s t { s.groom s.groomNow with
    run := (s.groom s.groomNow).run.map (fun r => { r with fail := some (c, r.prog + 4 * r.ix) }) }

/-- Two commands stand for one: context, id and task agree. -/
def Cmd.same (c k : Cmd) : Prop := c.ctx = k.ctx ∧ c.cid = k.cid ∧ c.task = k.task

/-- The status entry of a command, where its task is on a context and the entry still holds the id, reads `v` below the id
(R273). -/
def StatusIs (u t : State) (k : Cmd) (v : Nat) : Prop :=
  ∀ q n, sfind u.tasks k.task = some q → q.st = .on n → ((u.ctx n).stat k.cid).toNat / 2 ^ 48 = k.cid.toNat →
    ((t.ctx n).stat k.cid).toNat = k.cid.toNat * 2 ^ 48 + v

/-- No context changes but in its status entries, in the wake reason of a parked `waita` and, where `ports` says so, in the
transform unit's ports. -/
def OnlyStatus (u t : State) (ports : Bool) : Prop :=
  ∀ n, { t.ctx n with
    st := (u.ctx n).st
    status := (u.ctx n).status
    ports := if ports then (u.ctx n).ports else (t.ctx n).ports } = u.ctx n

/-- A command is an operation of the transform unit. -/
def Cmd.isTrig (k : Cmd) : Bool :=
  match k.kind with
  | .trig _ => true
  | _ => false

/-- A command is gone and its status entry shows how it ended (R273, R277): an aborted one as CANCELLED. -/
def Retired (u t : State) (k : Cmd) (code : Nat) (inh : Bool) (state progress : Nat) : Prop :=
  (∀ c, c ∈ t.cmds ↔ c ∈ u.cmds ∧ ¬c.same k) ∧
  StatusIs u t k ((if k.aborted then 6 * 2 ^ 32 else code * 2 ^ 40 + (if inh then 2 ^ 39 else 0) + state * 2 ^ 32) +
    min progress (2 ^ 32 - 1)) ∧ OnlyStatus u t k.isTrig

/-- The slot that a fill armed, where it still holds that fill, becomes `f` of what it was (R205, R206). -/
def SlotEnds (u t : State) (k : Cmd) (f : TileEnt → TileEnt → Prop) : Prop :=
  ∀ i, k.slot = some i → u.lives k = true → (u.tile (coreOf k.ctx) i).cid = k.cid →
    (u.tile (coreOf k.ctx) i).inflight = true → f (u.tile (coreOf k.ctx) i) (t.tile (coreOf k.ctx) i)

/-- A command retires DONE: its slot is READY, and no byte of memory changes. -/
def EndsDone (u t : State) (k : Cmd) (progress : Nat) : Prop :=
  Retired u t k 0 false 4 progress ∧ SameBytes u t ∧
  SlotEnds u t k (fun e f => f.state = .ready ∧ f.inflight = false ∧ f.faulted = false ∧ f.fcode = 0 ∧ f.mass = e.mass) ∧
  t = { u with
    cmds := t.cmds
    ctxs := t.ctxs
    tasks := t.tasks
    spills := t.spills
    cores := t.cores }

/-- A command itself meets `TABLE_STRUCTURE`, which ends its pen's work, unless later bundles consume what it brings and
raise its fault (R437). -/
def Cmd.endsPen (k : Cmd) (f : FailAt) (inh : Bool) : Prop :=
  inh = false ∧ f.code = Code.tableStructure.num ∧ k.slot = none ∧ k.kind ≠ .hctld ∧ k.kind ≠ .kv 8

/-- What the failure of a command does (R274, R276, R286): its slot is READY and faulted, and an operation of the transform
unit gives its code and id in its result ports, with RAMAX 0 for one that does not quantise; a deferred one posts a record of
source 5, or counts it as lost where its queue has no room. -/
def FailedAlone (u t : State) (k : Cmd) (f : FailAt) (kv inh : Bool) (progress : Nat) : Prop :=
  Retired u t k f.code inh 5 progress ∧
  (k.isTrig = true → ∀ q n, sfind u.tasks k.task = some q → q.st = .on n →
    (t.ctx n).port 0x80 = BitVec.ofNat 64 f.code ∧ (t.ctx n).port 0x83 = BitVec.ofNat 64 k.cid.toNat ∧
    (k.kind ≠ .trig 0x41 → k.kind ≠ .trig 0x42 → (t.ctx n).port 0x82 = 0)) ∧
  SlotEnds u t k (fun _ g => g.state = .ready ∧ g.inflight = false ∧ g.faulted = true ∧ g.fcode = BitVec.ofNat 8 f.code) ∧
  (k.deferred = false → SameBytes u t ∧ t.seq = u.seq) ∧
  (k.deferred = true → t.seq = u.seq + 1 ∧
    ((u.pen k.pen).fqOpen = true → Recorded u t k.pen (u.cmdRecord k f kv).words) ∧
    ((u.pen k.pen).fqOpen = false → (t.pen k.pen).fqLost = satInc (u.pen k.pen).fqLost))

/-- A command retires FAILED (R274, R276), and ends its pen's work where it has met `TABLE_STRUCTURE` (R437). -/
def EndsFailed (u t : State) (k : Cmd) (f : FailAt) (kv inh : Bool) (progress : Nat) : Prop :=
  (k.endsPen f inh → (t.pen k.pen).root.getLsbD 0 = false ∧ ∀ c ∈ t.cmds, ¬c.same k) ∧
  (¬k.endsPen f inh → FailedAlone u t k f kv inh progress)

/-- A command changes where it stands, and no byte of memory does. -/
def CmdBecomes (u t : State) (k : Cmd) (f : Cmd → Cmd → Prop) : Prop :=
  SameBytes u t ∧ OnlyStatus u t false ∧ (∀ c ∈ u.cmds, ¬c.same k → c ∈ t.cmds) ∧
  (∀ c ∈ u.cmds, c.same k → ∃ d ∈ t.cmds, f c d)

/-- The state in which a step of a unit runs that budgets admit as a whole: its HBM requests are noted (R394, R396). -/
def State.tallied (s : State) : State := { s with tally := some [] }

/-- Budgets admit every access that a step makes, `paid` of them before (R394, R396): no budget of its activity or of a pen
that it asks for holds one that is left. -/
def State.Admits {α : Type} (s : State) (kind sel paid : Nat) (f : State → α × State) : Prop :=
  s.tally = none ∧ ∃ r t, s.metered kind sel true paid f = (.ok r, t)

/-- A command is about to take its step. -/
def State.unpaid (s : State) (k : Cmd) : State := s.updCmd k (fun c => { c with paid := 0 })

/-- Budgets admit a step `f` of a command as a whole (R396). -/
def State.Pays (s : State) (k : Cmd) (kind sel : Nat) (f : State → State) : Prop :=
  s.Admits kind sel k.paid (fun s => ((), f (s.unpaid k)))

/-- Nothing differs but how much of a unit's next step budgets have admitted (R396). -/
def OnlyPaid (s t : State) : Prop := t = { s with paidBy := t.paidBy }

/-- Nothing differs but that, and what HBM requests leave. -/
def OnlyAsked (s t : State) : Prop := ∃ u, Charged s u ∧ OnlyPaid u t

/-- One context becomes `c`; nothing else of the part changes. -/
def CtxIs (s t : State) (n : Nat) (c : Ctx) : Prop :=
  (∀ k, t.ctx k = if k = n then c else s.ctx k) ∧ t = { s with ctxs := t.ctxs } ∧ SameBytes s t

/-- A parked `waita` ends with a reason, and its context's monitors are gone (R257, R258). -/
def WaitaEnds (s t : State) (n why : Nat) : Prop :=
  (∀ k, t.ctx k = if k = n then { s.ctx n with
      st := .ready
      ans := { (s.ctx n).ans with wake := some why } }
    else s.ctx k) ∧
  (∀ m ∈ (t.cluster (n / 32)).mons, m.ctx ≠ n) ∧ (∀ k ≠ n / 32, t.cluster k = s.cluster k) ∧
  t = { s with
    ctxs := t.ctxs
    clusters := t.clusters } ∧ SameBytes s t

/-- The guard of a syllable (R24); the slots of a horizontal control word and X16 have the wide guard (R39). -/
def guardOf (i : Instr) : Option (BitVec 4) :=
  match i with
  | .region o | .commit o | .lpop o | .yield o | .tlbshPen o | .tlbshPenG o | .texit o | .nop o => some o.g
  | .ret o | .jr o | .tclr o | .barArrReg o | .barWaitReg o | .barSyncReg o | .jraise o => some o.g
  | .twait o | .tlbshRange o | .tset o | .mcwin o | .barInitReg o => some o.g
  | .br o | .call o => some o.g
  | .brX o => some o.g
  | .loop o => some o.g
  | .loopi o => some o.g
  | .brv o | .brvAny o | .brvAll o => some o.g
  | .trap o | .sys o => some o.g
  | .add o | .sub o | .and_ o | .or_ o | .xor o | .andn o | .shl o | .shr o | .sra o | .rot o | .min o
    | .max o | .minu o | .maxu o | .mul o | .mulh o | .mulhu o | .div o | .divu o | .rem o | .remu o | .bfx o
    | .bfi o | .fadd o | .fmul o | .ffma o | .vldDevice o | .vldScratchpad o | .vstDevice o | .vstScratchpad o
    | .vldsDevice o | .vldsScratchpad o | .vgatherDevice o | .vgatherScratchpad o | .vscatterDevice o
    | .vscatterScratchpad o | .waita o | .tread o | .pop o | .popTry o => some o.g
  | .sel o => some o.g
  | .clz o | .ctz o | .popc o | .extB o | .extH o | .extW o | .extBu o | .extHu o | .extWu o | .tlook o
    | .xwait o | .xpoll o | .tget o => some o.g
  | .addi o | .andi o | .ori o | .xori o | .shli o | .shri o | .srai o => some o.g
  | .lui o | .addpc o => some o.g
  | .cmp o | .cmpi o | .fcmp o => some o.g
  | .tbit o => some o.g
  | .pmov o | .pmovN o => some o.g
  | .pmovGet o | .pmovSet o => some o.g
  | .mfsr o | .mtsr o | .erd o | .ewr o => some o.g
  | .fcvt o => some o.g
  | .ld o | .st o => some o.g
  | .ldAcq o | .stRel o => some o.g
  | .vmvx o | .vmxv o | .vbx o => some o.g
  | .mldDevice o | .mldScratchpad o | .mstDevice o | .mstScratchpad o => some o.g
  | .cfl o | .cinv o | .cpf o | .cwb o => some o.g
  | .atom o | .atomF o | .cas o => some o.g
  | .fence o => some o.g
  | .rdef o => some o.g
  | .radv o | .padv o => some o.g
  | .rcnt o => some o.g
  | .xfer o | .xferQ1 o | .kvres o | .kvapp o | .kvfork o | .kvfree o | .kvcommit o | .kvtrunc o | .kvq o
    | .kvclass o | .kvatt o | .kvdemote o | .kvpromote o | .kvexport o | .kvimport o | .smpost o | .hctld o
    | .qpush o => some o.g
  | .tmov o => some o.g
  | .conv o | .qfp8 o | .qmx4 o | .cmpr o | .expd o | .csum o => some o.g
  | .publish o => some o.g
  | .barInitImm o => some o.g
  | .barArrImm o | .barWaitImm o | .barSyncImm o => some o.g
  | _ => none

/-- The operations run by their own meanings, one after another, and each has its effect: none waits or faults. -/
def Ran : List SlotOp → State → State → Prop
  | [], s, t => t = s
  | o :: r, s, t => ∃ w,
      exec o.instr { s with issue := { s.issue with
        slot := o.slot
        status := .ok
        post := none } } = .next w ∧
      w.issue.status = .ok ∧ Ran r w t

/-- The step from `s` is the cycle of a context's cluster in which that context issues alone and leaves `v`: the merge
stage clears the marks of the core's contexts, and what ends a cycle of the cluster follows. -/
def CycleLeaves (s : State) (ctx : Nat) (v : State) : Prop :=
  ∃ u : State, step s = .next (u.endCycle (ctx / 32)) ∧
    u = { v with
      issue := Issue.none
      ctxs := u.ctxs
      cores := u.cores } ∧
    (∀ n, u.ctx n = if n / 2 = ctx / 2 then { v.ctx n with
        denial := 0
        sole := false
        yielded := (v.ctx n).yielded && !(s.ctx n).yielded } else v.ctx n) ∧
    (∀ k, u.core k = { v.core k with sfuPassed := (u.core k).sfuPassed })


/-- The width of a word of each kind (R22, R34, R54). -/
def wordWidth : WordKind → Nat
  | .syllable | .sfu | .logit => 32
  | .beat => 16
  | .scale => 24
  | .vector => 48

end Sys2Proof.Machine
end

