-- ==== Sys2Proof/Certificates/Slice0/Obligations.lean ====
section
/-! DEFINITION. The statements. -/

open Sys2Proof Sys2Proof.Machine

/-! ### Scalar syllables -/

/-- R121, R122, R127, R128, Table 2: the fourteen integer operations as exact integers narrowed to 64 bits, their
immediate forms, `lui` and `addpc`. -/
def Obligations.IntegerResults : Prop :=
  (∀ (o : RROp) (s : State), s.pre.p o.g = true →
    let a := s.pre.x o.rs1
    let b := s.pre.x o.rs2
    let n := b.toNat % 64
    let gives (i : Instr) (v : Word) : Prop := Completes i s (WroteX s · o.rd v 1)
    gives (.add o) (BitVec.ofNat 64 (a.toNat + b.toNat)) ∧
    gives (.sub o) (BitVec.ofInt 64 (a.toInt - b.toInt)) ∧
    gives (.and_ o) (BitVec.ofNat 64 (a.toNat &&& b.toNat)) ∧
    gives (.or_ o) (BitVec.ofNat 64 (a.toNat ||| b.toNat)) ∧
    gives (.xor o) (BitVec.ofNat 64 (a.toNat ^^^ b.toNat)) ∧
    gives (.andn o) (BitVec.ofNat 64 (a.toNat &&& (2 ^ 64 - 1 - b.toNat))) ∧
    gives (.shl o) (BitVec.ofNat 64 (a.toNat * 2 ^ n)) ∧
    gives (.shr o) (BitVec.ofNat 64 (a.toNat / 2 ^ n)) ∧
    gives (.sra o) (BitVec.ofInt 64 (a.toInt / 2 ^ n)) ∧
    gives (.rot o) (BitVec.ofNat 64 (a.toNat / 2 ^ n ||| a.toNat * 2 ^ (64 - n))) ∧
    gives (.min o) (BitVec.ofInt 64 (min a.toInt b.toInt)) ∧
    gives (.max o) (BitVec.ofInt 64 (max a.toInt b.toInt)) ∧
    gives (.minu o) (BitVec.ofNat 64 (min a.toNat b.toNat)) ∧
    gives (.maxu o) (BitVec.ofNat 64 (max a.toNat b.toNat))) ∧
  (∀ (o : RIOp) (s : State), s.pre.p o.g = true →
    let a := s.pre.x o.rs1
    let k := o.imm.toInt
    let n := o.imm.toNat % 64
    let gives (i : Instr) (v : Word) : Prop := Completes i s (WroteX s · o.rd v 1)
    gives (.addi o) (BitVec.ofInt 64 (a.toInt + k)) ∧
    gives (.andi o) (a &&& BitVec.ofInt 64 k) ∧
    gives (.ori o) (a ||| BitVec.ofInt 64 k) ∧
    gives (.xori o) (a ^^^ BitVec.ofInt 64 k) ∧
    gives (.shli o) (BitVec.ofNat 64 (a.toNat * 2 ^ n)) ∧
    gives (.shri o) (BitVec.ofNat 64 (a.toNat / 2 ^ n)) ∧
    gives (.srai o) (BitVec.ofInt 64 (a.toInt / 2 ^ n))) ∧
  (∀ (o : RUOp) (s : State), s.pre.p o.g = true →
    Completes (.lui o) s (WroteX s · o.rd (BitVec.ofNat 64 ((s.pre.x o.rd).toNat * 2 ^ 16 + o.imm.toNat)) 1) ∧
    Completes (.addpc o) s (WroteX s · o.rd ((pcPlus s.issue.pc o.imm.toInt).setWidth 64) 1))

/-- R120, R123, Table 4: products and quotients; a divide takes 4 + q cycles of its context's divider, q the
significant bits of the quotient, and 4 for a zero divisor. -/
def Obligations.MultiplyDivideResults : Prop :=
  ∀ (o : RROp) (s : State), s.pre.p o.g = true →
    let a := s.pre.x o.rs1
    let b := s.pre.x o.rs2
    let start := max (s.now s.issue.ctx) s.cur.divFree
    let divides (i : Instr) (v : Word) (q : Nat) : Prop := Completes i s (fun t =>
      let done := start + 4 + Nat.size q
      XsAfter s t o.rd v ∧ t.cur.divFree = done ∧ Marked s t (keyX o.rd) (done - s.now s.issue.ctx) ∧
      OnlyCtx s t { s.cur with
        xs := t.cur.xs
        sb := t.cur.sb
        divFree := t.cur.divFree })
    Completes (.mul o) s (WroteX s · o.rd (BitVec.ofInt 64 (a.toInt * b.toInt)) 3) ∧
    Completes (.mulh o) s (WroteX s · o.rd (BitVec.ofInt 64 (a.toInt * b.toInt / 2 ^ 64)) 3) ∧
    Completes (.mulhu o) s (WroteX s · o.rd (BitVec.ofNat 64 (a.toNat * b.toNat / 2 ^ 64)) 3) ∧
    (b = 0 →
      divides (.div o) (BitVec.ofInt 64 (-1)) 0 ∧ divides (.divu o) (BitVec.ofNat 64 (2 ^ 64 - 1)) 0 ∧
      divides (.rem o) a 0 ∧ divides (.remu o) a 0) ∧
    (b ≠ 0 →
      divides (.div o) (BitVec.ofInt 64 (a.toInt.tdiv b.toInt)) (a.toInt.tdiv b.toInt).natAbs ∧
      divides (.divu o) (BitVec.ofNat 64 (a.toNat / b.toNat)) (a.toNat / b.toNat) ∧
      divides (.rem o) (BitVec.ofInt 64 (a.toInt.tmod b.toInt)) (a.toInt.tdiv b.toInt).natAbs ∧
      divides (.remu o) (BitVec.ofNat 64 (a.toNat % b.toNat)) (a.toNat / b.toNat))

/-- R124, R125, R126, Table 5: counts, extensions, bit fields and `sel`. -/
def Obligations.BitFieldResults : Prop :=
  (∀ (o : RUnOp) (s : State), s.pre.p o.g = true →
    let a := s.pre.x o.rs1
    let gives (i : Instr) (v : Word) : Prop := Completes i s (WroteX s · o.rd v 1)
    (∃ k ≤ 64, (∀ i, 64 - k ≤ i → a.getLsbD i = false) ∧ (k < 64 → a.getLsbD (63 - k) = true) ∧
      gives (.clz o) (BitVec.ofNat 64 k)) ∧
    (∃ k ≤ 64, (∀ i < k, a.getLsbD i = false) ∧ (k < 64 → a.getLsbD k = true) ∧
      gives (.ctz o) (BitVec.ofNat 64 k)) ∧
    gives (.popc o) (BitVec.ofNat 64 (Finset.univ.filter (fun i : Fin 64 => a.getLsbD i = true)).card) ∧
    gives (.extB o) (BitVec.ofInt 64 (sextInt a.toNat 8)) ∧
    gives (.extH o) (BitVec.ofInt 64 (sextInt a.toNat 16)) ∧
    gives (.extW o) (BitVec.ofInt 64 (sextInt a.toNat 32)) ∧
    gives (.extBu o) (BitVec.ofNat 64 (a.toNat % 2 ^ 8)) ∧
    gives (.extHu o) (BitVec.ofNat 64 (a.toNat % 2 ^ 16)) ∧
    gives (.extWu o) (BitVec.ofNat 64 (a.toNat % 2 ^ 32))) ∧
  (∀ (o : RROp) (s : State), s.pre.p o.g = true →
    (∃ v : Word, (∀ i < 64, v.getLsbD i = bfxBit (s.pre.x o.rs1) (s.pre.x o.rs2) i) ∧
      Completes (.bfx o) s (WroteX s · o.rd v 1)) ∧
    (∃ v : Word, (∀ i < 64, v.getLsbD i = bfiBit (s.pre.x o.rd) (s.pre.x o.rs1) (s.pre.x o.rs2) i) ∧
      Completes (.bfi o) s (WroteX s · o.rd v 1))) ∧
  (∀ (o : SelOp) (s : State), s.pre.p o.g = true →
    Completes (.sel o) s (WroteX s · o.rd (if s.pre.p o.p then s.pre.x o.rs1 else s.pre.x o.rs2) 1))

/-- R129 to R131, R133, Table 6: compares write their pair under a true guard; under a false one only `.gpair` writes,
and clears both. `fcmp` compares FP32 patterns and raises what `fcmpCond` says. Predicate moves copy one predicate or
all. The model's choices here: assumption log 30. -/
def Obligations.ComparesAndPredicates : Prop :=
  (∀ (s : State),
    (∀ (o : CmpOp), s.pre.p o.g = true →
      (∀ c : Bool, (c = true ↔ condTable o.cc.toNat (s.pre.x o.rs1) (s.pre.x o.r)) →
        Completes (.cmp o) s (PairWritten s · o.pair o.ct c fNone)) ∧
      (∀ c : Bool, (c = true ↔ condTable o.cc.toNat (s.pre.x o.rs1) (BitVec.ofInt 64 o.r.toInt)) →
        Completes (.cmpi o) s (PairWritten s · o.pair o.ct c fNone)) ∧
      (∀ r : Bool × Flags, r = fcmpCond o.cc.toNat (fmtF32.decode ((s.pre.x o.rs1).toNat % 2 ^ 32))
          (fmtF32.decode ((s.pre.x o.r).toNat % 2 ^ 32)) →
        Completes (.fcmp o) s (PairWritten s · o.pair o.ct r.1 r.2))) ∧
    (∀ (o : TbitOp), s.pre.p o.g = true →
      let n := if o.i = 1 then o.r.toNat else (s.pre.x o.r).toNat % 64
      Completes (.tbit o) s (PairWritten s · o.pair o.ct ((s.pre.x o.rs1).getLsbD n != (o.c == 1)) fNone)) ∧
    (∀ (g : BitVec 4) (k : BitVec 3) (i : Instr), s.pre.p g = false →
      ((∃ o : CmpOp, o.g = g ∧ o.pair = k ∧ o.ct = 1 ∧ (i = .cmp o ∨ i = .cmpi o ∨ i = .fcmp o)) ∨
        (∃ o : TbitOp, o.g = g ∧ o.pair = k ∧ o.ct = 1 ∧ i = .tbit o)) →
      Completes i s (WroteP s · (fun j => if j.toNat / 2 = k.toNat then false else s.cur.p j) fNone))) ∧
  (∀ (s : State),
    (∀ (o : PmovOp), s.pre.p o.g = true →
      Completes (.pmov o) s (WroteP s · (fun j => if j = o.pd then s.pre.p o.ps else s.cur.p j) fNone) ∧
      Completes (.pmovN o) s (WroteP s · (fun j => if j = o.pd then !s.pre.p o.ps else s.cur.p j) fNone)) ∧
    (∀ (o : PfOp), s.pre.p o.g = true →
      (∃ v : Word, (∀ i : BitVec 4, v.getLsbD i.toNat = s.pre.p i) ∧ v.toNat < 2 ^ 16 ∧
        Completes (.pmovGet o) s (WroteX s · o.r v 1)) ∧
      Completes (.pmovSet o) s (WroteP s · (fun j => (s.pre.x o.r).getLsbD j.toNat) fNone)))

/-- R136, R97, R5, Table 7: `mfsr` reads every system register, bits [63:37] of a beat format entry as 0 (Table 2 of
R178); `mtsr` writes under the access code of each, and a read-only one ignores it. Nothing else of the part changes.
The model's choices here: assumption log 34, 88. -/
def Obligations.SystemRegisters : Prop :=
  (∀ (o : SrOp) (s : State), s.pre.p o.g = true →
    let reads (v : Word) : Prop := Completes (.mfsr o) s (WroteX s · o.rd v 1)
    let c := s.pre
    (o.idx = 0x000 → reads c.wid) ∧
    (o.idx = 0x001 → reads (c.pen.setWidth 64)) ∧
    (o.idx = 0x002 → reads (c.prio.setWidth 64)) ∧
    (o.idx = 0x003 → reads (BitVec.ofNat 64 s.issue.ctx)) ∧
    (o.idx = 0x004 → reads (BitVec.ofNat 64 (s.cluster (s.issue.ctx / 32)).cycle)) ∧
    (o.idx = 0x008 → reads c.fpflags) ∧
    (o.idx = 0x009 → reads c.fprec) ∧
    (o.idx = 0x00A → reads (c.mpc.setWidth 64)) ∧
    (o.idx = 0x00B → reads (c.waitlim.setWidth 64)) ∧
    (∀ n < 6, o.idx.toNat = 0x010 + n →
      reads (BitVec.ofNat 64 (match c.loops[n]? with
        | some e => e.rem.toNat * 2 ^ 32 + e.idx.toNat
        | none => 0))) ∧
    (∀ n : BitVec 3, o.idx.toNat = 0x020 + n.toNat →
      ∃ v : Word, (∀ i < 64, v.getLsbD i = (decide (i < 37) && (c.fmtEnt n).getLsbD i)) ∧ reads v) ∧
    (o.idx = 0x030 → reads (c.nextcid.setWidth 64))) ∧
  (∀ (o : SrOp) (s : State), s.pre.p o.g = true →
    let v := s.pre.x o.rd
    let writes (P : Ctx → Prop) : Prop := Completes (.mtsr o) s (fun t => P t.cur ∧ OnlyCtx s t t.cur)
    let c := s.cur
    (o.idx = 0x008 → writes (fun d => d = { c with fpflags := d.fpflags } ∧
      ∀ i, d.fpflags.getLsbD i = (c.fpflags.getLsbD i && !(decide (i < 40) && v.getLsbD i)))) ∧
    (o.idx = 0x009 → writes (fun d => d = { c with fprec := if v.getLsbD 63 then 0 else c.fprec })) ∧
    (o.idx = 0x00A → writes (fun d => d = { c with mpc := v.setWidth 60 })) ∧
    (o.idx = 0x00B → writes (fun d => d = { c with waitlim := v.setWidth 32 })) ∧
    (∀ n : BitVec 3, o.idx.toNat = 0x020 + n.toNat → writes (fun d => d = { c with mft := d.mft } ∧
      ∀ m : BitVec 3, d.fmtEnt m = if m = n then v else c.fmtEnt m)) ∧
    (o.idx = 0x000 ∨ o.idx = 0x001 ∨ o.idx = 0x002 ∨ o.idx = 0x003 ∨ o.idx = 0x004 ∨
        (0x010 ≤ o.idx.toNat ∧ o.idx.toNat ≤ 0x015) ∨ o.idx = 0x030 →
      writes (fun d => d = c)))

/-- R134, R135: scalar floating operations on the low words, rounded to nearest even, zero-extended; a conversion as
its target format reads in a register. Flags go to the group of the slot. The model's choices here: assumption log 28.
-/
def Obligations.ScalarFloatResults : Prop :=
  (∀ (o : RROp) (s : State), s.pre.p o.g = true →
    let a := (s.pre.x o.rs1).toNat % 2 ^ 32
    let b := (s.pre.x o.rs2).toNat % 2 ^ 32
    let c := (s.pre.x o.rd).toNat % 2 ^ 32
    let gives (i : Instr) (r : Nat × Flags) : Prop := Completes i s (WroteXF s · o.rd (BitVec.ofNat 64 r.1) 4 r.2)
    gives (.fadd o) (f32Add a b) ∧ gives (.fmul o) (f32Mul a b) ∧ gives (.ffma o) (f32Fma a b c)) ∧
  (∀ (o : FcvtOp) (s : State), s.pre.p o.g = true →
    let r := convert o.src.toNat o.dst.toNat false false ((s.pre.x o.rs1).toNat % 2 ^ elemBits o.src.toNat)
    let gives (v : Word) : Prop := Completes (.fcvt o) s (WroteXF s · o.rd v 4 r.2)
    match ifmtOf o.dst.toNat with
    | some g => gives (BitVec.ofInt 64 (g.value r.1))
    | none => gives (BitVec.ofNat 64 r.1))

/-! ### Control syllables -/

/-- R98, R29 and the entries of the branches: `br`, `call`, `jr`, `ret`, `br.x`, `brv`, `brv.any`, `brv.all` and `nop`
complete. Under a true guard `exec` answers the next state in which the branch is recorded for the bundle's advance:
to pc + 16 × offset, or to a register's value that is a multiple of 16; `call` also links x63 to pc + 16, `br.x` also
drops n loop entries where the stack holds them, and a mask branch is taken on an all-ones mask, `brv.any` on any lane
too, and passed otherwise. Nothing else changes. Under a false guard, and for `nop` always, the next state is the
state itself. -/
def Obligations.Branches : Prop :=
  ∀ (s : State),
    let taken (i : Instr) (target : BitVec 60) : Prop :=
      exec i s = .next { s with issue := { s.issue with branch := some target } }
    let passed (i : Instr) : Prop := exec i s = .next s
    (∀ o : BrOp, s.pre.p o.g = true → taken (.br o) (pcPlus s.issue.pc o.off.toInt)) ∧
    (∀ o : BrOp, s.pre.p o.g = true → ∃ t, exec (.call o) s = .next t ∧
      XsAfter s t 63 ((pcPlus s.issue.pc 1).setWidth 64) ∧ Marked s t (keyX 63) 1 ∧ SameBytes s t ∧
      t = { s.setCtx s.issue.ctx { s.cur with
          xs := t.cur.xs
          sb := t.cur.sb } with
        issue := { s.issue with branch := some (pcPlus s.issue.pc o.off.toInt) } }) ∧
    (∀ o : JrOp, s.pre.p o.g = true → (s.pre.x o.rs1).toNat % 16 = 0 →
      taken (.jr o) (BitVec.ofNat 60 (s.pre.x o.rs1).toNat) ∧ taken (.ret o) (BitVec.ofNat 60 (s.pre.x o.rs1).toNat)) ∧
    (∀ o : BrxOp, s.pre.p o.g = true → o.n.toNat ≤ s.pre.loops.length →
      exec (.brX o) s = .next { s.setCtx s.issue.ctx { s.cur with loops := s.pre.loops.drop o.n.toNat } with
        issue := { s.issue with branch := some (pcPlus s.issue.pc o.off.toInt) } }) ∧
    (∀ o : BrvOp, s.pre.p o.g = true →
      let m := s.pre.m o.m
      let target := pcPlus s.issue.pc o.off.toInt
      (m = BitVec.allOnes 64 → taken (.brv o) target ∧ taken (.brvAny o) target ∧ taken (.brvAll o) target) ∧
      (m = 0 → passed (.brv o) ∧ passed (.brvAny o) ∧ passed (.brvAll o)) ∧
      (m ≠ 0 → m ≠ BitVec.allOnes 64 → taken (.brvAny o) target ∧ passed (.brvAll o))) ∧
    (∀ o : BrOp, s.pre.p o.g = false → passed (.br o) ∧ passed (.call o)) ∧
    (∀ o : JrOp, s.pre.p o.g = false → passed (.jr o) ∧ passed (.ret o)) ∧
    (∀ o : BrxOp, s.pre.p o.g = false → passed (.brX o)) ∧
    (∀ o : BrvOp, s.pre.p o.g = false → passed (.brv o) ∧ passed (.brvAny o) ∧ passed (.brvAll o)) ∧
    (∀ o : GOp, passed (.nop o))

/-- R97: `loop`, `loopi` and `lpop`. A count of 0 skips the body even with a full stack; a full stack faults
otherwise. R98: a branch to a register whose value is not a multiple of 16 faults, as do `br.x` past the stack's depth
and `brv` on a mixed mask. -/
def Obligations.LoopStack : Prop :=
  ∀ (s : State),
    (∀ (i : Instr) (g : BitVec 4) (cnt off : Nat), s.pre.p g = true →
      ((∃ o : LoopOp, i = .loop o ∧ o.g = g ∧ cnt = (s.pre.x o.rd).toNat % 2 ^ 32 ∧ off = o.off.toNat) ∨
        (∃ o : LoopiOp, i = .loopi o ∧ o.g = g ∧ cnt = o.count.toNat ∧ off = o.off.toNat)) →
      (cnt = 0 → Completes i s (Branched s · (pcPlus s.issue.pc (off + 1)))) ∧
      (cnt ≠ 0 → s.pre.loops.length ≠ 6 → Completes i s (fun t =>
        OnlyCtx s t { s.cur with loops :=
          ⟨pcPlus s.issue.pc 1, pcPlus s.issue.pc off, BitVec.ofNat 32 cnt, 0⟩ :: s.pre.loops })) ∧
      (cnt ≠ 0 → s.pre.loops.length = 6 → Completes i s (Faults · .loopOverflow 0))) ∧
    (∀ (o : GOp), s.pre.p o.g = true →
      (∀ e r, s.pre.loops = e :: r → Completes (.lpop o) s (OnlyCtx s · { s.cur with loops := r })) ∧
      (s.pre.loops = [] → Completes (.lpop o) s (Faults · .loopUnderflow 0))) ∧
    (∀ (o : JrOp) (i : Instr), s.pre.p o.g = true → i = .jr o ∨ i = .ret o → (s.pre.x o.rs1).toNat % 16 ≠ 0 →
      Completes i s (Faults · .misaligned ((s.pre.x o.rs1).toNat % 2 ^ 60))) ∧
    (∀ (o : BrxOp), s.pre.p o.g = true → s.pre.loops.length < o.n.toNat →
      Completes (.brX o) s (Faults · .loopUnderflow 0)) ∧
    (∀ (o : BrvOp), s.pre.p o.g = true → s.pre.m o.m ≠ 0 → s.pre.m o.m ≠ BitVec.allOnes 64 →
      Completes (.brv o) s (Faults · .nonuniformBranch 0))

/-- R98: a bundle that has issued goes to its branch's target with the counts unchanged, else to the next bundle or
the start of the loop body that it ends, its finished loops popped. -/
def Obligations.NextBundle : Prop :=
  ∀ (s : State),
    (∀ t, s.issue.branch = some t → s.advance.cur.pc = t ∧ s.advance.cur.loops = s.cur.loops) ∧
    (s.issue.branch = none →
      (s.advance.cur.pc, s.advance.cur.loops) = nextBundle s.issue.pc s.cur.loops) ∧
    OnlyCtx s s.advance { s.cur with
      pc := s.advance.cur.pc
      loops := s.advance.cur.loops
      ans := Ans.none
      remote := [] }

/-- R99, R100, R114: `region` opens a region at its bundle with the snapshot of Table 3, `commit` outside a region has
no effect, and `yield` withholds the next cycle's offer. The model's choices here: assumption log 23. -/
def Obligations.RegionSyllables : Prop :=
  ∀ (o : GOp) (s : State), s.pre.p o.g = true →
    Completes (.region o) s (fun t =>
      let u := s.releaseRegion s.issue.ctx
      ∃ n, SnapshotOf u n ∧ t = u.setCtx s.issue.ctx { u.cur with region := some ⟨s.issue.pc, n, [], false⟩ } ∧
        SameBytes u t) ∧
    (s.cur.region = none → Completes (.commit o) s (fun t => t = s)) ∧
    Completes (.commit o) s (fun t => t = s.releaseRegion s.issue.ctx) ∧
    Completes (.yield o) s (OnlyCtx s · { s.cur with yielded := true })

/-- R100 step 1, R101: releasing a region leaves its context outside any region and hands its buffered stores to
memory in order: with no atomic and no remote address among them, nothing of earlier regions under way and no budget
over HBM requests, each byte of a block takes the newest buffered byte, and every other byte reads as before, while no
key-value stall takes heat (no slot is release-pending) and no deferred command is held. The buffer's blocks stay
whole as stores come in. The model's choices here: assumption log 5, 73. -/
def Obligations.RegionRelease : Prop :=
  (∀ (s : State) (ctx : Nat) (r : Region), (s.ctx ctx).region = some r →
    (∀ e ∈ r.sbuf, e.Whole ∧ ∃ pa bytes sealed so, e.kind = .block pa bytes sealed so ∧ ∀ b ∈ bytes, b.1 < 2 ^ 39) →
    (∀ i, (s.tile (coreOf ctx) i).relpend = false) →
    (s.ctx ctx).drain = [] → s.owed ctx = 0 →
    (∀ b ∈ s.budgets, ∀ pen, b.2.covers 3 pen = false) → (∀ pa, s.portHeld pa = false) →
    (∀ c ∈ s.cmds, c.ctx = ctx → c.task = (s.ctx ctx).task → c.inRegion = true → c.st ≠ .held) →
    let t := s.releaseRegion ctx
    (t.ctx ctx).region = none ∧ (t.ctx ctx).drain = [] ∧
    ∀ a < 2 ^ 39, t.physRead a 1 = (match sbufByte r.sbuf a with
      | some b => b.toNat
      | none => s.physRead a 1)) ∧
  (∀ (r r' : Region) (pa n v : Nat) (rel wide : Bool) (x : Xlat), pa % 256 + n ≤ 256 → (∀ e ∈ r.sbuf, e.Whole) →
    sbufStore r pa n v rel wide x = some r' → ∀ e ∈ r'.sbuf, e.Whole)

/-- R104: an abort restores the loop stack, the accumulator banks, the metadata pc and the ring cursors of Table 3,
goes back to the restart point and leaves the region. A ring that a stream of before the region still fills keeps its
producer cursor. Each slot of the snapshot takes its state of then, or, for a fill that was under way, the one that
the fill has reached. Held commands of the region are cancelled, the others marked as aborted. Nothing else changes:
no byte of memory, no other register or flag of the context, no other context, core or unit. The model's choices here:
assumption log 13. -/
def Obligations.RegionAbort : Prop :=
  ∀ (s : State) (ctx : Nat) (r : Region) (k : Task), (s.ctx ctx).region = some r →
    sfind s.tasks (s.ctx ctx).task = some k → k.st = .on ctx →
    let t := s.abortRegion ctx
    let c := s.ctx ctx
    let d := t.ctx ctx
    let core := coreOf ctx
    let mine (q : Cmd) : Prop := q.ctx = ctx ∧ q.task = c.task ∧ q.inRegion = true
    let cancelled (q : Cmd) : Prop := ∃ h ∈ s.cmds, mine h ∧ h.st = .held ∧ h.same q
    t = { s with
      ctxs := t.ctxs
      cores := t.cores
      cmds := t.cmds } ∧
    SameBytes s t ∧ (∀ n, n ≠ ctx → t.ctx n = s.ctx n) ∧ (∀ n, n ≠ core → t.core n = s.core n) ∧
    d = { c with
      region := none
      pc := r.restart
      loops := r.snap.loops
      acc := r.snap.acc
      mpc := r.snap.mpc
      rings := d.rings
      arrivals := c.arrivals.map (fun a => (a.1, { a.2 with pend := false }))
      status := d.status } ∧
    d.rings.map (fun h => (h.1, h.2.cc, h.2.first, h.2.n)) =
      r.snap.rings.map (fun h => (h.1, h.2.cc, h.2.first, h.2.n)) ∧
    (∀ (i : Nat) (h : Nat × Ring), r.snap.rings[i]? = some h →
      let now : Ring := sget Ring.none c.rings h.1
      d.rings[i]?.map (fun x => x.2.pc) = some
        (if now.slots.any (fun k => streamSlot (s.tile core k) (sget TileEnt.reset r.snap.tiles k)) then now.pc else h.2.pc)) ∧
    t.core core = { s.core core with tiles := (t.core core).tiles } ∧
    (∀ i, t.tile core i =
      (r.snap.tiles.filter (fun x => x.1 == i)).foldl (fun (e : TileEnt) x => e.aborted x.2) (s.tile core i)) ∧
    (∀ q ∈ s.cmds, mine q → q.st = .held → StatusIs s t q (6 * 2 ^ 32)) ∧
    (∀ j : BitVec 16, (∀ q ∈ s.cmds, mine q → q.st = .held → q.cid.toNat % 64 ≠ j.toNat % 64) → d.stat j = c.stat j) ∧
    (∀ q ∈ s.cmds, ¬cancelled q → (mine q → { q with
        aborted := true
        inRegion := false } ∈ t.cmds) ∧ (¬mine q → q ∈ t.cmds)) ∧
    (∀ q ∈ t.cmds, ¬mine q ∧ ¬cancelled q)

/-- R102, R106, R231: `trap` and `sys` complete in every state whose task is known. The region is released (`u`), the
record is posted (`v`) with the code in its address word and, for `sys`, x1 to x8, and the task is stopped with code
0x0A (`t`): in a save frame, or on its context where it has none. The record stands in the queue of `t`, or among the
records held for it; a frame changes no byte outside itself. The task resumes at the pc that its context holds, which
the bundle's advance has moved on before (R98). The model's choices here: assumption log 31, 33. -/
def Obligations.TrapAndSys : Prop :=
  ∀ (o : TrapOp) (s : State) (k : Task), s.pre.p o.g = true →
    let ctx := s.issue.ctx
    let u := s.releaseRegion ctx
    let c := u.cur
    sfind u.tasks c.task = some k →
    let rec_ (code : Nat) (xregs : List Word) : FaultRec :=
      { seq := u.seq, pen := c.pen.toNat, ctx := ctx, code := code, source := 0, cmd := false, kv := false,
        region := false, merged := 0, cid := 0, wid := c.wid, pc := s.issue.pc.toNat, rpc := s.issue.pc.toNat,
        job := k.job, extent := 0, addr := o.code.toNat, loops := loopsWord c.loops, xregs := xregs }
    let pen := c.pen.toNat
    let stops (i : Instr) (code : Nat) (xregs : List Word) : Prop :=
      let words := (rec_ code xregs).words
      let v : State := ({ u with seq := u.seq + 1 } : State).postRecord (rec_ code xregs) true
      let t : State := v.stopTask ctx c.latch.isSome 0x0A u.seq
      exec i s = .next t ∧ t.seq = u.seq + 1 ∧ Recorded u v pen words ∧ Stopped v t ctx 0x0A ∧
      (t.pen pen).fqTail = (v.pen pen).fqTail ∧ (t.pen pen).held = (v.pen pen).held ∧
      match v.frameFor ctx c.latch.isSome (v.homeGang ctx) with
      | none => (t.ctx ctx).st = .stopped ∧ (t.ctx ctx).pc = c.pc ∧ SameBytes v t ∧ Recorded u t pen words
      | some f =>
        let at_ := (v.pen pen).framePa f
        let size := bits (v.pen pen).svCtl.toNat 15 0 * 4096
        (t.ctx ctx).st = .idle ∧
        (∃ q w, sfind t.tasks c.task = some q ∧ q.frame = some f ∧ q.saved = some w ∧ w.ctx.pc = c.pc) ∧
        SameBytesOut v t at_ size ∧ (u.FqOutside pen at_ size → Recorded u t pen words)
    stops (.trap o) 0x0A [] ∧ stops (.sys o) 0xFF [c.x 1, c.x 2, c.x 3, c.x 4, c.x 5, c.x 6, c.x 7, c.x 8]

/-- R361: a `twait` whose entry has failed, or has reached its iteration, orders later loads after the groom's writes
and goes on; otherwise its context parks; a slot that the pen's board has not raises `PERMISSION`. -/
def Obligations.TokenWait : Prop :=
  ∀ (o : Rs2Op) (s : State), s.pre.p o.g = true →
    let p := s.pen s.pre.pen.toNat
    let slot := (s.pre.x o.rs1).toNat
    let want := (s.pre.x o.rs2).toNat % 2 ^ 32
    let l := bits p.tbLsize.toNat 4 0
    let at_ := bits p.tbBase.toNat 51 6 * 64 + 64 * slot
    let w := s.physRead at_ 8
    let reached : Prop := w / 2 ^ 32 % 2 = 1 ∨ (w + 2 ^ 32 - want) % 2 ^ 32 < 2 ^ 31
    (l ≤ 16 ∧ slot < 2 ^ l → reached → Completes (.twait o) s (fun t => SameBytes s t ∧ ∃ u, Charged s u ∧
      t = u.setCore (coreOf s.issue.ctx) { s.curCore with l1 := s.curCore.l1.filter (fun x => x.kind != 1) })) ∧
    (l ≤ 16 ∧ slot < 2 ^ l → ¬reached → Completes (.twait o) s (Waits s · (some (.park (.twait at_ want))))) ∧
    (¬(l ≤ 16 ∧ slot < 2 ^ l) → Completes (.twait o) s (Faults · .permission 0))

/-! ### Memory -/

/-- Memory is a map of bytes: a coherent write gives back the value written, little-endian, leaves every other byte
alone, and keeps the canonical form (assumption log 1). -/
def Obligations.MemoryReadAfterWrite : Prop :=
  ∀ (s : State) (c : Option Nat) (pa n v : Nat), n ≤ 2 ^ 52 →
    let t := s.physWrite c pa n v
    t.physRead pa n = v % 256 ^ n ∧ SameBytesBut s t pa n ∧
    (Memory.wf s.mem = true → Memory.wf t.mem = true) ∧ (Memory.wf State.reset.mem = true)

/-- R222, R224, R227: a translation that does not write (a load or a fetch) changes no register of any context and no
byte of memory but those of the level-0 entry it uses; a walked entry has a (bit 3) set afterwards. A root that is not
enabled gives `NOT_PRESENT`, whatever is cached. After a successful walk the checks are made in their order:
`GEN_WRITE`, the permissions of a core, an engine's mask, the permissions of an engine. -/
def Obligations.Translation : Prop :=
  (∀ (s : State) (a : Access) (va : Nat), va < 2 ^ 60 → a.w = false →
    let r := (s.xlate a va).1
    let u := (s.xlate a va).2
    CtxsKept s u s.cur ∧ RestKept s u ∧
    (∀ x, (∀ p, s.leafAddr a va = some p → ∀ k < 8, s.home x % 2 ^ 52 ≠ (s.home p + k) % 2 ^ 52) →
      u.physRead x 1 = s.physRead x 1) ∧
    (∀ p, s.leafAddr a va = some p → tlbHit (s.nearTlb a) a.pen va = none →
      (∀ k, a.cluster = some k → tlbHit (s.cluster k).leaves a.pen va = none) → (u.physRead p 1).testBit 3 = true) ∧
    ((s.pen a.pen).root.getLsbD 0 = false → r = .error .notPresent ∧ u = s) ∧
    (∀ e, tlbHit (s.nearTlb a) a.pen va = some e → (s.pen a.pen).root.getLsbD 0 = true →
      u = s ∧ (∀ c, permit a e.pte.toNat = some c → r = .error c) ∧
      (permit a e.pte.toNat = none → ∃ t, r = .ok t ∧ t.pa = s.physOf a e va ∧ t.kind = e.pte.toNat / 2 ^ 52 % 4 ∧
        t.cpol = e.pte.toNat / 2 ^ 54 % 8))) ∧
  (∀ (a : Access) (e : Word),
    let p := permit a e.toNat
    let lacks : Prop := (a.r = true ∧ e.getLsbD 5 = false) ∨ (a.w = true ∧ e.getLsbD 6 = false) ∨
      (a.unit = none ∧ a.x = true ∧ e.getLsbD 7 = false)
    (a.w = true → e.getLsbD 60 = true → p = some .genWrite) ∧
    (¬(a.w = true ∧ e.getLsbD 60 = true) →
      (∀ u, a.unit = some u → e.getLsbD u = false → u < 64 → p = some .engineMask) ∧
      (a.unit = none ∨ (∃ u, a.unit = some u ∧ e.getLsbD u = true) →
        (lacks → p = some .permission) ∧ (¬lacks → p = none))))

/-- R251, R252: a load that is aligned and translates writes x[rd] (and x[rd + 1] for 16 bytes) with the bytes its
core sees, at the latency of the level that serves it, and changes no byte of memory; else it faults, `MISALIGNED`
before the faults of translation. A load of an SO page waits until its context's earlier stores have performed (R239),
and any load for a released `atom` of the same bytes (R240). The model's choices here: assumption log 38, 44. -/
def Obligations.LoadResults : Prop :=
  ∀ (s : State) (i : Instr) (g : BitVec 4) (rd : BitVec 6) (va n : Nat) (acq : Bool), s.pre.p g = true →
    ((∃ o : RMOp, i = .ld o ∧ o.g = g ∧ o.rd = rd ∧ n = 2 ^ o.size.toNat ∧ o.size.toNat ≤ 4 ∧ acq = false ∧
        va = (((s.pre.x o.rs1).toInt + o.imm.toInt * n) % 2 ^ 60).toNat) ∨
      (∃ o : RMSOp, i = .ldAcq o ∧ o.g = g ∧ o.rd = rd ∧ n = 2 ^ o.size.toNat ∧ o.size.toNat ≤ 4 ∧
        acq = decide (2 ≤ o.scope.toNat) ∧ va = (s.pre.x o.rs1).toNat % 2 ^ 60)) →
    let x := s.xlate (s.curAccess true false) va
    (va % n ≠ 0 → Completes i s (Faults · .misaligned va)) ∧
    (va % n = 0 → ∀ c, x.1 = .error c → Completes i s (Faults · c va)) ∧
    (va % n = 0 → ∀ t, x.1 = .ok t → t.pa % n = 0 → x.2.elsewhere t.pa = false → x.2.LoadClear t n →
      Completes i s (fun w => LoadedX x.2 w rd n (x.2.loaded acq t n) (x.2.loadLat acq t) ∧ RestKept x.2 w ∧
        SameBytes x.2 w)) ∧
    (va % n = 0 → ∀ t, x.1 = .ok t → x.2.LoadWaits t n → Completes i s (fun w => Waits x.2 w (some .order)))

/-- R251, R252, R101: a store that is aligned and translates performs at issue outside a region, and is buffered
inside one; the buffered bytes are those that the context's later loads see, and no byte of memory changes before
release. A 97th entry raises `REGION_FULL`. A release at `.dom` or wider, on a page that is not UN, waits for the
acknowledgements of remote stores, and any store outside a region for the entries of released ones (R242, R246, R406).
The model's choices here: assumption log 5, 73. -/
def Obligations.StoreResults : Prop :=
  ∀ (s : State) (i : Instr) (g : BitVec 4) (rd : BitVec 6) (va n scope : Nat) (rel : Bool), s.pre.p g = true →
    ((∃ o : RMOp, i = .st o ∧ o.g = g ∧ o.rd = rd ∧ n = 2 ^ o.size.toNat ∧ o.size.toNat ≤ 4 ∧ rel = false ∧ scope = 0 ∧
        va = (((s.pre.x o.rs1).toInt + o.imm.toInt * n) % 2 ^ 60).toNat) ∨
      (∃ o : RMSOp, i = .stRel o ∧ o.g = g ∧ o.rd = rd ∧ n = 2 ^ o.size.toNat ∧ o.size.toNat ≤ 4 ∧ rel = true ∧
        scope = o.scope.toNat ∧ va = (s.pre.x o.rs1).toNat % 2 ^ 60)) →
    let x := s.xlate (s.curAccess false true) va
    let d := ((s.pre.x rd).toNat + (if n = 16 then (s.pre.x (rd + 1)).toNat * 2 ^ 64 else 0)) % 2 ^ (8 * n)
    (va % n ≠ 0 → Completes i s (Faults · .misaligned va)) ∧
    (va % n = 0 → ∀ c, x.1 = .error c → Completes i s (Faults · c va)) ∧
    (va % n = 0 → ∀ t, x.1 = .ok t → x.2.elsewhere t.pa = false →
      let waits : Prop := rel = true ∧ t.kind ≠ 2 ∧ 4 ≤ scope ∧ x.2.owed x.2.issue.ctx ≠ 0
      (x.2.cur.region = none → x.2.StoreClear t 0 → ¬waits →
        Completes i s (fun w => w.physRead t.pa n = d ∧ SameBytesBut x.2 w t.pa n ∧ RestKept x.2 w ∧
          CtxsKept x.2 w x.2.cur)) ∧
      (x.2.cur.region = none → waits ∨ x.2.cur.drain ≠ [] → Completes i s (fun w => Waits x.2 w (some .order))) ∧
      (∀ r, x.2.cur.region = some r →
        let b := sbufStore r (x.2.home t.pa) n d (rel && t.kind != 2) (decide (4 ≤ scope)) t
        (∀ b', b = some b' → b'.sbuf.length = r.sbuf.length ∨ b'.sbuf.length + x.2.cur.drain.length ≤ 96 →
          Completes i s (fun w => SameBytes x.2 w ∧ RestKept x.2 w ∧ CtxsKept x.2 w { x.2.cur with region := some b' } ∧
          b'.restart = r.restart ∧ b'.snap = r.snap ∧
          (t.pa % n = 0 → ∀ v, forward w.cur.sbuf (x.2.home t.pa) n v = d))) ∧
        (r.sbuf.length < 96 → b ≠ none) ∧
        (96 ≤ r.sbuf.length → (∀ e ∈ r.sbuf, ∀ bytes sealed so,
          e.kind ≠ .block (x.2.home t.pa / 256 * 256) bytes sealed so) → b = none) ∧
        (b = none → Completes i s (Faults · .regionFull 0))))

/-- R253, R254, R255: an atomic that is aligned and may be made is one read-modify-write of Table 3 at the coherent
level; `atom.f` and `cas` give the old value, and a `cas` whose comparison fails writes nothing. Inside a region
`atom` is buffered in an entry of its own and writes nothing before release. A page of ordering kind UN raises
`ORDER_KIND`. The functions of Table 3, by value: sums wrap, signed and unsigned extremes, bitwise functions and the
swap. The model's choices here: assumption log 5. -/
def Obligations.Atomics : Prop :=
  (∀ (s : State) (o : AtOp), s.pre.p o.g = true → o.size.toNat ≤ 1 →
    let n := 4 * 2 ^ o.size.toNat
    let va := (s.pre.x o.rs1).toNat % 2 ^ 60
    let x := s.xlate (s.curAccess true true) va
    let u := x.2
    let a := (s.pre.x o.rd).toNat % 2 ^ (8 * n)
    let c := (s.pre.x (o.rd + 1)).toNat % 2 ^ (8 * n)
    let each (P : Instr → Prop) : Prop := P (.atom o) ∧ P (.atomF o) ∧ P (.cas o)
    (va % n ≠ 0 → each (fun i => Completes i s (Faults · .misaligned va))) ∧
    (va % n = 0 → ∀ e, x.1 = .error e → each (fun i => Completes i s (Faults · e va))) ∧
    (va % n = 0 → ∀ t, x.1 = .ok t → t.kind = 2 → each (fun i => Completes i s (Faults · .orderKind va))) ∧
    (va % n = 0 → ∀ t, x.1 = .ok t → t.kind ≠ 2 → u.elsewhere t.pa = false →
      (u.cur.region = none → u.cur.drain = [] ∧
        (atReleases o t.kind = true → 4 ≤ atRelScope o t.kind → u.owed u.issue.ctx = 0)) →
      let old := u.physRead t.pa n
      let new := atomFn o.op.toNat n old a
      let wrote (w : State) (v : Nat) : Prop := w.physRead t.pa n = v ∧ SameBytesBut u w t.pa n ∧ RestKept u w
      (u.cur.region = none → Completes (.atom o) s (fun w => wrote w new ∧ CtxsKept u w u.cur)) ∧
      (∀ r, u.cur.region = some r → r.sbuf.length + u.cur.drain.length < 96 → Completes (.atom o) s (fun w =>
        SameBytes u w ∧ ∃ b f, CtxsKept u w { u.cur with region := some { r with
            sbuf := b
            gate := f } } ∧
          b.length = r.sbuf.length + 1 ∧ b.getLast?.map SEnt.kind = some (.atom (u.home t.pa) o.op.toNat n a))) ∧
      (∀ r, u.cur.region = some r → 96 ≤ r.sbuf.length → Completes (.atom o) s (Faults · .regionFull 0)) ∧
      Completes (.atomF o) s (fun w => wrote w new ∧ LoadedX u w o.rd n old 40) ∧
      Completes (.cas o) s (fun w => wrote w (if old = a then c else old) ∧ LoadedX u w o.rd n old 40))) ∧
  (∀ (n old a : Nat), 0 < n → old < 2 ^ (8 * n) → a < 2 ^ (8 * n) →
    atomFn 0 n old a = (old + a) % 2 ^ (8 * n) ∧
    (∀ i, (atomFn 1 n old a).testBit i = (old.testBit i && a.testBit i)) ∧
    (∀ i, (atomFn 2 n old a).testBit i = (old.testBit i || a.testBit i)) ∧
    (∀ i, (atomFn 3 n old a).testBit i = (old.testBit i != a.testBit i)) ∧
    sextInt (atomFn 4 n old a) (8 * n) = min (sextInt old (8 * n)) (sextInt a (8 * n)) ∧
    sextInt (atomFn 5 n old a) (8 * n) = max (sextInt old (8 * n)) (sextInt a (8 * n)) ∧
    atomFn 6 n old a = min old a ∧ atomFn 7 n old a = max old a ∧ atomFn 8 n old a = a)

/-- R256, R247, R260, R406: a fence closes every entry that its region has buffered to later merges, and from `.dom`
on makes the next entry wait for acknowledgements. Later bundles with a memory access wait: until the entries of
released regions have performed, and from `.dom` on until remote accesses are acknowledged; for a `fence.ld` only
where one of them may be a read. Then the core drops its RC lines (and UN lines for `fence.sys.all`), unless the fence
is `.st` or narrower than `.clu`: at once, where nothing is left to wait for. The model's choices here: assumption log
39, 40, 73. -/
def Obligations.FenceEffects : Prop :=
  ∀ (s : State) (o : FenceOp), s.pre.p o.g = true →
    Completes (.fence o) s (fun t =>
      let whole := if 4 ≤ o.scope.toNat then 2 else 1
      let reads : Bool := s.cur.drain.any (fun e => match e.kind with
        | .atom _ _ _ _ => true
        | .block _ _ _ _ => false)
      let level := max s.cur.fence (if o.kind.toNat ≠ 1 ∨ reads = true then whole
        else if s.owed s.issue.ctx ≠ 0 ∧ 4 ≤ o.scope.toNat then 2 else 0)
      let drop := max s.cur.fdrop (if o.kind.toNat = 2 ∨ o.scope.toNat < 2 then 0
        else if o.scope.toNat = 5 ∧ o.kind.toNat = 0 then 2 else 1)
      let met : Bool := level = 0 || (s.cur.drain.isEmpty && (level = 1 || s.owed s.issue.ctx = 0))
      t.cur = { s.cur with
        region := s.cur.region.map (fun r => { r with
          sbuf := sbufSeal r.sbuf
          gate := r.gate || decide (4 ≤ o.scope.toNat) })
        fence := if met then 0 else level
        fdrop := if met then 0 else drop } ∧
      (∀ k, (∀ e ∈ sbufSeal k, ∀ pa bytes sealed so, e.kind = .block pa bytes sealed so → sealed = true) ∧
        ∀ pa, sbufByte (sbufSeal k) pa = sbufByte k pa) ∧
      t.curCore = (if met = true ∧ drop ≠ 0 then
        { s.curCore with l1 := s.curCore.l1.filter (fun l => !(l.kind == 1 || (drop == 2 && l.kind == 2))) }
        else s.curCore) ∧
      (∀ n, n ≠ s.issue.ctx → t.ctx n = s.ctx n) ∧ (∀ n, n ≠ coreOf s.issue.ctx → t.core n = s.core n) ∧
      t = { s with
        ctxs := t.ctxs
        cores := t.cores } ∧ SameBytes s t)

/-- R257, Table 4: `waita` gives 0 where the word differs, 2 where its page cannot be monitored, the reason of its
wake once it has been woken, and otherwise asks to park with its monitor, with the word that it wants. The model's
choices here: assumption log 64. -/
def Obligations.WaitAddress : Prop :=
  ∀ (s : State) (o : RROp), s.pre.p o.g = true →
    let va := (s.pre.x o.rs1).toNat % 2 ^ 60
    let x := s.xlate (s.curAccess true false) va
    let u := x.2
    (∀ r, s.pre.ans.wake = some r → Completes (.waita o) s (WroteX s · o.rd (BitVec.ofNat 64 r) 1)) ∧
    (s.pre.ans.wake = none →
      (va % 8 ≠ 0 → Completes (.waita o) s (Faults · .misaligned va)) ∧
      (va % 8 = 0 → ∀ c, x.1 = .error c → Completes (.waita o) s (Faults · c va)) ∧
      (va % 8 = 0 → ∀ t, x.1 = .ok t → t.kind = 2 → Completes (.waita o) s (Faults · .orderKind va)) ∧
      (va % 8 = 0 → ∀ t, x.1 = .ok t → t.kind ≠ 2 → t.pa % 8 = 0 → u.elsewhere t.pa = false →
        u.LoadClear t 8 →
        let v := BitVec.ofNat 64 (forward u.cur.sbuf (u.home t.pa) 8 (u.physRead t.pa 8))
        (v ≠ s.pre.x o.rs2 → Completes (.waita o) s (fun w => ∃ lat, (lat = 40 ∨ lat = 400) ∧
          LoadedX u w o.rd 8 0 lat ∧ SameBytes u w ∧ RestKept u w)) ∧
        (v = s.pre.x o.rs2 → u.isRemote t = true → Completes (.waita o) s (fun w => ∃ lat, (lat = 40 ∨ lat = 400) ∧
          LoadedX u w o.rd 8 2 lat ∧ SameBytes u w ∧ RestKept u w)) ∧
        (v = s.pre.x o.rs2 → u.isRemote t = false → Completes (.waita o) s (fun w => SameBytes u w ∧
          w.issue.status = .stall ∧
          w.issue.post = some (.await (.waita o.rd (l2Place t.cpol (u.home t.pa)).1 (u.home t.pa / 64 * 64)
            (s.now s.issue.ctx) none) (u.home t.pa) (s.pre.x o.rs2).toNat t.cpol t.evp)))))

/-- R229, R230: a `tlbsh` leaves no covered translation of its pen and no pointer of the pen in any cache of the
package, keeps its own context's registers and region, marks it as waiting, and changes no byte of memory; a range
that is not on a 64 KiB boundary raises `MISALIGNED`. The model's choices here: assumption log 42. -/
def Obligations.ShootDowns : Prop :=
  ∀ (s : State) (g : BitVec 4), s.pre.p g = true →
    let pen := s.pre.pen.toNat
    let shot (i : Instr) (gone : TlbEnt → Prop) : Prop := Completes i s (fun t =>
      (∀ k, ∀ e ∈ (t.core k).tlb, ¬(e.pen = pen ∧ gone e)) ∧
      (∀ k, (∀ e ∈ (t.cluster k).leaves, ¬(e.pen = pen ∧ gone e)) ∧ (∀ e ∈ (t.cluster k).walk, e.pen ≠ pen) ∧
        (∀ u ∈ (t.cluster k).etlb, ∀ e ∈ u.2, ¬(e.pen = pen ∧ gone e))) ∧
      (∀ u ∈ t.dieTlb, ∀ e ∈ u.2, ¬(e.pen = pen ∧ gone e)) ∧
      t.cur.tlbshBusy = true ∧ t.cur.region = s.cur.region ∧ t.cur.xs = s.cur.xs ∧ t.cur.ps = s.cur.ps ∧
      t.cur.vs = s.cur.vs ∧ t.cur.ms = s.cur.ms ∧ t.cur.fpflags = s.cur.fpflags ∧ t.cur.loops = s.cur.loops ∧
      t.pens = s.pens ∧ SameBytes s t)
    (∀ o : GOp, o.g = g → shot (.tlbshPen o) (fun e => e.pte.getLsbD 2 = false) ∧ shot (.tlbshPenG o) (fun _ => True)) ∧
    (∀ o : Rs2Op, o.g = g →
      let va := (s.pre.x o.rs1).toNat % 2 ^ 60
      let n := (s.pre.x o.rs2).toNat
      (va % 2 ^ 16 ≠ 0 → Completes (.tlbshRange o) s (Faults · .misaligned va)) ∧
      (va % 2 ^ 16 = 0 → shot (.tlbshRange o) (fun e => ∃ k < n, ∃ b < e.size,
        (va + 2 ^ 16 * k) % 2 ^ 60 = (e.base + b) % 2 ^ 60)))

/-- R264, R265, Table 3: `cfl` and `cinv` leave no L1 line of the core (level 0 or 2) and no L2 line of the package
(level 1 or 2) in the range, `cwb` leaves no dirty line there, and none but `cinv` changes a byte of memory, `cinv`
none but those that are dirty in lines of the range; all but `cpf` leave the context waiting for completion, and none
of those acts before the context's earlier stores and atomics have performed. A length of 0 has no effect. The model's
choices here: assumption log 27. -/
def Obligations.CacheControl : Prop :=
  ∀ (s : State) (o : CacheOp), s.pre.p o.g = true →
    let va := (s.pre.x o.rs1).toNat % 2 ^ 60
    let n := (s.pre.x o.rs2).toNat % 2 ^ 32
    let sp (w skip : Bool) := s.spans w skip (pageSpans (pageFuel n) va n)
    let l1 : Prop := o.level.toNat ≠ 1
    let l2 : Prop := o.level.toNat ≠ 0
    (n = 0 → ∀ i, i = .cfl o ∨ i = .cinv o ∨ i = .cpf o ∨ i = .cwb o → Completes i s (fun t => t = s)) ∧
    (n ≠ 0 →
      (∀ l u, sp false false = (.ok l, u) → u.behind = true →
        Completes (.cfl o) s (Waits u · (some .order)) ∧ Completes (.cwb o) s (Waits u · (some .order))) ∧
      (∀ l u, sp true false = (.ok l, u) → u.behind = true → Completes (.cinv o) s (Waits u · (some .order))) ∧
      (∀ l u, sp false false = (.ok l, u) → u.behind = false →
        Completes (.cfl o) s (fun t => SameBytes u t ∧ t.cur.cacheBusy = true ∧ t.cur.xs = u.cur.xs ∧
          (l1 → ∀ x ∈ t.curCore.l1, inSpans l x.pa = false) ∧
          (l2 → ∀ k, ∀ x ∈ (t.cluster k).l2, inSpans l x.pa = false)) ∧
        Completes (.cwb o) s (fun t => SameBytes u t ∧ t.cur.cacheBusy = true ∧ t.cur.xs = u.cur.xs ∧
          (l2 → ∀ k, ∀ x ∈ (t.cluster k).l2, inSpans l x.pa = true → x.dirty = []))) ∧
      (∀ l u, sp true false = (.ok l, u) → u.behind = false →
        Completes (.cinv o) s (fun t => t.cur.cacheBusy = true ∧ t.cur.xs = u.cur.xs ∧
          (∀ a, (∀ x ∈ u.l2Lines l, ∀ b ∈ x.2.dirty, u.home a % 2 ^ 52 ≠ b.1 % 2 ^ 52) →
            t.physRead a 1 = u.physRead a 1) ∧
          (l1 → ∀ x ∈ t.curCore.l1, inSpans l x.pa = false) ∧
          (l2 → ∀ k, ∀ x ∈ (t.cluster k).l2, inSpans l x.pa = false))) ∧
      (∀ l u, sp false true = (.ok l, u) →
        Completes (.cpf o) s (fun t => SameBytes u t ∧ t.cur.xs = u.cur.xs ∧ t.cur.cacheBusy = u.cur.cacheBusy)) ∧
      (∀ c a, (sp false false).1 = .error (c, a) →
        Completes (.cfl o) s (Faults · c a) ∧ Completes (.cwb o) s (Faults · c a)) ∧
      (∀ c a, (sp true false).1 = .error (c, a) → Completes (.cinv o) s (Faults · c a)))

/-! ### Vector and mask accesses -/

/-- R159, R160, R251: vector and mask accesses of device memory. A load gives, byte for byte, what its context may
see, and changes no byte of memory; a store outside a region performs its elements in ascending order; inside a region
its bytes are buffered and memory stays. A misaligned piece raises `MISALIGNED` first. The model's choices here:
assumption log 5, 27. -/
def Obligations.VectorDeviceAccesses : Prop :=
  ∀ (s : State),
    (∀ (o : RROp) (i : Instr) (n : Nat) (l : List Nat), s.pre.p o.g = true →
      (i = .vldDevice o ∧ n = 256 ∧ l = vldAddrs o s) ∨ (i = .vldsDevice o ∧ n = 16 ∧ l = vldsAddrs o s) ∨
        (i = .vgatherDevice o ∧ n = 4 ∧ l = vgatherAddrs o s) →
      (∀ ts u, GoodPieces s true false n l ts u → Completes i s (fun w =>
        PiecesSeen u n (w.cur.v o.rd).toNat ts ∧ (∀ j, j ≠ o.rd → w.cur.v j = u.cur.v j) ∧
        CtxsKept u w { u.cur with
          vs := w.cur.vs
          gath := u.cur.gath.filter (fun r => r.vd != o.rd)
          sb := w.cur.sb } ∧ RestKept u w ∧ SameBytes u w)) ∧
      (∀ a, l.find? (fun a => a % n ≠ 0) = some a → Completes i s (Faults · .misaligned (a % 2 ^ 60)))) ∧
    (∀ (o : MMemOp), s.pre.p o.g = true → ∀ ts u, GoodPieces s true false 8 (mldAddrs o s) ts u →
      Completes (.mldDevice o) s (fun w => (o.m ≠ 0 → PiecesSeen u 8 (w.cur.m o.m).toNat ts) ∧
        (∀ j, j ≠ o.m → w.cur.m j = u.cur.m j) ∧
        CtxsKept u w { u.cur with
          ms := w.cur.ms
          sb := w.cur.sb } ∧ RestKept u w ∧ SameBytes u w)) ∧
    (∀ (i : Instr) (n v : Nat) (l : List Nat),
      (∃ o : RROp, s.pre.p o.g = true ∧ v = (s.pre.v o.rd).toNat ∧
        ((i = .vstDevice o ∧ n = 256 ∧ l = vldAddrs o s) ∨ (i = .vscatterDevice o ∧ n = 4 ∧ l = vgatherAddrs o s))) ∨
        (∃ o : MMemOp, s.pre.p o.g = true ∧ v = (s.pre.m o.m).toNat ∧ i = .mstDevice o ∧ n = 8 ∧ l = mldAddrs o s) →
      (∀ ts u, GoodPieces s false true n l ts u → u.cur.region = none →
        Completes i s (fun w => PiecesStored u w n v ts ∧ CtxsKept u w u.cur ∧ RestKept u w)) ∧
      (∀ ts u r, GoodPieces s false true n l ts u → u.cur.region = some r →
        Completes i s (fun w => SameBytes u w ∧ RestKept u w ∧ ∃ b f, b.length ≤ 96 ∧
          CtxsKept u w { u.cur with region := some { r with
            sbuf := b
            gate := f } } ∧
          ∀ i (h : i < ts.length), ∀ k < n,
            (∀ j (h' : j < ts.length), i < j → ∀ q < n, u.home ts[j].pa + q ≠ u.home ts[i].pa + k) →
            sbufByte b (u.home ts[i].pa + k) = some (BitVec.ofNat 8 (v / 256 ^ (n * i + k))))) ∧
      (∀ a, l.find? (fun a => a % n ≠ 0) = some a → Completes i s (Faults · .misaligned (a % 2 ^ 60))))

/-- R158, R159, R161, R162, R202: loads of the scratchpad give its bytes as they stand, `vld` at 3 cycles where its
lines meet no bank conflict; `vld` and `mld` wait for an earlier `vscatter` that still writes a line that they read;
`vlds` and `vgather` hold the gather port, which reads each element in the cycle in which it reaches it; and the
register moves. Addresses of 2^20 and above raise `PERMISSION`. The model's choices here: assumption log 26. -/
def Obligations.ScratchpadLoadsAndMoves : Prop :=
  ∀ (s : State),
    let pad (a n : Nat) : Nat := cellsRead s.curCore.scratch 20 a n
    (∀ (o : RROp), s.pre.p o.g = true →
      let a := (s.pre.x o.rs1 + s.pre.x o.rs2).toNat
      (a % 256 = 0 → a < 2 ^ 20 → s.Scattered a 2 → Completes (.vldScratchpad o) s (Waits s · s.issue.post)) ∧
      (∀ ls, a % 256 = 0 → a < 2 ^ 20 → ¬s.Scattered a 2 → addLines s.issue.lines [a / 128, a / 128 + 1] = some ls →
        Completes (.vldScratchpad o) s (fun t =>
          (∀ j, t.cur.v j = if j = o.rd then BitVec.ofNat 2048 (pad a 256) else s.cur.v j) ∧
          Marked s t (keyV o.rd) 3 ∧ SameBytes s t ∧
          t = { s.setCtx s.issue.ctx { s.cur with
              vs := t.cur.vs
              gath := s.cur.gath.filter (fun r => r.vd != o.rd)
              sb := t.cur.sb } with issue := { s.issue with lines := ls } })) ∧
      (a % 256 ≠ 0 → Completes (.vldScratchpad o) s (Faults · .misaligned (a % 2 ^ 60))) ∧
      (a % 256 = 0 → 2 ^ 20 ≤ a → Completes (.vldScratchpad o) s (Faults · .permission a)) ∧
      (a % 256 = 0 → a < 2 ^ 20 → ¬s.Scattered a 2 → addLines s.issue.lines [a / 128, a / 128 + 1] = none →
        Completes (.vldScratchpad o) s (Faults · .bankConflict 0))) ∧
    (∀ (o : RROp) (i : Instr) (n : Nat) (l : List Nat), s.pre.p o.g = true →
      (i = .vldsScratchpad o ∧ n = 16 ∧ l = vldsAddrs o s) ∨ (i = .vgatherScratchpad o ∧ n = 4 ∧ l = vgatherAddrs o s) →
      (∀ a ∈ l, a % n = 0 ∧ a < 2 ^ 20) → Completes i s (fun t =>
        (∀ j, t.cur.v j = s.cur.v j) ∧ Marked s t (keyV o.rd) (portTime l + 3) ∧ SameBytes s t ∧
        t.cur.gath = s.cur.gath.filter (fun r => r.vd != o.rd) ++ (List.range l.length).map (fun k =>
          (⟨s.now s.issue.ctx + (portCycles 17 0 l).getD k 0, o.rd, k, l.getD k 0, n⟩ : PortRead)) ∧
        t = (s.setCtx s.issue.ctx { s.cur with
            vs := t.cur.vs
            gath := t.cur.gath
            sb := t.cur.sb }).setCore (coreOf s.issue.ctx) { s.curCore with
              portFree := s.now s.issue.ctx + portTime l })) ∧
    (∀ ctx, let now := s.now ctx
      let t := s.portStep ctx
      let c := s.ctx ctx
      let bytes (a n : Nat) : Nat := cellsRead (s.core (coreOf ctx)).scratch 20 a n
      (t.ctx ctx).gath = c.gath.filter (fun r => !decide (r.due < now)) ∧
      (∀ j, (∀ r ∈ c.gath, r.due < now → r.vd ≠ j) → (t.ctx ctx).v j = c.v j) ∧
      (∀ r, c.gath.filter (fun r => decide (r.due < now)) = [r] → r.n = 4 ∨ r.n = 16 →
        ∀ i < 256 / r.n, ((t.ctx ctx).v r.vd).toNat / 2 ^ (8 * r.n * i) % 2 ^ (8 * r.n) =
          if i = r.ix then bytes r.addr r.n else (c.v r.vd).toNat / 2 ^ (8 * r.n * i) % 2 ^ (8 * r.n)) ∧
      t = s.setCtx ctx { c with
        vs := (t.ctx ctx).vs
        gath := (t.ctx ctx).gath } ∧ SameBytes s t) ∧
    (∀ (o : MMemOp), s.pre.p o.g = true →
      let a := (s.pre.x o.rs1).toNat
      (a % 8 = 0 → a < 2 ^ 20 → s.Scattered a 1 → Completes (.mldScratchpad o) s (Waits s · s.issue.post)) ∧
      (a % 8 = 0 → a < 2 ^ 20 → ¬s.Scattered a 1 →
        Completes (.mldScratchpad o) s (WroteM s · o.m (BitVec.ofNat 64 (pad a 8)) 3))) ∧
    (∀ (o : VMoveOp), s.pre.p o.g = true →
      let k := (s.pre.x o.rs2).toNat % 32
      Completes (.vmvx o) s (WroteX s · o.rd (BitVec.ofNat 64 ((s.pre.v o.rs1).toNat / 2 ^ (64 * k))) 1) ∧
      (∃ v : VWord, (∀ i < 32, v.toNat / 2 ^ (64 * i) % 2 ^ 64 =
          if i = k then (s.pre.x o.rs1).toNat else (s.pre.v o.rd).toNat / 2 ^ (64 * i) % 2 ^ 64) ∧
        Completes (.vmxv o) s (WroteV s · o.rd v 2 fNone)) ∧
      (∃ v : VWord, (∀ i < 32, v.toNat / 2 ^ (64 * i) % 2 ^ 64 = (s.pre.x o.rs1).toNat) ∧
        Completes (.vbx o) s (WroteV s · o.rd v 2 fNone)))

/-- R158, R161, R184, R213 to R215: scratchpad stores go on their way, `vscatter` element by element as the port
reaches them. The local writes of a core that are due land in the order in which they were sent; those of multicasts
land in every core of the cluster that they were sent to, by ascending source core; the rest stays on its way, and no
byte of device memory changes. Scale loads that are due reach their registers, the last one into a register counting.
The model's choices here: assumption log 26. -/
def Obligations.ScratchpadStoresLand : Prop :=
  ∀ (s : State),
    (∀ (o : RROp), s.pre.p o.g = true →
      let a := (s.pre.x o.rs1 + s.pre.x o.rs2).toNat
      let l := vgatherAddrs o s
      (∀ ls, a % 256 = 0 → a < 2 ^ 20 → addLines s.issue.lines [a / 128, a / 128 + 1] = some ls →
        Completes (.vstScratchpad o) s (fun t => OnItsWay s t a 256 (s.pre.v o.rd).toNat ∧ OnlyPad s t ∧
          t.issue = { s.issue with lines := ls })) ∧
      ((∀ x ∈ l, x % 4 = 0 ∧ x < 2 ^ 20) → Completes (.vscatterScratchpad o) s (fun t => OnlyPad s t ∧
        t.issue = s.issue ∧ t.curCore.portFree = s.now s.issue.ctx + portTime l ∧
        t.curCore.portAt = s.now s.issue.ctx ∧ t.curCore.portLines = l.map (· / 128) ∧
        t.curCore.writes = s.curCore.writes ++ (List.range 64).map (fun i =>
          (⟨s.now s.issue.ctx + (portCycles 17 0 l).getD i 0, 0, l.getD i 0, 4,
            (s.pre.v o.rd).toNat / 2 ^ (32 * i) % 2 ^ 32, none⟩ : SpWrite))))) ∧
    (∀ (o : MMemOp), s.pre.p o.g = true → (s.pre.x o.rs1).toNat % 8 = 0 → (s.pre.x o.rs1).toNat < 2 ^ 20 →
      Completes (.mstScratchpad o) s (fun t =>
        OnItsWay s t (s.pre.x o.rs1).toNat 8 (s.pre.m o.m).toNat ∧ OnlyPad s t ∧ t.issue = s.issue)) ∧
    (∀ core, Completes (.drainLands core) s (fun t =>
      let due (w : SpWrite) : Bool := decide (w.due < (s.cluster (core / 16)).cycle) && w.order == 0
      PadLanded s t core ((s.core core).writes.filter due) (fun w => !due w) ∧
      (∀ a < 2 ^ 20, (∀ w ∈ (s.core core).writes, due w = true → ∀ k < w.n, (w.addr + k) % 2 ^ 20 ≠ a) →
        cellsRead (t.core core).scratch 20 a 1 = cellsRead (s.core core).scratch 20 a 1) ∧
      (∀ w, (s.core core).writes.filter due = [w] → w.n ≤ 2 ^ 20 →
        cellsRead (t.core core).scratch 20 w.addr w.n = w.data % 256 ^ w.n) ∧
      (∀ k, k ≠ core → t.core k = s.core k) ∧ t = { s with cores := t.cores } ∧ SameBytes s t)) ∧
    (∀ cluster, Completes (.multicastArrival cluster) s (fun t =>
      let due (w : SpWrite) : Bool := decide (w.due < (s.cluster cluster).cycle)
      (∀ k, k / 16 = cluster →
        PadLanded s t k
          ((List.range 16).flatMap (fun src => (s.core k).writes.filter (fun w => due w && w.order == 1 + src)))
          (fun w => !(due w && decide (1 ≤ w.order) && decide (w.order ≤ 16)))) ∧
      (∀ k, k / 16 ≠ cluster → t.core k = s.core k) ∧ t = { s with cores := t.cores } ∧ SameBytes s t)) ∧
    (∀ ctx, Completes (.scaleLoadComplete ctx) s (fun t =>
      let now := s.now ctx
      (t.ctx ctx).scl = (s.ctx ctx).scl.filter (fun l => !decide (l.1 < now)) ∧
      (∀ e : BitVec 4, (t.ctx ctx).e e = (((s.ctx ctx).scl.filter (fun l => decide (l.1 < now))).filter (fun l =>
        l.2.1 % 16 == e.toNat)).foldl (fun _ l => l.2.2) ((s.ctx ctx).e e)) ∧
      t = s.setCtx ctx { s.ctx ctx with
        es := (t.ctx ctx).es
        scl := (t.ctx ctx).scl } ∧ SameBytes s t))

/-! ### Tiles, rings and windows -/

/-- R203 to R208: `tlook`, `tset`, `tread` and `tclr` on the slots that the issuing context owns, with the order of
their faults. -/
def Obligations.TileTable : Prop :=
  ∀ (s : State),
    let ctx := s.issue.ctx
    let own (i : Nat) : Prop := i < 256 ∧ s.owns ctx i = true
    let busy (i : Nat) : Prop := (s.preTile i).state = .filling ∨ (s.preTile i).state = .draining ∨
      (s.cur.region.isSome ∧ i ∈ s.pre.ringSlots)
    (∀ (o : RUnOp), s.pre.p o.g = true →
      let hit (i : Nat) : Prop := own i ∧ (s.preTile i).state ≠ .empty ∧
        (s.preTile i).tag = BitVec.ofNat 48 (s.pre.x o.rs1).toNat
      let free (i : Nat) : Prop := own i ∧ (s.preTile i).state = .empty
      (∀ i, hit i → (∀ j < i, ¬hit j) → Completes (.tlook o) s (WroteX s · o.rd (BitVec.ofNat 64 i) 2)) ∧
      ((∀ j, ¬hit j) →
        (∀ i, free i → (∀ j < i, ¬free j) →
          Completes (.tlook o) s (WroteX s · o.rd (BitVec.ofNat 64 (2 ^ 63 + i)) 2)) ∧
        ((∀ j, ¬free j) → Completes (.tlook o) s (WroteX s · o.rd (BitVec.ofNat 64 (2 ^ 63 + 0x100)) 2)))) ∧
    (∀ (o : Rs2Op), s.pre.p o.g = true →
      let a := (s.pre.x o.rs1).toNat
      let d := (s.pre.x o.rs2).toNat
      let slot := a % 256
      let lines := d / 2 ^ 13 % 2 ^ 13
      let base := d % 2 ^ 13
      let cap := if d / 2 ^ 26 % 2 = 0 then 6144 else 2048
      let f (c : Code) : Prop := Completes (.tset o) s (Faults · c 0)
      (¬own slot → f .permission) ∧
      (own slot → a / 256 % 256 ≠ 0 ∨ d / 2 ^ 36 ≠ 0 → f .reservedField) ∧
      (own slot → a / 256 % 256 = 0 → d / 2 ^ 36 = 0 →
        (busy slot → f .ringMisuse) ∧
        (¬busy slot →
          (lines = 0 ∨ cap < base + lines → f .ringMisuse) ∧
          (lines ≠ 0 → base + lines ≤ cap →
            (12 < d / 2 ^ 27 % 16 → f .formatMismatch) ∧
            (d / 2 ^ 27 % 16 ≤ 12 → d / 2 ^ 31 % 8 = 7 → f .layoutMismatch) ∧
            (d / 2 ^ 27 % 16 ≤ 12 → d / 2 ^ 31 % 8 ≠ 7 → Completes (.tset o) s (fun t =>
              let e := t.curCore.tile slot
              e.word ctx 1 = d % 2 ^ 35 + ctx % 2 * 2 ^ 35 ∧ e.tag = BitVec.ofNat 48 (a / 2 ^ 16) ∧
              e.state = (if d / 2 ^ 35 % 2 = 1 then .ready else .empty) ∧ e.Cleared ∧
              (∀ i, i ≠ slot → t.curCore.tile i = s.curCore.tile i) ∧ OnlyTiles s t)))))) ∧
    (∀ (o : RROp), s.pre.p o.g = true →
      let slot := (s.pre.x o.rs1).toNat % 256
      let k := (s.pre.x o.rs2).toNat % 64
      let e := s.preTile slot
      let reads (v : Nat) : Prop := Completes (.tread o) s (WroteX s · o.rd (BitVec.ofNat 64 v) 2)
      (¬own slot → Completes (.tread o) s (Faults · .permission 0)) ∧
      (own slot →
        (k = 0 → reads (e.tag.toNat * 2 ^ 16 + e.fcode.toNat * 2 ^ 8 + e.faulted.toNat * 16 + e.inflight.toNat * 8 +
          e.relpend.toNat * 4 + (match e.state with
            | .empty => 0
            | .filling => 1
            | .ready => 2
            | .draining => 3))) ∧
        (k = 1 → reads (ctx % 2 * 2 ^ 35 + e.persist.toNat * 2 ^ 34 + e.layout.toNat * 2 ^ 31 + e.fmt.toNat * 2 ^ 27 +
          e.group.toNat * 2 ^ 26 + e.lines.toNat * 2 ^ 13 + e.base.toNat)) ∧
        (k = 2 → reads (e.stall.toNat * 2 ^ 32 + e.mass.toNat)) ∧ (k = 3 → reads e.cid.toNat) ∧ (3 < k → reads 0))) ∧
    (∀ (o : JrOp), s.pre.p o.g = true →
      let slot := (s.pre.x o.rs1).toNat % 256
      (¬own slot → Completes (.tclr o) s (Faults · .permission 0)) ∧
      (own slot → busy slot → Completes (.tclr o) s (Faults · .ringMisuse 0)) ∧
      (own slot → ¬busy slot → Completes (.tclr o) s (fun t =>
        let e := t.curCore.tile slot
        e.state = .empty ∧ e.tag = 0 ∧ e.Cleared ∧ e.word ctx 1 = (s.curCore.tile slot).word ctx 1 ∧
        (∀ i, i ≠ slot → t.curCore.tile i = s.curCore.tile i) ∧ OnlyTiles s t)))

/-- R205, R210 to R213: `rdef`, `radv`, `padv` and `rcnt` move and read cursors and the slots that a cursor leaves
take the states of Table 3; `mcwin` sets the context's window. The cursors are those that earlier slots of the bundle
have left. The model's choices here: assumption log 43. -/
def Obligations.RingsAndWindows : Prop :=
  ∀ (s : State),
    let ctx := s.issue.ctx
    (∀ (o : RdefOp), s.pre.p o.g = true →
      let f := (s.pre.x o.rs1).toNat % 256
      let d := (s.pre.x o.rs2).toNat
      let n := d % 2 ^ 9
      let fails (c : Code) : Prop := Completes (.rdef o) s (Faults · c 0)
      let other (i : Nat) : Prop := ∃ k ∈ s.pre.rings, k.1 ≠ o.h.toNat ∧ i ∈ k.2.slots
      let sets (r : Ring) : Prop := Completes (.rdef o) s (fun t =>
        (∀ h, t.cur.ring h = if h = o.h then r else s.cur.ring h) ∧ OnlyRings s t ∧ t.curCore = s.curCore)
      (s.cur.region.isSome → fails .ringMisuse) ∧
      (s.cur.region = none → d / 2 ^ 9 ≠ 0 → fails .reservedField) ∧
      (s.cur.region = none → d / 2 ^ 9 = 0 →
        (n = 0 → sets Ring.none) ∧
        (n ≠ 0 → 256 < f + n → fails .ringMisuse) ∧
        (n ≠ 0 → f + n ≤ 256 →
          ((∃ i, f ≤ i ∧ i < f + n ∧ s.owns ctx i = false) → fails .permission) ∧
          ((∀ i, f ≤ i → i < f + n → s.owns ctx i = true) →
            ((∃ i, f ≤ i ∧ i < f + n ∧ (other i ∨ (s.preTile i).lines = 0)) → fails .ringMisuse) ∧
            ((∀ i, f ≤ i → i < f + n → ¬other i ∧ (s.preTile i).lines ≠ 0) → sets ⟨f, n, 0, 0⟩))))) ∧
    (∀ (o : RadvOp), s.pre.p o.g = true →
      let c := 2 * ((s.pre.x o.rs1).toNat % 2 ^ 32)
      let r := s.pre.ring o.h
      let q := s.cur.ring o.h
      let fill := (r.pc - r.cc).toNat
      let past := ringLeaves s.preTile r (r.n + c) r.cc.toNat c
      let gone := ringLeaves (s.tile (coreOf ctx)) q (q.n + c) q.cc.toNat c
      let busy : Prop := ∃ i ∈ past, (s.preTile i).state = .filling ∨ (s.preTile i).state = .draining
      (r.n = 0 ∨ fill < c → Completes (.radv o) s (Faults · .ringMisuse 0)) ∧
      (r.n ≠ 0 → c ≤ fill → busy → Completes (.radv o) s (Faults · .ringMisuse 0)) ∧
      (r.n ≠ 0 → c ≤ fill → ¬busy → Completes (.radv o) s (fun t =>
        (∀ h, t.cur.ring h = if h = o.h then { q with cc := q.cc + BitVec.ofNat 32 c } else s.cur.ring h) ∧
        (∀ i ∈ gone, (s.curCore.tile i).state = .ready →
          (s.cur.region = none → (t.curCore.tile i).state = .empty ∧ (t.curCore.tile i).faulted = false ∧
            (t.curCore.tile i).mass = 0 ∧ (t.curCore.tile i).stall = 0xFFFFFFFF) ∧
          (s.cur.region.isSome → t.curCore.tile i = { s.curCore.tile i with relpend := true })) ∧
        (∀ i, i ∉ gone ∨ (s.curCore.tile i).state ≠ .ready → t.curCore.tile i = s.curCore.tile i) ∧
        ((∀ i ∈ gone, (s.curCore.tile i).stall = 0xFFFFFFFF) → OnlyRings s t)))) ∧
    (∀ (o : RadvOp), s.pre.p o.g = true →
      let c := 2 * ((s.pre.x o.rs1).toNat % 2 ^ 32)
      let r := s.pre.ring o.h
      let q := s.cur.ring o.h
      let fill := (r.pc - r.cc).toNat
      let past := ringLeaves s.preTile r (r.n + c) r.pc.toNat c
      let gone := ringLeaves (s.tile (coreOf ctx)) q (q.n + c) q.pc.toNat c
      (r.n = 0 ∨ ringLen s.preTile r < fill + c → Completes (.padv o) s (Faults · .ringMisuse 0)) ∧
      (r.n ≠ 0 → fill + c ≤ ringLen s.preTile r → (∀ i ∈ past, (s.preTile i).state ≠ .draining) →
        Completes (.padv o) s (fun t =>
          (∀ h, t.cur.ring h = if h = o.h then { q with pc := q.pc + BitVec.ofNat 32 c } else s.cur.ring h) ∧
          (∀ i ∈ gone, (t.curCore.tile i).state = (match (s.curCore.tile i).state with
            | .empty => if (s.curCore.tile i).drains = 0 then .ready else .draining
            | .filling => if (s.curCore.tile i).inflight then .filling
                else if (s.curCore.tile i).drains = 0 then .ready else .draining
            | st => st)) ∧
          (∀ i, i ∉ gone → t.curCore.tile i = s.curCore.tile i) ∧ OnlyRings s t))) ∧
    (∀ (o : RcntOp), s.pre.p o.g = true →
      let r := s.pre.ring o.h
      (r.n = 0 → Completes (.rcnt o) s (Faults · .ringMisuse 0)) ∧
      (∀ i k, r.n ≠ 0 → ringAt s.preTile r r.cc.toNat = some (i, k) →
        Completes (.rcnt o) s (WroteX s · o.rd (BitVec.ofNat 64 ((r.pc - r.cc).toNat + i * 2 ^ 32)) 2))) ∧
    (∀ (o : Rs2Op), s.pre.p o.g = true →
      let v := (s.pre.x o.rs1).toNat
      let m := (s.pre.x o.rs2).toNat
      (v % 256 ≠ 0 ∨ 2 ^ 32 ≤ v ∨ 2 ^ 16 ≤ m → Completes (.mcwin o) s (Faults · .reservedField 0)) ∧
      (v % 256 = 0 → v < 2 ^ 32 → m < 2 ^ 16 →
        (2 ^ 20 < 256 * (v / 2 ^ 8 % 2 ^ 12) + 256 * (v / 2 ^ 20) → Completes (.mcwin o) s (Faults · .permission 0)) ∧
        (256 * (v / 2 ^ 8 % 2 ^ 12) + 256 * (v / 2 ^ 20) ≤ 2 ^ 20 → Completes (.mcwin o) s (OnlyCtx s ·
          { s.cur with
            mcbase := s.pre.x o.rs1
            mcmask := BitVec.ofNat 16 m }))))

/-! ### Engine commands -/

/-- R268, R271, R272, R274, R276: every command syllable (transfers, transform triggers, key-value and tier commands,
sample requests, `hctld`, `qpush`, `publish`). It waits while its id is busy; its own checks fault in their order; it
takes the id nextcid; it is held by its region, waits, or runs; one whose queue refuses it fails at once, and so does
one whose predecessor failed, once all that its pm and ord name have retired; one whose predecessor was cancelled ends
CANCELLED. The model's choices here: assumption log 35, 76. -/
def Obligations.CommandIssue : Prop :=
  ∀ (s : State) (i : Instr) (f : CmdForm) (k : Task), s.commandOf i = some f → s.pre.p f.g = true →
    sfind s.tasks s.pre.task = some k → k.st = .on s.issue.ctx →
    let st := s.pre.statusOf s.pre.nextcid
    let held := s.commandHeld f
    let room := s.commandRoom f
    (1 ≤ st ∧ st ≤ 3 → Completes i s (Waits s · s.issue.post)) ∧
    (¬(1 ≤ st ∧ st ≤ 3) →
      (∀ e, s.commandFault f = some e → Completes i s (Faults · e.1 e.2)) ∧
      (s.commandFault f = none →
        (s.pre.namedPreds f.pm = none → Completes i s (Faults · .reservedField 0)) ∧
        (∀ ps, s.pre.namedPreds f.pm = some ps →
          let p := predsOf (s.cur.setStat s.pre.nextcid (statusWord s.pre.nextcid 0 false 2 0)) ps
          (held = true → 32 ≤ s.heldCount → Completes i s (Faults · .regionFull 0)) ∧
          (room = false → f.deferred = false → Completes i s (Faults · .queueQuota 0)) ∧
          (room = false → f.deferred = true → Completes i s (FailedAtOnce s · 0x38 false)) ∧
          ((held = true → s.heldCount < 32) → room = true →
            (held = true ∨ p = .go ∨ p = .wait ∨ ¬s.InOrder f → Completes i s (Accepted s · f ps p)) ∧
            (held = false → s.InOrder f →
              (∀ c < 256, p = .failed c → Completes i s (FailedAtOnce s · c true)) ∧
              (p = .cancelled → Completes i s (TookId s · 6)))))))

/-- R5, R269, R270, R286, R288: engine registers and transform ports. A register reads its fields as written and its
reserved bits as 0; `kv.stale` is the count of the selected pool, where that is the pen's (R302). Writes of read-only
registers are ignored; a write or read of a port outside Table 5 raises `RESERVED_FIELD`, and a result port waits for
the unit's operations of the task. R236, R273, R275, R278: `xwait` and `xpoll` report the entry of an id, or state 7
where the entry holds another id; `xwait` waits while the command waits or runs; a retired state orders later loads
after the command's writes. The model's choices here: assumption log 46. -/
def Obligations.EngineRegistersAndStatus : Prop :=
  (∀ (s : State),
    (∀ (o : SrOp), s.pre.p o.g = true →
      let i := o.idx.toNat
      let pool := s.pool ((s.pre.engReg 0x100).toNat % 8)
      (i ≠ 0x10F → ∃ v : Word, (∀ b < 64, v.getLsbD b = ((s.pre.engReg i).getLsbD b && (engMask i).testBit b)) ∧
        Completes (.erd o) s (WroteX s · o.rd v 1)) ∧
      (i = 0x10F → Completes (.erd o) s (WroteX s · o.rd
        (if pool.pen = s.pre.pen.toNat then BitVec.ofNat 64 pool.stale else 0) 1)) ∧
      (i = 0x10A ∨ i = 0x10F → Completes (.ewr o) s (OnlyCtx s · s.cur)) ∧
      (i ≠ 0x10A → i ≠ 0x10F → Completes (.ewr o) s (fun t =>
        (∀ j, t.cur.engReg j = if j = i then s.pre.x o.rd else s.cur.engReg j) ∧
        OnlyCtx s t { s.cur with eng := t.cur.eng }))) ∧
    (∀ (o : TmovOp), s.pre.p o.g = true →
      let v := s.pre.x o.rs1
      let bad : Prop := (o.port = 2 ∧ 2 ^ 32 ≤ v.toNat) ∨ (o.port = 3 ∧ 2 ^ 10 ≤ v.toNat)
      (bad → Completes (.tmov o) s (Faults · .reservedField 0)) ∧
      (¬bad → Completes (.tmov o) s (fun t =>
        (∀ j, t.cur.port j = if j = o.port.toNat then v else s.cur.port j) ∧
        OnlyCtx s t { s.cur with ports := t.cur.ports }))) ∧
    (∀ (o : RUnOp), s.pre.p o.g = true →
      let p := (s.pre.x o.rs1).toNat % 256
      let busy : Prop := ∃ c ∈ s.cmds, c.task = s.pre.task ∧ c.st ≠ .held ∧ ∃ n, c.kind = .trig n
      (p < 7 ∨ (0x80 ≤ p ∧ p ≤ 0x83 ∧ ¬busy) → Completes (.tget o) s (WroteX s · o.rd (s.pre.port p) 1)) ∧
      (0x80 ≤ p ∧ p ≤ 0x83 → busy → Completes (.tget o) s (Waits s · s.issue.post)) ∧
      (7 ≤ p ∧ (p < 0x80 ∨ 0x83 < p) → Completes (.tget o) s (Faults · .reservedField 0)))) ∧
  (∀ (o : RUnOp) (s : State), s.pre.p o.g = true →
    let id := (s.pre.x o.rs1).setWidth 16
    let mine : Prop := (s.pre.stat id).toNat / 2 ^ 48 = id.toNat
    let st := s.pre.statusOf id
    let w := BitVec.ofNat 64 (id.toNat * 2 ^ 48 + 7 * 2 ^ 32)
    let fresh := s.setCore (coreOf s.issue.ctx) { s.curCore with l1 := [] }
    (¬mine → Completes (.xwait o) s (WroteX s · o.rd w 1) ∧ Completes (.xpoll o) s (WroteX s · o.rd w 1)) ∧
    (mine →
      (4 ≤ st ∧ st ≤ 6 → ∀ i, i = .xwait o ∨ i = .xpoll o →
        Completes i s (fun t => SameBytes s fresh ∧ WroteX fresh t o.rd (s.pre.stat id) 1)) ∧
      (st = 2 ∨ st = 3 → Completes (.xwait o) s (Waits s · s.issue.post) ∧
        Completes (.xpoll o) s (WroteX s · o.rd (s.pre.stat id) 1)) ∧
      (st < 2 ∨ st = 7 → Completes (.xwait o) s (WroteX s · o.rd (s.pre.stat id) 1) ∧
        Completes (.xpoll o) s (WroteX s · o.rd (s.pre.stat id) 1))))

/-- R387, R388, R390, R102: the barrier syllables, with the number in a register or in the word. Outside a gang, with
a bad count, without a record to wait on or with one already, they raise `BARRIER_MISUSE`; an operation waits until
its gang's home has answered; a wait parks while its phase has not completed, and then clears its record. An operation
that has arrived applies at the home, the earliest first. An initialisation sets the count where no arrival is
pending; an arrival of an initialised barrier is recorded with the phase, and the last one of a phase resets the
count, completes the phase and wakes the gang's waiters; both release their context's region. An arrival that finds no
free record, or one of its barrier, is refused, as is an operation that the barrier does not allow; a region then
stays open. An arrival waits until what its context stored before has performed. The model's choices here: assumption
log 50, 91. -/
def Obligations.Barriers : Prop :=
  (∀ (s : State) (g : BitVec 4), s.pre.p g = true →
    let misuse (i : Instr) : Prop := Completes i s (Faults · .barrierMisuse 0)
    let init (i : Instr) (b : Nat) (c : Word) : Prop :=
      (∃ o : Rs2Op, i = .barInitReg o ∧ o.g = g ∧ b = (s.pre.x o.rs1).toNat % 1024 ∧
        c = s.pre.x o.rs2) ∨ (∃ o : BarInitOp, i = .barInitImm o ∧ o.g = g ∧ b = o.b.toNat ∧ c = s.pre.x o.rs1)
    let arr (i : Instr) (b : Nat) : Prop :=
      (∃ o : JrOp, i = .barArrReg o ∧ o.g = g ∧ b = (s.pre.x o.rs1).toNat % 1024) ∨
        (∃ o : BarOp, i = .barArrImm o ∧ o.g = g ∧ b = o.b.toNat)
    let sync (i : Instr) (b : Nat) : Prop :=
      (∃ o : JrOp, i = .barSyncReg o ∧ o.g = g ∧ b = (s.pre.x o.rs1).toNat % 1024) ∨
        (∃ o : BarOp, i = .barSyncImm o ∧ o.g = g ∧ b = o.b.toNat)
    let wait (i : Instr) (b : Nat) : Prop :=
      (∃ o : JrOp, i = .barWaitReg o ∧ o.g = g ∧ b = (s.pre.x o.rs1).toNat % 1024) ∨
        (∃ o : BarOp, i = .barWaitImm o ∧ o.g = g ∧ b = o.b.toNat)
    let ans := s.homeAnswer
    let canArrive (b : Nat) : Prop := ans ≠ none ∨ (s.cur.record b = none ∧ ∃ i < 4, ∀ a, sfind s.cur.arrivals i = some a →
      a.valid = false)
    let phase (i : Instr) (gang : Gang) (b : Nat) : Prop :=
      (s.cur.record b = none → misuse i) ∧
      (∀ n r, s.cur.record b = some (n, r) →
        ((gang.barrier b).p = r.phase → Completes i s (Waits s · (some (.park (.bar b))))) ∧
        ((gang.barrier b).p ≠ r.phase → Completes i s (RecordCleared s · n)))
    ((∀ gang, ¬s.InGang gang) → ∀ i b, ((∃ c, init i b c) ∨ arr i b ∨ sync i b ∨ wait i b) → misuse i) ∧
    (∀ gang, s.InGang gang → ∀ (i : Instr) (b : Nat),
      (∀ c, init i b c →
        (c.toNat = 0 ∨ gang.size < c.toNat → misuse i) ∧
        (c.toNat ≠ 0 → c.toNat ≤ gang.size →
          (ans = some true → Completes i s (fun t => t = s)) ∧ (ans = some false → misuse i) ∧
          (ans = none → Completes i s (Waits s · (some (.bar 0 b c.toNat)))))) ∧
      (arr i b ∨ sync i b →
        (¬canArrive b → misuse i) ∧ (ans = some false → misuse i) ∧
        (ans = none → canArrive b → Completes i s (Waits s · (some (.bar 1 b 0))))) ∧
      (arr i b → ans = some true → Completes i s (fun t => t = s)) ∧
      (sync i b → ans = some true → phase i gang b) ∧ (wait i b → phase i gang b))) ∧
  (∀ (s : State) (core : Nat) (r : BarReq) (rest : List BarReq) (k : Task) (g : Gang),
    isort BarReq.before (sget [] s.barReqs core) = r :: rest → r.due ≤ (s.cluster (core / 16)).cycle →
    sfind s.tasks (s.ctx r.ctx).task = some k → k.st = .on r.ctx → sfind s.gangs k.gang = some g →
    let B := g.barrier r.b
    let answered (t : State) (ok : Bool) : Prop :=
      (if r.slot = .c then (t.ctx r.ctx).ans.barC else (t.ctx r.ctx).ans.barE) = some ok ∧
      sget [] t.barReqs core = rest
    let applied (t : State) (B' : Barrier) : Prop := answered t true ∧ (t.ctx r.ctx).region = none ∧
      ∃ g', sfind t.gangs k.gang = some g' ∧ (∀ b, g'.barrier b = if b = r.b then B' else g.barrier b) ∧
        g'.size = g.size ∧ g'.home = g.home
    let recs := (s.ctx r.ctx).arrivals
    -- another arrival of the context waits there for what it stored before
    let behind : Prop := r.held = false ∧ ∃ q ∈ (if g.home = core then rest else sget [] s.barReqs g.home),
      q.ctx = r.ctx ∧ q.held = true
    let stays (t : State) (held : Bool) : Prop := t.gangs = s.gangs ∧ { r with
      due := (s.cluster (g.home / 16)).cycle + 1
      held := held } ∈ sget [] t.barReqs g.home
    let untouched (t : State) : Prop := t.gangs = s.gangs ∧ (t.ctx r.ctx).region = (s.ctx r.ctx).region ∧ SameBytes s t
    let before : Prop := (({ s with barReqs := sput [] s.barReqs core rest } : State).releaseRegion r.ctx).storesLeft
      (s.ctx r.ctx).task = true
    let takes : Prop := (∀ a ∈ recs, ¬(a.2.valid = true ∧ a.2.pend = false ∧ a.2.b = r.b)) ∧
      ∃ i < 4, ∀ a, sfind recs i = some a → a.valid = false
    let waiting (c : Nat) : Prop := ∃ q ∈ s.tasks, q.2.gang = k.gang ∧ q.2.st = .on c ∧ (s.ctx c).st = .parked (.bar r.b)
    let runs (P : State → Prop) : Prop := Completes (.barrierOpAtHome core) s P
    (r.op = 0 → B.a ≠ 0 → runs (fun t => answered t false ∧ untouched t)) ∧
    (r.op = 0 → B.a = 0 → runs (applied · { B with n := r.c })) ∧
    (r.op ≠ 0 → behind → runs (fun t => stays t false ∧ untouched t)) ∧
    (r.op ≠ 0 → ¬behind → r.held = false → B.n = 0 ∨ ¬takes → runs (fun t => answered t false ∧ untouched t)) ∧
    (r.op ≠ 0 → ¬behind → B.n ≠ 0 → takes → before → runs (fun t => stays t true ∧ (t.ctx r.ctx).region = none)) ∧
    (r.op ≠ 0 → ¬behind → B.n ≠ 0 → takes → ¬before →
      (B.a + 1 ≠ B.n → runs (applied · { B with a := B.a + 1 })) ∧
      (B.a + 1 = B.n → runs (fun t => applied t { B with
        a := 0
        p := B.p + 1 } ∧ ∀ c, waiting c → (t.ctx c).st = .ready)) ∧
      runs (fun t => ∃ n, sfind (t.ctx r.ctx).arrivals n = some ⟨true, r.b, B.p, false⟩)))

/-- R289, R290, R384 to R386, R391: `pop` and `pop.try` of a queue of the task's job take the entry given to the
context, or the head that no other context waits for; an empty queue answers 2 where it is closed, 1 to `pop.try`, and
holds a `pop`. A refill moves the oldest spilled entries in while there is room, as far as budgets admit it. A cycle
of a queue with no arrivals gives its head to the waiting context of least number, and one push of the host to an open
queue with room stands last. The model's choices here: assumption log 49. -/
def Obligations.WorkQueues : Prop :=
  ∀ (s : State),
    (∀ (o : RROp) (i : Instr), s.pre.p o.g = true → i = .pop o ∨ i = .popTry o →
      let q := (s.pre.x o.rs1).toNat % 256
      let me := s.issue.ctx
      let u := s.refillOne q
      let w := u.queue q
      let mine := w.granted.find? (fun k => k.1 == me)
      let mayTake : Prop := mine = none ∧ ∀ c ∈ w.waiters, c = me
      let took (e : BitVec 128) (w' : WorkQ) : Prop := Completes i s (fun t =>
        (∀ j, t.cur.x j = if j = 0 then 0 else if j = o.rs2 then 0 else if j = o.rd + 1 then BitVec.ofNat 64 (e.toNat / 2 ^ 64)
          else if j = o.rd then BitVec.ofNat 64 e.toNat else s.cur.x j) ∧
        t.cur = { s.cur with
          xs := t.cur.xs
          sb := t.cur.sb } ∧
        (∀ k, k ≠ me → t.ctx k = s.ctx k) ∧ t.queue q = w' ∧ (∀ r, r ≠ q → t.queue r = s.queue r) ∧
        t.curCore = { s.curCore with l1 := s.curCore.l1.filter (fun l => l.kind != 1) } ∧
        t.tasks = s.tasks ∧ t.jobs = s.jobs ∧ t.cmds = s.cmds ∧ SameBytes s t)
      let foreign : Prop := (s.queue q).job ≠ s.jobOf me ∨ (s.queue q).job = 0
      (foreign → Completes i s (Faults · .permission 0)) ∧
      (¬foreign →
        (∀ k, mine = some k → took k.2 { w with granted := w.granted.eraseP (fun k => k.1 == me) }) ∧
        (mayTake → ∀ e r, w.hw = e :: r → took e { w with
          hw := r
          waiters := w.waiters.filter (fun c => c != me) }) ∧
        ((mayTake → w.hw = []) → mine = none →
          (w.closed = true ∧ w.hw = [] ∧ w.tail ≤ w.head → Completes i s (fun t =>
            XsAfter u t o.rs2 2 ∧ t.queue q = { w with waiters := w.waiters.filter (fun c => c != me) } ∧
            CtxsKept u t { u.cur with
              xs := t.cur.xs
              sb := t.cur.sb } ∧ SameBytes s t)) ∧
          (¬(w.closed = true ∧ w.hw = [] ∧ w.tail ≤ w.head) →
            (i = .pop o → Completes i s (Waits s · (some (.pop q)))) ∧
            (i = .popTry o → Completes i s (fun t => SameBytes s u ∧ WroteX u t o.rs2 1 1)))))) ∧
    (∀ q, Completes (.queueSpillRefill q) s (fun t =>
      let w := s.queue q
      ∃ n ≤ min (64 - w.hw.length) (w.tail - w.head),
      (s.FreeFor w.pen → n = min (64 - w.hw.length) (w.tail - w.head)) ∧
      t.queue q = { w with
        hw := w.hw ++ (List.range n).map (fun i =>
          BitVec.ofNat 128 (s.physRead (w.base / 64 * 64 + 16 * ((w.head + i) % 2 ^ w.lsize)) 16))
        head := w.head + n } ∧
      (∀ r, r ≠ q → t.queue r = s.queue r) ∧ t.ctxs = s.ctxs ∧ t.cmds = s.cmds ∧ SameBytes s t)) ∧
    (∀ q, let w := s.queue q
      w.arrivals = [] →
      (∀ e r c l, w.hw = e :: r → isort (fun a b => decide (a ≤ b)) w.waiters = c :: l →
        Completes (.workQueueCycle q []) s (fun t => (c, e) ∈ (t.queue q).granted ∧ c ∉ (t.queue q).waiters ∧
          (∀ r, r ≠ q → t.queue r = s.queue r) ∧ t.ctxs = s.ctxs ∧ SameBytes s t)) ∧
      (∀ e, w.job ≠ 0 → w.closed = false → w.tail ≤ w.head → w.hw.length < 64 → w.waiters = [] → e ≠ BitVec.allOnes 128 →
        Completes (.workQueueCycle q [e]) s (fun t => t.queue q = { w with hw := w.hw ++ [e] } ∧
          (∀ r, r ≠ q → t.queue r = s.queue r) ∧ t.ctxs = s.ctxs ∧ SameBytes s t)))

/-- R379, R380, R392, R393: `jraise` adds to the expected total of a RUNNING job and raises `JOB_RAISE` otherwise;
`texit` ends its task, frees its context and posts one completion: the completion that meets the expected total ends
the job DONE, and a completion after a failure counts as late. The job's block in memory follows, once budgets admit
the write. The model's choices here: assumption log 94. -/
def Obligations.JobSyllables : Prop :=
  ∀ (s : State) (k : Task) (j : Job), sfind s.tasks s.cur.task = some k → k.st = .on s.issue.ctx →
    sfind s.jobs k.job = some j →
    (∀ o : JrOp, s.pre.p o.g = true →
      let a := (s.pre.x o.rs1).toNat
      (j.st ≠ .running ∨ 2 ^ 64 ≤ j.expected + a → Completes (.jraise o) s (Faults · .jobRaise 0)) ∧
      (j.st = .running → j.expected + a < 2 ^ 64 → Completes (.jraise o) s (fun t =>
        sfind t.jobs k.job = some { j with expected := j.expected + a } ∧
        (∀ n, n ≠ k.job → sfind t.jobs n = sfind s.jobs n) ∧
        (j.jcb % 64 = 0 → s.Makes j.pen j.jcb → t.physRead j.jcb 8 = j.expected + a) ∧
        (j.jcb % 64 = 0 → ¬s.Makes j.pen j.jcb → SameBytes s t ∧
          ∃ w ∈ t.posts, w.pen = j.pen ∧ w.pa = j.jcb ∧ w.n = 64 ∧ w.v % 2 ^ 64 = j.expected + a) ∧
        SameBytesOut s t j.jcb 64 ∧ CtxsKept s t s.cur ∧ t.tasks = s.tasks ∧ t.pens = s.pens ∧ t.cmds = s.cmds))) ∧
    (∀ o : GOp, s.pre.p o.g = true → Completes (.texit o) s (fun t =>
      sfind t.tasks s.cur.task = none ∧ t.cur.st = .idle ∧ t.cur.task = 0 ∧
      ∃ j', sfind t.jobs k.job = some j' ∧ j'.ended = j.ended + 1 ∧ j'.expected = j.expected ∧
        (j.st = .running → j'.completed = j.completed + 1 ∧
          j'.st = if j.completed + 1 = j.expected then .done else .running) ∧
        (j.st ≠ .running → j'.completed = j.completed ∧ j'.st = j.st ∧ j'.late = min (2 ^ 64 - 1) (j.late + 1)) ∧
        (s.FreeFor j.pen → j.st = .running → j.completed + 1 ≠ j.expected → j.completed + 1 < 2 ^ 64 → j.expected < 2 ^ 64 → j.jcb % 64 = 0 →
          t.physRead (j.jcb + 8) 8 = j.completed + 1)))

/-! ### The matrix array -/

/-- R178, R179, R181, R182, R187, R189, R190, R195: PUSH. Its entry's checks, its ring's, and then the B latch: the 8
columns of a dense unit, the columns that a sparse unit's metadata spreads, or the columns that generator records
expand to. The metadata is what coherent memory holds, or the region has buffered. A beat that would advance past the
producer cursor, or leave a slot that is FILLING or DRAINING, raises `RING_MISUSE` (R205, R210); one waits for an
earlier `vscatter` that still writes a line of its unit (R161). The model's choices here: assumption log 15, 86. -/
def Obligations.PushBeats : Prop :=
  ∀ (s : State) (o : BeatOp),
    let m := s.beatFmt o.mft
    let runs (P : State → Prop) : Prop := Completes (.push o) s P
    let byte (a : Nat) : Nat := cellsRead s.curCore.scratch 20 a 1
    let q := s.cur.ring o.ring
    let short (c : Nat) : Prop := o.adv = 1 ∧ ((q.pc - q.cc).toNat < c ∨
      ∃ i ∈ ringLeaves s.preTile q (q.n + c) q.cc.toNat c, (s.preTile i).state = .filling ∨ (s.preTile i).state = .draining)
    (m.rsv ≠ 0 → runs (Faults · .reservedField 0)) ∧
    (m.rsv = 0 → m.ok .push = false → runs (Faults · .formatMismatch 0)) ∧
    (m.rsv = 0 → m.ok .push = true →
      let gen : Prop := ∃ a, ∃ i, s.Span o.ring 0 1 i a ∧ (s.preTile i).fmt = 11
      (∀ k, (gen → k = 3) → (¬gen → k = 24) →
        ((∀ i a, ¬s.Span o.ring 0 k i a) → runs (Faults · .ringMisuse 0)) ∧
        (∀ i a, s.Span o.ring 0 k i a →
          let e := s.preTile i
          (e.group ≠ 1 → runs (Faults · .ringMisuse 0)) ∧
          (e.group = 1 → s.UnitWaits i a k → runs (Waits s · s.issue.post)) ∧
          (e.group = 1 → e.state = .empty → s.fillComing i = false → runs (Faults · .tileNotArmed 0)) ∧
          (e.group = 1 → s.UnitReads i a k → m.blay ≠ 0 → m.blay ≠ e.layout.toNat → runs (Faults · .layoutMismatch 0)) ∧
          (e.group = 1 → s.UnitReads i a k → m.blay = 0 ∨ m.blay = e.layout.toNat →
            (e.fmt.toNat ≠ m.bfmt → ¬gen → runs (Faults · .formatMismatch 0)) ∧
            (e.fmt.toNat = m.bfmt → ¬gen → short 24 → runs (Faults · .ringMisuse 0)) ∧
            (∀ ls, e.fmt.toNat = m.bfmt → ¬gen → ¬short 24 → m.sp = 0 →
              addLines s.issue.lines ((List.range 24).map (fun j => a / 128 + j)) = some ls →
              runs (fun t => ∃ l, t.cur.latch = some l ∧ l.bfmt = m.bfmt ∧ l.sp = 0 ∧ l.kept = [] ∧ l.cols.length = 8 ∧
                (∀ c < 8, ∀ b < 384, l.cols.getD c 0 / 256 ^ b % 256 = byte (a + 384 * c + b)) ∧
                sget 0 t.cur.sb keyLatch = 0 ∧ t.cur.acc = s.cur.acc ∧ t.cur.mpc = s.cur.mpc ∧ BeatKept s t ls ∧
                Advanced s t o.adv o.ring 24)) ∧
            (e.fmt.toNat = m.bfmt → ¬gen → ¬short 24 → m.sp = 0 →
              addLines s.issue.lines ((List.range 24).map (fun j => a / 128 + j)) = none →
              runs (Faults · .bankConflict 0)) ∧
            (e.fmt.toNat = m.bfmt → ¬gen → ¬short 24 → m.sp ≠ 0 → s.pre.mpc.toNat % 128 ≠ 0 →
              runs (Faults · .misaligned s.pre.mpc.toNat)) ∧
            (∀ ts u, e.fmt.toNat = m.bfmt → ¬gen → ¬short 24 → m.sp ≠ 0 →
              GoodPieces s true false 128 ((List.range 6).map (fun j => s.pre.mpc.toNat + 128 * j)) ts u →
              ∃ w, PiecesCoherent u 128 w ts ∧
              let fits (j : Nat) : Prop :=
                ((List.range 16).filter (fun b => w.testBit (16 * j + b))).length = if m.sp = 1 then 4 else 8
              (∀ j < 384, ¬fits j → (∀ q < j, fits q) → runs (Faults · .sparseMeta (s.pre.mpc.toNat + 2 * j))) ∧
              ∀ ls, (∀ j < 384, fits j) →
              addLines s.issue.lines ((List.range 24).map (fun j => a / 128 + j)) = some ls →
              runs (fun t => ∃ l, t.cur.latch = some l ∧ l.bfmt = m.bfmt ∧ l.sp = m.sp ∧ l.cols.length = 8 ∧
                l.kept.length = 8 ∧
                (∀ c < 8, ∀ p < 768, ((l.kept.getD c 0).testBit p = w.testBit (768 * c + p)) ∧
                  l.cols.getD c 0 / 256 ^ p % 256 = if w.testBit (768 * c + p) then
                    byte (a + 384 * c + ((List.range p).filter (fun q => w.testBit (768 * c + q))).length) else 0) ∧
                t.cur.mpc = s.pre.mpc + 768 ∧ BeatKept u t ls ∧ Advanced u t o.adv o.ring 24)) ∧
            (gen → ¬((m.bfmt = 3 ∨ m.bfmt = 4 ∨ m.bfmt = 6) ∧ m.sp = 0 ∧ m.kb = 12) →
              runs (Faults · .formatMismatch 0)) ∧
            (gen → (m.bfmt = 3 ∨ m.bfmt = 4 ∨ m.bfmt = 6) ∧ m.sp = 0 ∧ m.kb = 12 → short 3 → runs (Faults · .ringMisuse 0)) ∧
            (∀ ls, gen → ¬short 3 → (m.bfmt = 3 ∨ m.bfmt = 4 ∨ m.bfmt = 6) ∧ m.sp = 0 ∧ m.kb = 12 →
              let u := cellsRead s.curCore.scratch 20 a 384
              (∀ j < 48, recOk (u / 2 ^ (64 * j) % 2 ^ 64) = true) →
              addLines s.issue.lines ((List.range 3).map (fun j => a / 128 + j)) = some ls →
              runs (fun t => t.cur.latch = some ⟨genCols u m.bfmt, [], m.bfmt, 0⟩ ∧
                sget 0 t.cur.sb keyLatch = s.now s.issue.ctx + 8 ∧ t.cur.acc = s.cur.acc ∧ BeatKept s t ls ∧
                Advanced s t o.adv o.ring 3))))))

/-- R81, R83, R179, R182, R184, R191: MAC. The bank takes the sum of its old cells and the products, readable by a
DRAIN after 6 cycles, and its events go to the flags; the cells of a dense integer pair are exact sums clamped to 32
bits. A beat that would advance past the producer cursor, or leave a slot that is FILLING or DRAINING, raises
`RING_MISUSE` (R205, R210). The model's choices here: assumption log 29, 86. -/
def Obligations.MacBeats : Prop :=
  ∀ (s : State) (o : BeatOp),
    let m := s.beatFmt o.mft
    let k := if m.sp = 0 then 24 else 48
    let runs (P : State → Prop) : Prop := Completes (.mac o) s P
    let q := s.cur.ring o.ring
    let short : Prop := o.adv = 1 ∧ ((q.pc - q.cc).toNat < k ∨
      ∃ i ∈ ringLeaves s.preTile q (q.n + k) q.cc.toNat k, (s.preTile i).state = .filling ∨ (s.preTile i).state = .draining)
    (m.rsv ≠ 0 → runs (Faults · .reservedField 0)) ∧
    (m.rsv = 0 → m.ok .mac = false → runs (Faults · .formatMismatch 0)) ∧
    (m.rsv = 0 → m.ok .mac = true →
      ((∀ i a, ¬s.Span o.ring 0 k i a) → runs (Faults · .ringMisuse 0)) ∧
      (∀ i a, s.Span o.ring 0 k i a →
        let e := s.preTile i
        (e.group ≠ 0 → runs (Faults · .ringMisuse 0)) ∧
        (e.group = 0 → s.UnitWaits i a k → runs (Waits s · s.issue.post)) ∧
        (e.group = 0 → e.state = .empty → s.fillComing i = false → runs (Faults · .tileNotArmed 0)) ∧
        (e.group = 0 → s.UnitReads i a k →
          (m.alay ≠ 0 → m.alay ≠ e.layout.toNat → runs (Faults · .layoutMismatch 0)) ∧
          (m.alay = 0 ∨ m.alay = e.layout.toNat →
            (e.fmt.toNat ≠ m.afmt → runs (Faults · .formatMismatch 0)) ∧
            (e.fmt.toNat = m.afmt → s.pre.latch = none → runs (Faults · .ringMisuse 0)) ∧
            (∀ l, e.fmt.toNat = m.afmt → s.pre.latch = some l →
              (l.bfmt ≠ m.bfmt ∨ l.sp ≠ m.sp → runs (Faults · .formatMismatch 0)) ∧
              (l.bfmt = m.bfmt → l.sp = m.sp → short → runs (Faults · .ringMisuse 0)) ∧
              (l.bfmt = m.bfmt → l.sp = m.sp → ¬short →
                addLines s.issue.lines ((List.range k).map (fun j => a / 128 + j)) = none →
                runs (Faults · .bankConflict 0)) ∧
              (∀ ls, l.bfmt = m.bfmt → l.sp = m.sp → ¬short →
                addLines s.issue.lines ((List.range k).map (fun j => a / 128 + j)) = some ls →
                let u := cellsRead s.curCore.scratch 20 a (128 * k)
                let old := (s.pre.bank o.bank).toNat
                let new := macBank s.pre m l u (e.layout == 6) old
                runs (fun t => (∀ b, t.cur.bank b = if b = o.bank then BitVec.ofNat 2048 new.1 else s.cur.bank b) ∧
                  sget 0 t.cur.sb (keyA o.bank) = s.now s.issue.ctx + 6 ∧ Raised s t new.2 ∧ t.cur.latch = s.cur.latch ∧
                  BeatKept s t ls ∧ Advanced s t o.adv o.ring k) ∧
                (∀ fa fb sparse, pairRow m.afmt m.bfmt = some (false, sparse) → m.sp = 0 → l.kept = [] →
                  ifmtOf m.afmt = some fa → ifmtOf m.bfmt = some fb → ∀ r < 8, ∀ c < 8,
                  let n := 32 * m.kb * 8 / elemBits m.afmt
                  let row := unitRow u 384 (e.layout == 6) r
                  let sum := ((List.range n).map (fun j => fa.value (row / 2 ^ (elemBits m.afmt * j) % 2 ^ elemBits m.afmt) *
                    fb.value (l.cols.getD c 0 / 2 ^ (elemBits m.bfmt * j) % 2 ^ elemBits m.bfmt))).sum
                  sextInt (new.1 / 2 ^ (32 * (8 * r + c)) % 2 ^ 32) 32 =
                    max (-2 ^ 31) (min (2 ^ 31 - 1) (sextInt (old / 2 ^ (32 * (8 * r + c)) % 2 ^ 32) 32 + sum)))))))))

/-- R84, R184, R192, R193, R205, R215: DRAIN sends its bank, converted, into the chunk at the producer cursor and
clears the bank; a slot that an engine fill holds raises `RING_MISUSE` even in a full ring, and so does a DRAIN that
would advance past the ring's length behind a `padv` of its bundle; the slot that such a `padv` has left READY is
DRAINING. `drain h15` clears the bank alone; scale loads read 64 bytes at issue for the register that they reach
later. The model's choices here: assumption log 86. -/
def Obligations.DrainAndScaleBeats : Prop :=
  ∀ (s : State),
    let now := s.now s.issue.ctx
    (∀ (o : BeatOp),
      let m := s.beatFmt o.mft
      let r := s.pre.ring o.ring
      let q := s.cur.ring o.ring
      let runs (P : State → Prop) : Prop := Completes (.drain o) s P
      (m.rsv ≠ 0 → runs (Faults · .reservedField 0)) ∧
      (m.rsv = 0 → m.ok .drain = false → runs (Faults · .formatMismatch 0)) ∧
      (m.rsv = 0 → m.ok .drain = true →
        (r.n = 0 → runs (Faults · .ringMisuse 0)) ∧
        (∀ i k, r.n ≠ 0 → ringAt s.preTile r r.pc.toNat = some (i, k) → k + 2 ≤ (s.preTile i).lines.toNat →
          let e := s.preTile i
          let busy : Prop := e.state = .ready ∨ e.state = .draining
          let full : Prop := busy ∨ (e.inflight = false ∧ ringLen s.preTile r < (r.pc - r.cc).toNat + 2)
          let past : Prop := o.adv = 1 ∧ ringLen s.preTile r < (q.pc - q.cc).toNat + 2
          let d := drainChunk m (s.pre.bank o.bank).toNat
          (full → runs (Waits s · s.issue.post)) ∧
          (¬busy → e.inflight = true → runs (Faults · .ringMisuse 0)) ∧
          (¬full → e.inflight = false → past → runs (Faults · .ringMisuse 0)) ∧
          (¬full → e.inflight = false → ¬past →
            (m.alay ≠ 0 → m.alay ≠ e.layout.toNat → runs (Faults · .layoutMismatch 0)) ∧
            (m.alay = 0 ∨ m.alay = e.layout.toNat →
              (e.fmt.toNat ≠ m.ofmt → runs (Faults · .formatMismatch 0)) ∧
              (e.fmt.toNat = m.ofmt → runs (fun t =>
                t.curCore.writes = s.curCore.writes ++ [⟨now + 9, 0, e.byteBase + 128 * k, 256, d.1, some i⟩] ∧
                (∀ b, t.cur.bank b = if b = o.bank then 0 else s.cur.bank b) ∧ Raised s t d.2 ∧
                (t.curCore.tile i).drains = (s.curCore.tile i).drains + 1 ∧
                (∀ h, t.cur.ring h = if h = o.ring ∧ o.adv = 1 then { q with pc := q.pc + 2 } else s.cur.ring h) ∧
                (o.adv = 0 → (s.curCore.tile i).state = .empty → (t.curCore.tile i).state = .filling) ∧
                (o.adv = 0 → (s.curCore.tile i).state = .ready → (t.curCore.tile i).state = .draining) ∧
                (o.adv = 0 → ∀ j, j ≠ i → t.curCore.tile j = s.curCore.tile j) ∧
                BeatKept s t s.issue.lines ∧ SameBytes s t))))))) ∧
    (∀ (o : DiscardOp),
      ((s.beatFmt o.mft).rsv ≠ 0 → Completes (.drainDiscard o) s (Faults · .reservedField 0)) ∧
      ((s.beatFmt o.mft).rsv = 0 → Completes (.drainDiscard o) s (fun t =>
        (∀ b, t.cur.bank b = if b = o.bank then 0 else s.cur.bank b) ∧ Marked s t (keyA o.bank) 1 ∧
        OnlyCtx s t { s.cur with
          acc := t.cur.acc
          sb := t.cur.sb }))) ∧
    (∀ (o : SclOp) (i : Instr) (slot a : Nat),
      let b := 64 * o.off.toNat
      (i = .scl o ∧ ∃ l, s.Span o.h (b / 128) 1 slot l ∧ a = l + b % 128) ∨
        (i = .sclTile o ∧ (s.pre.ring o.h).n ≠ 0 ∧ (∃ k, ringAt s.preTile (s.pre.ring o.h) (s.pre.ring o.h).cc.toNat =
          some (slot, k)) ∧ b + 64 ≤ (s.preTile slot).bytes ∧ a = (s.preTile slot).byteBase + b) →
      let e := s.preTile slot
      let runs (P : State → Prop) : Prop := Completes i s P
      (s.SlotWaits slot → runs (Waits s · s.issue.post)) ∧
      (e.state = .empty → s.fillComing slot = false → runs (Faults · .tileNotArmed 0)) ∧
      (s.SlotReads slot → e.fmt = 11 ∨ e.fmt = 12 → runs (Faults · .formatMismatch 0)) ∧
      (s.SlotReads slot → e.fmt ≠ 11 → e.fmt ≠ 12 → s.Scattered a 1 → runs (Waits s · s.issue.post)) ∧
      (s.SlotReads slot → e.fmt ≠ 11 → e.fmt ≠ 12 → ¬s.Scattered a 1 →
        (addLines s.issue.lines [a / 128] = none → runs (Faults · .bankConflict 0)) ∧
        (∀ ls, addLines s.issue.lines [a / 128] = some ls → runs (fun t =>
          t = { s.setCtx s.issue.ctx { s.cur with
              scl := s.cur.scl ++ [(now + 3, o.e.toNat, BitVec.ofNat 512 (cellsRead s.curCore.scratch 20 a 64))] } with
            issue := { s.issue with lines := ls } } ∧ SameBytes s t))))

/-! ### Vector slots -/

/-- R144, R202, R206, R211: what a source field gives: a register, nothing where no active element uses it, or the
chunk of a ring, which waits or faults as its slot says; and what an operation does with operands that wait, fault or
meet in one bank. The model's choices here: assumption log 22. -/
def Obligations.VectorOperands : Prop :=
  ∀ (s : State),
    (∀ (src : BitVec 7), s.operand src false = .val 0 [] ∧
      (src.toNat < 64 → s.operand src true = .val (s.pre.v (src.setWidth 6)).toNat []) ∧
      (64 ≤ src.toNat →
        let h : BitVec 4 := BitVec.ofNat 4 (src.toNat / 4 % 16)
        let k := src.toNat % 4
        let f (c : Code) : FaultInfo := ⟨c, 0, s.issue.slot, none, none, false, 0, 0⟩
        ((∀ i a, ¬s.Span h (2 * k) 2 i a) → s.operand src true = .fault (f .ringMisuse)) ∧
        (∀ i a, s.Span h (2 * k) 2 i a →
          let e := s.preTile i
          (s.SlotWaits i → s.operand src true = .wait) ∧
          (e.state = .empty → s.fillComing i = false → s.operand src true = .fault (f .tileNotArmed)) ∧
          (e.state = .ready → e.faulted = true → ∃ g, s.operand src true = .fault g ∧ g.code = Code.ofNum e.fcode.toNat ∧
            g.cid = some e.cid) ∧
          (s.SlotReads i → e.fmt = 11 ∨ e.fmt = 12 → s.operand src true = .fault (f .formatMismatch)) ∧
          (s.SlotReads i → e.fmt ≠ 11 → e.fmt ≠ 12 → s.Scattered a 2 → s.operand src true = .wait) ∧
          (s.SlotReads i → e.fmt ≠ 11 → e.fmt ≠ 12 → ¬s.Scattered a 2 →
            s.operand src true = .val (cellsRead s.curCore.scratch 20 a 256) [a / 128, a / 128 + 1])))) ∧
    (∀ (l : List Opnd) (k : List Nat → State → State),
      (Opnd.wait ∈ l → s.withOperands l k = s.stall) ∧
      (∀ p f q, Opnd.wait ∉ l → l = p ++ Opnd.fault f :: q → (∀ x ∈ p, ∃ v ls, x = Opnd.val v ls) →
        s.withOperands l k = s.fail f) ∧
      (∀ vs : List (Nat × List Nat), l = vs.map (fun v => Opnd.val v.1 v.2) →
        (addLines s.issue.lines (vs.flatMap Prod.snd) = none → s.withOperands l k = s.faultAt .bankConflict 0) ∧
        (∀ ls, addLines s.issue.lines (vs.flatMap Prod.snd) = some ls →
          s.withOperands l k = k (vs.map Prod.fst) { s with issue := { s.issue with lines := ls } })))

/-- R146, R147: integer operations on lanes, as exact integers narrowed, or clamped under `.sat`; no flags. -/
def Obligations.VectorIntegerResults : Prop :=
  ∀ (s : State) (o : VOp), fmtInt o.f = true →
    let w := fmtWidth o.f
    let n := 2048 / w
    let act := s.act o.mask n
    let pat (x i : Nat) : Nat := x / 2 ^ (w * i) % 2 ^ w
    let val (x i : Nat) : Int := if o.f = 8 then (pat x i : Int) else sextInt (pat x i) w
    let lo : Int := if o.f = 8 then 0 else -2 ^ (w - 1)
    let hi : Int := if o.f = 8 then 2 ^ w - 1 else 2 ^ (w - 1) - 1
    let put (r : Int) : Nat := ((if o.k % 2 = 1 then max lo (min hi r) else r) % 2 ^ w).toNat
    let used := s.uses o.mask n (fun _ => true)
    let two (i : Instr) (f : Nat → Nat → Nat → Nat) : Prop := ∀ a b u, s.Reads [(o.sa, used), (o.sb, used)] [a, b] u →
      Completes i s (VecGives u · o.vd 4 act (o.mm == 1) w n (fun j => (f a b j, fNone)))
    let one (i : Instr) (f : Nat → Nat → Nat) : Prop := ∀ a u, s.Reads [(o.sa, used)] [a] u →
      Completes i s (VecGives u · o.vd 4 act (o.mm == 1) w n (fun j => (f a j, fNone)))
    two (.vadd o) (fun a b j => put (val a j + val b j)) ∧
    two (.vsub o) (fun a b j => put (val a j - val b j)) ∧
    two (.vmul o) (fun a b j => put (val a j * val b j)) ∧
    two (.vmulh o) (fun a b j => (val a j * val b j / 2 ^ w % 2 ^ w).toNat) ∧
    two (.vmin o) (fun a b j => (min (val a j) (val b j) % 2 ^ w).toNat) ∧
    two (.vmax o) (fun a b j => (max (val a j) (val b j) % 2 ^ w).toNat) ∧
    one (.vabs o) (fun a j => put |val a j|) ∧
    two (.vand o) (fun a b j => pat a j &&& pat b j) ∧
    two (.vor o) (fun a b j => pat a j ||| pat b j) ∧
    two (.vxor o) (fun a b j => pat a j ^^^ pat b j) ∧
    two (.vandn o) (fun a b j => pat a j &&& (2 ^ w - 1 - pat b j)) ∧
    two (.vshl o) (fun a b j => put (val a j * 2 ^ (pat b j % w))) ∧
    two (.vshr o) (fun a b j => pat a j / 2 ^ (pat b j % w)) ∧
    two (.vsra o) (fun a b j => (val a j / 2 ^ (pat b j % w) % 2 ^ w).toNat) ∧
    one (.vclz o) (fun a j => if pat a j = 0 then w else w - 1 - Nat.log2 (pat a j)) ∧
    one (.vpopc o) (fun a j => ((List.range w).filter (fun k => (pat a j).testBit k)).length) ∧
    (o.f ≠ 10 → ∀ a b u,
      s.Reads [(o.sa, s.uses o.mask n (fun j => decide (j < n / 2))), (o.sb, s.uses o.mask n (fun j => decide (n / 2 ≤ j)))]
        [a, b] u →
      Completes (.vnarrow o) s (VecGives u · o.vd 4 act (o.mm == 1) w n (fun j =>
        (put (sextInt ((if j < n / 2 then a / 2 ^ (2 * w * j) else b / 2 ^ (2 * w * (j - n / 2))) % 2 ^ (2 * w)) (2 * w)),
          fNone)))) ∧
    (o.f = 9 ∨ o.f = 10 → one (.vwiden o) (fun a j =>
      let h := a / 2 ^ (w / 2 * (o.k % 2 * n + j)) % 2 ^ (w / 2)
      if o.k.testBit 1 then h else (sextInt h (w / 2) % 2 ^ w).toNat))

/-- R148, R129, R142: `vcmp` and `vfcmp`: a lane's condition holds where it holds for each of its elements; the
ordered floating conditions set invalid for a NaN in an active element. The model's choices here: assumption log 30,
87. -/
def Obligations.VectorCompares : Prop :=
  ∀ (s : State) (o : VOp) (a b : Nat) (u : State),
    let used := s.uses o.mask 64 (fun _ => true)
    s.Reads [(o.sa, used), (o.sb, used)] [a, b] u →
    let w := fmtWidth o.f
    let pat (x i : Nat) : Nat := x / 2 ^ (w * i) % 2 ^ w
    (fmtInt o.f = true → ∀ cond : Nat → Bool,
      (∀ j, cond j = true ↔ ∀ k < 32 / w,
        let x := pat a (32 / w * j + k)
        let y := pat b (32 / w * j + k)
        let sx : Int := if o.f = 8 then (x : Int) else sextInt x w
        let sy : Int := if o.f = 8 then (y : Int) else sextInt y w
        match o.k with
        | 0 => x = y
        | 1 => x ≠ y
        | 2 => sx < sy
        | 3 => sx ≤ sy
        | 4 => sx > sy
        | 5 => sx ≥ sy
        | 6 => x < y
        | _ => x ≥ y) →
      Completes (.vcmp o) s (CompareWrote u · o cond fNone)) ∧
    (fmtFloat o.f = true →
      let c (i : Nat) : Bool × Flags := fcmpCond o.k ((vflt o).decode (pat a i)) ((vflt o).decode (pat b i))
      ∀ cond : Nat → Bool, (∀ j, cond j = true ↔ ∀ k < 32 / w, (c (32 / w * j + k)).1 = true) →
      Completes (.vfcmp o) s (fun t => ∃ fl : Flags, CompareWrote u t o cond fl ∧
        ∀ e < 5, fl.getLsbD e = true ↔ ∃ j < 64, (s.pre.m o.mask).getLsbD j = true ∧ ∃ k < 32 / w,
          (c (32 / w * j + k)).2.getLsbD e = true))

/-- R76 to R80, R150 to R154: floating operations on lanes: each element exact and rounded once, under `.sat`, `.rtz`
and `.neg` where they stand; conversions between parts; scaling by the codes of a scale register. The model's choices
here: assumption log 28, 88. -/
def Obligations.VectorFloatResults : Prop :=
  ∀ (s : State) (o : VOp),
    (fmtFloat o.f = true →
      let w := fmtWidth o.f
      let n := 2048 / w
      let F := vflt o
      let act := s.act o.mask n
      let pat (x i : Nat) : Nat := x / 2 ^ (w * i) % 2 ^ w
      let val (x i : Nat) : FV := F.decode (pat x i)
      let round (r : FV × Flags) : Nat × Flags :=
        let z := arith F (o.k.testBit 1) (o.k.testBit 0) r
        (if o.k.testBit 2 then z.1 ^^^ 2 ^ (w - 1) else z.1, z.2)
      let used := s.uses o.mask n (fun _ => true)
      let one (i : Instr) (f : Nat → Nat → Nat × Flags) : Prop := ∀ a u, s.Reads [(o.sa, used)] [a] u →
        Completes i s (VecGives u · o.vd 4 act (o.mm == 1) w n (f a))
      let two (i : Instr) (f : Nat → Nat → Nat → Nat × Flags) : Prop := ∀ a b u,
        s.Reads [(o.sa, used), (o.sb, used)] [a, b] u →
        Completes i s (VecGives u · o.vd 4 act (o.mm == 1) w n (f a b))
      let three (i : Instr) (f : Nat → Nat → Nat → Nat → Nat × Flags) : Prop := ∀ a b c u,
        s.Reads [(o.sa, used), (o.sb, used), (o.sc, used)] [a, b, c] u →
        Completes i s (VecGives u · o.vd 4 act (o.mm == 1) w n (f a b c))
      two (.vfadd o) (fun a b j => round (addFV (val a j) (val b j))) ∧
      two (.vfsub o) (fun a b j => round (addFV (val a j) (val b j).neg)) ∧
      two (.vfmul o) (fun a b j => round (mulFV (val a j) (val b j))) ∧
      three (.vfma o) (fun a b c j => round (fmaFV (val a j) (val b j) (val c j))) ∧
      three (.vfms o) (fun a b c j => round (fmaFV (val a j) (val b j) (val c j).neg)) ∧
      three (.vfnma o) (fun a b c j => round (fmaFV (val a j).neg (val b j) (val c j))) ∧
      two (.vfmin o) (fun a b j =>
        ((fminmax F true (pat a j) (pat b j)).1, if (val a j).isNan || (val b j).isNan then fInv else fNone)) ∧
      two (.vfmax o) (fun a b j =>
        ((fminmax F false (pat a j) (pat b j)).1, if (val a j).isNan || (val b j).isNan then fInv else fNone)) ∧
      one (.vfabs o) (fun a j => (pat a j % 2 ^ (w - 1), fNone)) ∧
      one (.vfneg o) (fun a j => (pat a j ^^^ 2 ^ (w - 1), fNone)) ∧
      one (.vfclass o) (fun a j => (classOf F (pat a j), fNone)) ∧
      one (.vround o) (fun a j => (roundEl F o.k (pat a j), fNone)) ∧
      one (.vscale o) (fun a j =>
        let c : Nat := (s.pre.e (BitVec.ofNat 4 o.b)).toNat / 2 ^ (8 * (j / 2 ^ o.k % 64)) % 2 ^ 8
        if c = 255 then (F.nanBits, fNone)
        else arith F false false (scaleFV (if o.c.testBit 0 then 127 - (c : Int) else (c : Int) - 127) (val a j), fNone))) ∧
    (o.okCvt = true →
      let ws := fmtWidth o.c
      let wd := fmtWidth o.f
      let n := 2048 / max ws wd
      let p := o.b % 8
      let first := if wd < ws then p * n else 0
      let from_ := if wd < ws then 0 else p * n
      ∀ a u, s.Reads [(o.sa, s.uses o.mask n (fun _ => true))] [a] u →
        Completes (.vcvt o) s (VecGives u · o.vd 4
          (fun d => decide (first ≤ d ∧ d < first + n) && s.act o.mask n (d - first)) (o.mm == 1) wd (2048 / wd)
          (fun d => convert o.c o.f (o.k.testBit 1) (o.k.testBit 0) (a / 2 ^ (ws * (from_ + (d - first))) % 2 ^ ws))))

/-- R149, R155: select, move, immediate and the permutations; no flag is set. The model's choices here: assumption log
88. -/
def Obligations.VectorMoves : Prop :=
  ∀ (s : State) (o : VOp), fmtMove o.f = true →
    let w := fmtWidth o.f
    let n := 2048 / w
    let act := s.act o.mask n
    let pat (x i : Nat) : Nat := x / 2 ^ (w * i) % 2 ^ w
    let cat (a b i : Nat) : Nat := if i < n then pat a i else pat b (i - n)
    let used := s.uses o.mask n (fun _ => true)
    let gives (i : Instr) (u : State) (lat : Nat) (f : Nat → Nat) : Prop :=
      Completes i s (VecGives u · o.vd lat act (o.mm == 1) w n (fun j => (f j, fNone)))
    let one (i : Instr) (lat : Nat) (f : Nat → Nat → Nat) : Prop := ∀ a u, s.Reads [(o.sa, used)] [a] u → gives i u lat (f a)
    let pick (i : Instr) (g : Nat → Nat) : Prop := ∀ a b u,
      s.Reads [(o.sa, s.uses o.mask n (fun j => decide (g j < n))), (o.sb, s.uses o.mask n (fun j => decide (n ≤ g j)))]
        [a, b] u → gives i u 4 (fun j => cat a b (g j))
    let set (j : Nat) : Nat := ((List.range j).filter (fun k => (s.pre.m o.mask).getLsbD k)).length
    let lanes := (List.range 64).filter (fun j => (s.pre.m o.mask).getLsbD j)
    (∀ a b u, s.Reads [(o.sa, (List.range n).any act), (o.sb, (List.range n).any (fun j => !act j))] [a, b] u →
      Completes (.vsel o) s (VecGives u · o.vd 4 (fun _ => true) false w n (fun j =>
        (if act j then pat a j else pat b j, fNone)))) ∧
    one (.vmov o) 4 pat ∧
    (o.f ≠ 7 → gives (.vimm o) s 4 (fun _ => if o.f = 0 then o.imm * 2 ^ 11 else if o.f ≤ 2 then o.imm % 2 ^ 16
      else (sextInt o.imm 21 % 2 ^ w).toNat)) ∧
    one (.vbcast o) 4 (fun a _ => pat a (128 * (o.b % 2) + o.c)) ∧
    (∀ a b u, s.Reads [(o.sa, used), (o.sb, used)] [a, b] u → gives (.vperm o) u 4 (fun j => pat a (pat b j % n))) ∧
    pick (.vslide o) (fun j => j + o.c % 64) ∧
    pick (.vzip o) (fun j => let h := n / 2 * (o.k % 2); if j % 2 = 0 then h + j / 2 else n + (h + j / 2)) ∧
    pick (.vunzip o) (fun j => 2 * j + o.k % 2) ∧
    (w = 32 →
      (∀ a u, s.Reads [(o.sa, !lanes.isEmpty)] [a] u →
        Completes (.vcompress o) s (VecGives u · o.vd 6 (fun k => decide (k < lanes.length)) (o.mm == 1) 32 64
          (fun k => (pat a (lanes.getD k 0), fNone)))) ∧
      one (.vexpand o) 6 (fun a j => pat a (set j)) ∧
      Completes (.viota o) s (VecGives s · o.vd 4 (fun _ => true) false 32 64 (fun j => (set j, fNone))))

/-- R85, R156, R157: reductions put their result into element 0 and clear the rest of vd, after 6 cycles; the mask
operations write under their governing mask. The model's choices here: assumption log 28. -/
def Obligations.ReductionsAndMasks : Prop :=
  ∀ (s : State) (o : VOp),
    (fmtRed o.f = true →
      let w := fmtWidth o.f
      let n := 2048 / w
      let elems (a : Nat) : List (Option Nat) :=
        (List.range n).map (fun i => if s.act o.mask n i then some (a / 2 ^ (w * i) % 2 ^ w) else none)
      let vals (a : Nat) : List Int := (elems a).filterMap (fun e => e.map (fun v => sextInt v w))
      let pats (a : Nat) : List Nat := (elems a).filterMap id
      let hi : Int := 2 ^ (w - 1) - 1
      let lo : Int := -2 ^ (w - 1)
      let narrow (r : Int) : Nat := (r % 2 ^ w).toNat
      let gives (i : Instr) (f : Nat → Nat × Flags) : Prop := ∀ a u,
        s.Reads [(o.sa, s.uses o.mask n (fun _ => true))] [a] u →
        Completes i s (WroteV u · o.vd (BitVec.ofNat 2048 (f a).1) 6 (f a).2)
      (fmtFloat o.f = true →
        gives (.vredsum o) (fun a => floatSum o.f (elems a)) ∧
        gives (.vredmax o) (fun a => (floatBest o false (elems a), fNone)) ∧
        gives (.vredmin o) (fun a => (floatBest o true (elems a), fNone))) ∧
      (fmtFloat o.f = false →
        gives (.vredsum o) (fun a =>
          (narrow (if o.k % 2 = 1 then max lo (min hi (vals a).sum) else (vals a).sum), fNone)) ∧
        gives (.vredmax o) (fun a => (narrow ((vals a).foldl max lo), fNone)) ∧
        gives (.vredmin o) (fun a => (narrow ((vals a).foldl min hi), fNone)) ∧
        gives (.vredand o) (fun a => ((pats a).foldl (· &&& ·) (2 ^ w - 1), fNone)) ∧
        gives (.vredor o) (fun a => ((pats a).foldl (· ||| ·) 0, fNone))) ∧
      gives (.vargmax o) (fun a => (argResult o false (elems a), fNone)) ∧
      gives (.vargmin o) (fun a => (argResult o true (elems a), fNone))) ∧
    (let d : BitVec 4 := BitVec.ofNat 4 o.d
     let m (f : Nat) : BitVec 64 := s.pre.m (BitVec.ofNat 4 f)
     let writes (i : Instr) (f : Nat → Bool) : Prop := Completes i s (fun t =>
       (∀ e, e ≠ d → t.cur.m e = s.cur.m e) ∧
       (d ≠ 0 → ∀ j < 64, (t.cur.m d).getLsbD j =
         if (s.pre.m o.mask).getLsbD j then f j else if o.mm = 1 then false else (s.pre.m d).getLsbD j) ∧
       Marked s t (keyM d) 1 ∧ SameBytes s t ∧
       t = { s.setCtx s.issue.ctx { s.cur with
           ms := t.cur.ms
           sb := t.cur.sb } with
         issue := { s.issue with accM := t.issue.accM } })
     writes (.mand o) (fun j => (m o.a).getLsbD j && (m o.b).getLsbD j) ∧
     writes (.mor o) (fun j => (m o.a).getLsbD j || (m o.b).getLsbD j) ∧
     writes (.mxor o) (fun j => (m o.a).getLsbD j != (m o.b).getLsbD j) ∧
     writes (.mnot o) (fun j => !(m o.a).getLsbD j) ∧
     writes (.mrange o) (fun j => decide (o.a ≤ j ∧ j ≤ o.b)))

/-- R163 to R173: the SFU holds its unit for 4 cycles, 8 for the 16-bit formats, and writes each active element with
the function of its code, readable 8 cycles after that; inactive elements stay. The model's choices here: assumption
log 12, 28, 89. -/
def Obligations.SfuResults : Prop :=
  ∀ (s : State) (o : SfuOp) (i : Instr) (fn : Nat), o.fmt.toNat ≤ 2 →
    (fn, i) ∈ [(1, Instr.sfuExp2 o), (2, .sfuLog2 o), (3, .sfuRcp o), (4, .sfuRsqrt o), (5, .sfuSqrt o), (6, .sfuSin o),
      (7, .sfuCos o), (8, .sfuTanh o), (9, .sfuSigm o), (10, .sfuSilu o), (11, .sfuGelu o), (12, .sfuErf o),
      (13, .sfuSexp o)] →
    let w := fmtWidth o.fmt.toNat
    let n := 2048 / w
    let F := if o.fmt.toNat = 0 then fmtF32 else if o.fmt.toNat = 1 then fmtBf16 else fmtF16
    let busy := if o.fmt.toNat = 0 then 4 else 8
    ∀ a u, s.Reads [(o.sa, s.uses o.mask n (fun _ => true))] [a] u →
      let held := u.setCore (coreOf s.issue.ctx) { u.curCore with sfuFree := s.now s.issue.ctx + busy }
      Completes i s (fun t => SameBytes s held ∧ VecGives held t o.vd (8 + busy) (s.act o.mask n) false w n
        (fun j => sfuElem fn F (a / 2 ^ (w * j) % 2 ^ w)))

/-- R196 to R200, R343 to R350: the attention state and seed search. `vsmax` updates each row's m, E, l and d with its
active scores; `vmass` folds row masses into l and adds their total to the slot at a consumer cursor; `vsfin` divides
by l; the seed operations hold their slot for 64 and 8 cycles; `vgen` expands a record, and raises `FORMAT_MISMATCH`
for a bad one. The model's choices here: assumption log 12. -/
def Obligations.AttentionAndSeeds : Prop :=
  ∀ (s : State) (o : VOp),
    let lane (x i : Nat) : Nat := x / 2 ^ (32 * i) % 2 ^ 32
    let mask := s.pre.m o.mask
    let used := s.uses o.mask 64 (fun _ => true)
    let lanes (u t : State) (lat : Nat) (fl : Flags) (f : Nat → Nat) : Prop :=
      ∃ v, WroteV u t o.vd v lat fl ∧ ∀ i < 64, lane v.toNat i = f i % 2 ^ 32
    let one (i : Instr) (lat : Nat) (f : Nat → Nat → Nat) : Prop := ∀ a u, s.Reads [(o.sa, true)] [a] u →
      Completes i s (lanes u · lat fNone (f a))
    let slotHeld (u : State) (n : Nat) : State := u.setCore (coreOf s.issue.ctx) { u.curCore with
      vBusy := sput 0 u.curCore.vBusy (match s.issue.slot with
        | .va => 0
        | .vb => 1
        | .vc => 2
        | _ => 3) (s.now s.issue.ctx + n) }
    (∀ a b u, s.Reads [(o.sa, true), (o.sb, used)] [a, b] u →
      let row (r : Nat) := smaxRow (lane a (8 * r)) (lane a (8 * r + 1)) (lane a (8 * r + 2))
        (((List.range 8).filter (fun c => mask.getLsbD (8 * r + c))).map (fun c => lane b (8 * r + c)))
      Completes (.vsmax o) s (fun t => ∃ fl : Flags, (∀ e < 5, fl.getLsbD e = true ↔ ∃ r < 8, (row r).2.getLsbD e = true) ∧
        lanes u t 6 fl (fun i => [(row (i / 8)).1.1, (row (i / 8)).1.2.1, (row (i / 8)).1.2.2.1, (row (i / 8)).1.2.2.2].getD
          (i % 8) 0))) ∧
    Completes (.vsmaxInit o) s (lanes s · 4 fNone (fun i => if i % 8 < 2 then 0xFF800000 else 0)) ∧
    one (.vsmaxE o) 4 (fun a i =>
      if lane a (i / 8 * 8 + 1) = 0xFF800000 then 0x7F800000 else lane a (i / 8 * 8 + 1)) ∧
    one (.vsmaxD o) 4 (fun a i => (roundFV fmtF32 false false (pow2FV (lane a (i / 8 * 8 + 3)))).1) ∧
    (∀ a b u, s.Reads [(o.sa, true), (o.sb, used)] [a, b] u →
      let rows := treeUp sumNode 3 ((List.range 64).map (fun i => (if mask.getLsbD i then lane b i else 0x80000000, fNone)))
      let row (r : Nat) : Nat × Flags := rows.getD r (0, fNone)
      let total := (treeUp sumNode 3 rows).getD 0 (0, fNone)
      let l (r : Nat) : Nat × Flags := massL (lane a (8 * r + 2)) (lane a (8 * r + 3)) (row r).1
      let toL := o.k.testBit 0
      let toSlot := o.k.testBit 1
      let wrote (t : State) (sum : Flags) : Prop := ∃ fl : Flags, lanes u t 6 fl (fun i =>
          if !toL then lane a i else if i % 8 = 2 then (l (i / 8)).1 else if i % 8 < 4 then lane a i else 0) ∧
        ∀ e < 5, fl.getLsbD e = true ↔ (total.2.getLsbD e = true ∨ sum.getLsbD e = true ∨
          (toL = true ∧ ∃ r < 8, (l r).2.getLsbD e = true))
      (toSlot = false → Completes (.vmass o) s (wrote · fNone)) ∧
      (toSlot = true → s.massSlot (BitVec.ofNat 4 o.c) = none → Completes (.vmass o) s (Faults · .ringMisuse 0)) ∧
      (∀ i, toSlot = true → s.massSlot (BitVec.ofNat 4 o.c) = some i → Completes (.vmass o) s (fun t =>
        let e := s.curCore.tile i
        let old := if s.cur.region.isSome then (e.pend.getD 0).toNat else e.mass.toNat
        let sum := f32Add old total.1
        ∃ r, wrote r sum.2 ∧ t.cur = r.cur ∧ SameBytes s t ∧
        t.curCore.tile i = (if s.cur.region.isSome then { e with pend := some (BitVec.ofNat 32 sum.1) }
          else { e with mass := BitVec.ofNat 32 sum.1 }) ∧
        (∀ j, j ≠ i → t.curCore.tile j = s.curCore.tile j)))) ∧
    (fmtFloat o.f = true → ∀ a b u, s.Reads [(o.sa, used), (o.sb, used)] [a, b] u →
      Completes (.vsfin o) s (VecGives u · o.vd 4 (fun i => mask.getLsbD i) (o.mm == 1) (fmtWidth o.f) 64 (fun i =>
        match fmtF32.decode (lane b (8 * (i / 8) + 2)) with
        | .fin _ 0 _ => (0, fNone)
        | d => divFV (vflt o) false (o.k.testBit 0) (fmtF32.decode (lane a i)) d))) ∧
    one (.vseedexp o) 6 (fun a _ => (seedExp ((List.range 64).map (fun i => fmtF32.decode (lane a i))) % 2 ^ 32).toNat) ∧
    (∀ a b c u, s.Reads [(o.sa, true), (o.sb, true), (o.sc, true)] [a, b, c] u →
      let xs := (List.range 64).map (fun i => fmtF32.decode (lane a i))
      let e := max (-16) (min 15 (sextInt (lane b 0) 32))
      let seed (i : Nat) : Nat := (c % 2 ^ 16 + i) % 2 ^ 16
      Completes (.vseedscore o) s (lanes (slotHeld u 64) · 66 fNone (fun i =>
        if seed i = 0 then 0x7F800000 else (seedFit xs e (seed i) (o.k + 1)).2)) ∧
      Completes (.vseedfit o) s (fun t => WroteV (slotHeld u 8) t o.vd (BitVec.ofNat 2048 (if seed 0 = 0 then 0x7F800000 * 2 ^ 64
        else seedRecord (seed 0) (o.k + 1) e (seedFit xs e (seed 0) (o.k + 1)).1 +
          (seedFit xs e (seed 0) (o.k + 1)).2 * 2 ^ 64)) 8 fNone)) ∧
    (fmtFloat o.f = true → ∀ a u, s.Reads [(o.sa, true)] [a] u →
      (recOk (a % 2 ^ 64) = false → Completes (.vgen o) s (Faults · .formatMismatch 0)) ∧
      (recOk (a % 2 ^ 64) = true → Completes (.vgen o) s (VecGives u · o.vd 6 (s.act o.mask (2048 / fmtWidth o.f)) (o.mm == 1)
        (fmtWidth o.f) (2048 / fmtWidth o.f) (fun i => ((genExpand (a % 2 ^ 64) o.f).getD i 0, fNone)))))

/-! ### Grooms -/

/-- R362, R363, R366 to R376: every logit word, on the groom that runs and its request: lane operations in FP32, table
words (whose first fault fails the request), temperature, noise, the best pair, and the words of the completion
section. Where no request runs, a word does nothing. The model's choices here: assumption log 10, 55. -/
def Obligations.LogitWords : Prop :=
  ∀ (s : State) (o : LOp),
    let g := s.groom s.groomNow
    let A (i : Nat) : Nat := g.lane o.wa.toNat i
    let B (i : Nat) : Nat := g.lane o.wb.toNat i
    let D (i : Nat) : Nat := g.lane o.wd.toNat i
    let kd := o.wd.toNat
    let imm := o.imm.toNat
    let words := [Instr.lld o, .lbias o, .lcnt o, .lpen o, .ltemp o, .lmask o, .lnoise o, .lamax o, .lmerge o, .ladd o,
      .lsub o, .lmul o, .lfma o, .lmin o, .lmax o, .lsel o, .lcmp o, .lcap o, .limm o, .lmov o, .lacc o, .lput o, .lbump o,
      .lend o]
    (g.run = none → ∀ i ∈ words, Completes i s (fun t => t = s)) ∧
    (∀ r, g.run = some r →
      let lanes (i : Instr) (f : Nat → Nat) : Prop := Completes i s (LanesBecome s · o.wd g.greedy f)
      let fails (i : Instr) (c : Code) : Prop := Completes i s (WordFails s · c)
      let ks (i : Instr) (v : List (Nat × Nat)) : Prop := Completes i s (KsBecome s · v)
      let read (i : Instr) (f : Nat → State → Except Code Nat × State) : Prop :=
        (∀ l u, lanesM f (List.range 16) s = (.ok l, u) → u.grooms = s.grooms →
          Completes i s (LanesBecome u · o.wd g.greedy (fun j => l.getD j 0))) ∧
        (∀ e u, lanesM f (List.range 16) s = (.error e, u) → Completes i s (WordFails u · e))
      let base := if r.entry.isSome then 0 else r.cmd.smpFirst + 16 * r.chunk
      let past (i : Nat) : Prop := r.entry = none ∧ r.cmd.smpFirst + r.cmd.smpCount ≤ base + i
      let T := g.kReg o.wb.toNat
      -- chunk words
      read (.lld o) (fun i u => if r.past i then (.ok 0xFF800000, u) else u.logitRead r (base + i)) ∧
      (r.bias = 0 → lanes (.lbias o) A) ∧
      (∀ tab u, r.bias ≠ 0 → s.groomRead r r.bias 2048 = (.ok tab, u) → u.grooms = s.grooms →
        Completes (.lbias o) s (LanesBecome u · o.wd g.greedy (fun i => if r.past i then A i else addBias tab (base + i) (A i)))) ∧
      (∀ e u, r.bias ≠ 0 → s.groomRead r r.bias 2048 = (.error e, u) → Completes (.lbias o) s (WordFails u · e)) ∧
      (r.cnt = 0 → lanes (.lcnt o) (fun _ => 0)) ∧
      read (.lcnt o) (fun i u => if r.past i then (.ok 0, u) else match u.countFind r (base + i) with
        | (.ok (.found _ n), u) => (.ok (roundFV fmtF32 false false (intFV n)).1, u)
        | (.ok (.absent _), u) => (.ok 0, u)
        | (.error e, u) => (.error e, u)) ∧
      lanes (.lpen o) (fun i =>
        let f := g.kReg (imm % 16)
        let p := g.kReg (imm / 16 % 16)
        if f32Pos (B i) then (f32Fma (f32Neg f) (B i) (f32Sub (A i) p).1).1 else A i) ∧
      (T / 2 ^ 23 % 2 ^ 8 = 0 → Completes (.ltemp o) s (LanesBecome s · o.wd true A)) ∧
      (T / 2 ^ 23 % 2 ^ 8 ≠ 0 → fmtF32.decode T = .nan ∨ T.testBit 31 = true → fails (.ltemp o) .sampleParam) ∧
      (T = 0x7F800000 → lanes (.ltemp o) (fun i => match fmtF32.decode (A i) with
        | .fin _ _ _ => 0
        | _ => A i)) ∧
      (T.testBit 31 = false → 1 ≤ T / 2 ^ 23 % 2 ^ 8 → T / 2 ^ 23 % 2 ^ 8 < 255 →
        lanes (.ltemp o) (fun i => (divFV fmtF32 false false (fmtF32.decode (A i)) (fmtF32.decode T)).1)) ∧
      (r.gram = 0 → lanes (.lmask o) (fun i => if r.past i then 0xFF800000 else A i)) ∧
      (r.gram ≠ 0 → read (.lmask o) (fun i u => if r.past i then (.ok 0xFF800000, u) else
        match u.groomRead r (r.gram + (base + i) / 8) 1 with
        | (.ok v, u) => (.ok (if v.testBit ((base + i) % 8) then A i else 0xFF800000), u)
        | (.error e, u) => (.error e, u))) ∧
      (∀ i, r.past i = true ↔ past i) ∧
      lanes (.lnoise o) (fun i => if g.greedy ∨ r.past i then A i
        else (f32Add (A i) (gumbel (r.cmd.reg 0x203) (g.kReg 1) (base + i))).1) ∧
      -- words of both sections
      (let best := (List.range 16).foldl (fun p i => if A i = 0xFF800000 then p else betterPair (A i, base + i) p)
          (0xFF800000, 0xFFFFFFFF)
       ks (.lamax o) [(kd + 1, best.2), (kd, best.1)]) ∧
      (let best := betterPair (g.kReg kd, g.kReg (kd + 1)) (g.kReg o.wa.toNat, g.kReg (o.wa.toNat + 1))
       ks (.lmerge o) [(kd + 1, best.2), (kd, best.1)]) ∧
      lanes (.ladd o) (fun i => (f32Add (A i) (B i)).1) ∧
      lanes (.lsub o) (fun i => (f32Sub (A i) (B i)).1) ∧
      lanes (.lmul o) (fun i => (f32Mul (A i) (B i)).1) ∧
      lanes (.lfma o) (fun i => (f32Fma (A i) (B i) (D i)).1) ∧
      lanes (.lmin o) (fun i => (fminmax fmtF32 true (A i) (B i)).1) ∧
      lanes (.lmax o) (fun i => (fminmax fmtF32 false (A i) (B i)).1) ∧
      lanes (.lsel o) (fun i => if (g.kReg (imm % 16)).testBit i then A i else B i) ∧
      (∃ v < 2 ^ 16, (∀ i < 16, v.testBit i = (fcmpCond (imm % 8) (fmtF32.decode (A i)) (fmtF32.decode (B i))).1) ∧
        ks (.lcmp o) [(kd, v)]) ∧
      (fmtF32.decode T = .nan ∨ T.testBit 31 = true ∨ T = 0 → fails (.lcap o) .sampleParam) ∧
      (T = 0x7F800000 → lanes (.lcap o) A) ∧
      (∀ m e, fmtF32.decode T = .fin false m e → m ≠ 0 → lanes (.lcap o) (fun i =>
        (f32Mul T (tanhPat (divFV fmtF32 false false (fmtF32.decode (A i)) (fmtF32.decode T)).1).1).1)) ∧
      ks (.limm o) [(kd, if o.wa = 0 then imm * 2 ^ 18 else if o.wa = 1 then (sextInt imm 14 % 2 ^ 32).toNat
        else g.kReg kd * 2 ^ 14 + imm)] ∧
      (imm % 4 = 0 → lanes (.lmov o) A) ∧
      (imm % 4 = 1 → lanes (.lmov o) (fun _ => g.kReg o.wa.toNat)) ∧
      (imm % 4 = 2 → ks (.lmov o) [(kd, g.kReg o.wa.toNat)]) ∧
      (imm % 4 = 3 → ks (.lmov o) [(kd, A (imm / 4 % 16))]) ∧
      -- the end of a section, and the completion section
      (r.entry = none → 16 * (r.chunk + 1) < r.cmd.smpCount → Completes (.lend o) s (RunBecomes s · { r with
        ix := 0
        chunk := r.chunk + 1 })) ∧
      (r.entry = none → r.cmd.smpCount ≤ 16 * (r.chunk + 1) → Completes (.lend o) s (RunBecomes s · { r with phase := .merge })) ∧
      (r.entry.isSome → Completes (.lend o) s (RunBecomes s · { r with ix := r.words.length })) ∧
      (r.entry = none → ∀ i ∈ [Instr.lacc o, .lput o, .lbump o], Completes i s (fun t => t = s)) ∧
      (∀ b, r.entry = some b →
        Completes (.lput o) s (RunBecomes s · { r with entry := some { b with user := g.kReg o.wa.toNat } }) ∧
        (∃ a ≤ b.nposM1,
          (∀ j < a, (b.pairs.getD j (0, 0)).2 = b.drafts.getD j 0 ∧ b.drafts.getD j 0 ≠ 0xFFFFFFFF) ∧
          (a < b.nposM1 → ¬((b.pairs.getD a (0, 0)).2 = b.drafts.getD a 0 ∧ b.drafts.getD a 0 ≠ 0xFFFFFFFF)) ∧
          Completes (.lacc o) s (fun t => ∃ u, RunBecomes s u { r with entry := some { b with
            accepted := a
            newM1 := a } } ∧ KsBecome u t [(kd, a)])) ∧
        (r.cnt = 0 → Completes (.lbump o) s (fun t => (∀ c, t.groom c = s.groom c) ∧ t = { s with grooms := t.grooms })) ∧
        (b.accepted = 0 → (b.pairs.getD 0 (0, 0)).2 ≠ 0xFFFFFFFF →
          (∀ full u, s.countBump r (b.pairs.getD 0 (0, 0)).2 = (.ok full, u) → u.grooms = s.grooms →
            Completes (.lbump o) s (RunBecomes u · { r with entry := some { b with lost := b.lost || full } })))))

/-! ### Events of the engines -/

/-- R274, R275, R283, R38, R281 to R288, R291: a command that waits starts, fails or is cancelled as its queue,
predecessors and ord say, once all of them have retired and what its context has stored has performed; a running
transfer, push, `hctld` or key-value step ends, DONE with its progress or FAILED with its first failure, or stays
where a budget holds it, which notes how much it has admitted, or where its messages await acknowledgement; a transfer
inside the scratchpad moves every element; HCT words arrive one by one; a transform operation leaves its result ports;
a `publish` flips the front half. An event whose command is not so far does nothing. The model's choices here:
assumption log 3, 16, 17, 27, 45, 48, 60. -/
def Obligations.EngineEvents : Prop :=
  ∀ (s : State) (ctx cid : Nat) (k : Cmd), s.cmd ctx (BitVec.ofNat 16 cid) = some k →
    let start := Instr.commandStart ctx cid
    let stays (i : Instr) : Prop := Completes i s (fun t => t = s)
    -- a step that budgets hold: how many of its accesses they have admitted is noted
    let held (i : Instr) : Prop := Completes i s (fun t => ∃ n, CmdBecomes s t k (fun c d => d = { c with paid := n }))
    let starts : Prop := s.Admits 0 0 k.paid (fun s => ((), (s.tryStart k).getD s))
    let w := sget Win.reset (s.pen k.pen).wins k.r1.toNat
    -- COMMAND_START
    (k.st ≠ .waiting → stays start) ∧
    (k.st = .waiting →
      (s.tally = none → ¬starts → held start) ∧
      (k.refused = true → starts → Completes start s (EndsFailed s.tallied · k ⟨0x38, 0, 0, 0⟩ false false 0)) ∧
      (k.refused = false →
        let p := predsOf (s.ctxOfTask k.task k.ctx) k.preds
        let behind : Prop := ∃ c ∈ s.cmdsBefore k, s.startable c = true ∧ unitOf k.kind k.ctx ≠ none ∧
          unitOf c.kind c.ctx = unitOf k.kind k.ctx
        (s.ordOk k = false ∨ p = .wait → stays start) ∧
        (s.ordOk k = true →
          (∀ c < 256, p = .failed c → k.kind ≠ .hctld → starts →
            Completes start s (EndsFailed s.tallied · k ⟨c, 0, 0, 0⟩ false true 0)) ∧
          (p = .cancelled → k.kind ≠ .hctld → starts → Completes start s (fun t => Retired s t k 0 true 6 0 ∧ SameBytes s t ∧
            SlotEnds s t k (fun _ f => f.state = .empty ∧ f.inflight = false))) ∧
          (p = .go → (s.storesLeft k.task = true ∨ behind → stays start) ∧
            (s.storesLeft k.task = false → ¬behind → starts → Completes start s (fun t =>
              CmdBecomes s t k (fun c d => d = { c with
                st := .running
                paid := 0
                at_ := if c.at_ = 0 then s.now k.ctx + 1 else c.at_ }) ∧ StatusIs s t k (3 * 2 ^ 32))))))) ∧
    -- COMMAND_RETIRE, and ENGINE_FILL_RETIRE of a fill
    (k.st ≠ .running → ∀ i ∈ [Instr.commandRetire ctx cid, .engineFillRetire ctx cid, .hctldWordArrival ctx cid,
      .transformOpRetire ctx cid, .publishFlip ctx cid, .kvattSlotFill ctx cid], stays i) ∧
    (k.st = .running →
      let retire := Instr.commandRetire ctx cid
      (∀ q, k.kind = .xfer q → ∀ i, i = retire ∨ (k.slot.isSome = true ∧ i = .engineFillRetire ctx cid) →
        let x := k.xfer
        let r := (s.forCmd k).runXfer k
        let u : State := { r.2.2.2 with engNow := none }
        (k.pos = 1 → stays i) ∧
        (k.pos ≠ 1 →
          (x.count = 0 → s.sending k = false → Completes i s (EndsDone { s with engNow := none } · k 0)) ∧
          (r.1 = .done → u.sending k = false → Completes i s (EndsDone u · k r.2.1)) ∧
          (r.1 = .done → u.sending k = true → Completes i s (fun t => CmdBecomes u t k (fun c d => d = { c with
            pos := 1
            fail := some ⟨0, r.2.1, 0, 0⟩ }))) ∧
          (∀ p, r.1 = .held p → Completes i s (fun t => CmdBecomes u t k (fun c d => d = { c with
            done := r.2.2.1.done
            got := r.2.2.1.got
            paid := p }))) ∧
          (∀ f, r.1 = .failed f → f.code < 256 → Completes i s (EndsFailed u · k f false false r.2.1)) ∧
          (x.pad = true → x.kind = 1 → x.bfx = false → x.bpn = false → s.lives k = true → k.done = 0 →
            (∀ a ∈ x.elems, 0 ≤ x.src + a.1 ∧ x.src + a.1 + x.esz ≤ 2 ^ 20 ∧ 0 ≤ x.dst + a.2 ∧ x.dst + a.2 + x.esz ≤ 2 ^ 20) →
            (∀ a ∈ x.elems, ∀ b ∈ x.elems, rangesMeet (x.src + a.1) x.esz (x.dst + b.2) x.esz = false) →
            x.elems.Pairwise (fun a b => rangesMeet (x.dst + a.2) x.esz (x.dst + b.2) x.esz = false) →
            Completes i s (fun t => ∀ a ∈ x.elems,
              cellsRead (t.core k.core).scratch 20 (x.dst + a.2).toNat x.esz =
                cellsRead (s.core k.core).scratch 20 (x.src + a.1).toNat x.esz)))) ∧
      (k.kind = .hctld →
        let a := (s.tallied.unpaid k).hctRead k k.pos
        let word := Instr.hctldWordArrival ctx cid
        let pays : Prop := s.Pays k 0 0 (fun s => s.hctArrival k)
        let idx := k.r2.toNat % 2 ^ 9 + k.pos
        let n := k.r2.toNat / 2 ^ 16 % 2 ^ 10
        let entry (u t : State) (i : Nat) (e : HctEnt) : Prop := ∀ q m, sfind u.tasks k.task = some q → q.st = .on m →
          (t.ctx m).hctAt i = e
        (k.pos < n → stays retire) ∧
        (n ≤ k.pos → (k.fail = none → Completes retire s (EndsDone s · k n)) ∧
          (∀ f, k.fail = some f → f.code < 256 → Completes retire s (fun t =>
            Retired s t k f.code false 5 f.extent ∧ SameBytes s t))) ∧
        (k.pos < n → s.tally = none → ¬pays → held word) ∧
        (k.pos < n → pays →
          (∀ h l, a.1 = .ok h → decodeHcw h = some l → Completes word s (fun t =>
            entry a.2 t idx (.loaded h) ∧ SameBytes a.2 t ∧
            ∀ c ∈ a.2.cmds, c.same k → { c with pos := k.pos + 1 } ∈ t.cmds)) ∧
          (∀ h, a.1 = .ok h → decodeHcw h = none → Completes word s (fun t =>
            entry a.2 t idx (.unloaded 0x04) ∧ SameBytes a.2 t ∧ ∀ c ∈ a.2.cmds, c.same k → { c with
              pos := k.pos + 1
              fail := some (c.fail.getD ⟨0x04, 0, idx, 0⟩) } ∈ t.cmds)) ∧
          (∀ e, a.1 = .error e → Completes word s (fun t =>
            (∀ j < n - k.pos, idx + j < 512 → entry a.2 t (idx + j) (.unloaded e.num)) ∧ SameBytes a.2 t ∧
            ∀ c ∈ a.2.cmds, c.same k → { c with
              pos := n
              fail := some (c.fail.getD ⟨e.num, 0, idx, 0⟩) } ∈ t.cmds)))) ∧
      (k.kind = .qpush →
        let q := k.reg 0x040
        let sent : Prop := k.pos = 1 ∨ ∃ c ∈ s.cmdsBefore k, c.task = k.task ∧ c.kind = .qpush ∧ c.st ≠ .held ∧ c.pos = 0
        (sent → stays retire) ∧
        (¬sent → Completes retire s (fun t =>
          (t.queue q).arrivals = (s.queue q).arrivals ++ [(k.ctx, some k.cid, k.r2 ++ k.r1)] ∧
          (t.queue q).hw = (s.queue q).hw ∧ CmdBecomes s t k (fun c d => d = { c with pos := 1 })))) ∧
      (∀ op ≠ 8, k.kind = .kv op →
        (s.kvBehind k = true ∨ s.kvWaits k op = true ∨ s.kvLater k = true → stays retire) ∧
        (s.kvBehind k = false → s.kvWaits k op = false → s.kvLater k = false →
          let pays : Prop := s.Pays k 2 (k.core / 16) (fun s => s.applyKv k op)
          let r := ((s.tallied.unpaid k).forCmd k).runKv k op
          let u : State := { r.2 with engNow := none }
          (s.tally = none → ¬pays → held retire) ∧
          (∀ n v, pays → r.1 = .ok (n, v) →
            Completes retire s (fun t => ∃ w, EndsDone { v with engNow := none } w k n ∧ Charged w t)) ∧
          (∀ c a kv m, pays → r.1 = .error (c, a, kv, m) →
            Completes retire s (fun t => ∃ w, EndsFailed u w k ⟨c.num, a, u.kvElems k op, m⟩ kv false 0 ∧ Charged w t)))) ∧
      (∀ p, k.kind = .trig p →
        let i := Instr.transformOpRetire ctx cid
        let r := (s.tallied.forCmd k).trigRun k p
        let u : State := { r.2 with engNow := none }
        let pays : Prop := s.Admits 0 0 k.paid (fun s => s.asCmd k (fun s => s.trigRun k p))
        let ports (t : State) (a b : Nat) (m : Nat) : Prop := ∀ q n, sfind u.tasks k.task = some q → q.st = .on n →
          (t.ctx n).port 0x80 = BitVec.ofNat 64 a ∧ (t.ctx n).port 0x81 = BitVec.ofNat 64 b ∧
          (t.ctx n).port 0x82 = BitVec.ofNat 64 m ∧ (t.ctx n).port 0x83 = BitVec.ofNat 64 k.cid.toNat
        (s.trigEarlier k = true ∨ k.pos = 1 → stays i) ∧
        (s.trigEarlier k = false → k.pos ≠ 1 →
          (s.tally = none → ¬pays → held i) ∧
          (∀ o, pays → r.1 = .ok o → Completes i s (fun t => ports t (o.events.toNat * 2 ^ 8) o.value o.amax ∧
            (u.sending k = false → (∀ c ∈ t.cmds, ¬c.same k) ∧ SameBytes u t))) ∧
          (∀ c a m, pays → r.1 = .error (c, a, m) → Completes i s (fun t => ∃ v, Charged u v ∧ v.tally = none ∧
            EndsFailed v t k ⟨c.num, a, k.trigLeft a, m⟩ false false 0)))) ∧
      (k.kind = .publish →
        let writers : Prop := ∃ c ∈ s.cmdsBefore k, c.task = k.task ∧ s.writesWindow c w = true
        (writers → stays (.publishFlip ctx cid)) ∧
        (¬writers → Completes (.publishFlip ctx cid) s (fun t => SameBytes s t ∧ Retired s t k 0 false 4 0 ∧
          (∀ p n, sget Win.reset (t.pen p).wins n = if p = k.pen ∧ n = k.r1.toNat then { w with front := !w.front }
            else sget Win.reset (s.pen p).wins n) ∧
          (k.scope = 3 → ∀ c, ∀ e ∈ (t.core c).tlb, e.pen = k.pen →
            ¬(e.base < w.va + w.size * 2 ^ 16 ∧ w.va < e.base + e.size))))) ∧
      (k.kind = .kv 8 →
        let i := Instr.kvattSlotFill ctx cid
        let x := k.stream
        let p := s.pool x.pool
        let next (s : State) := s.asCmd k (fun s => s.nextSlot k)
        (s.lives k = false → Completes i s (fun t => ∀ c ∈ t.cmds, ¬c.same k)) ∧
        (s.lives k = true → x.started = true → k.fail = none →
          (x.pos < k.pairs p.toks → x.skipped = false → x.cur = none →
            let pays : Prop := s.Pays k 2 (k.core / 16) (fun s => s.readPair k)
            (s.tally = none → ¬pays → held i) ∧
            (pays → Completes i s (fun t => SameBytes s t ∧ ∀ c ∈ s.cmds, c.same k → ∃ d ∈ t.cmds, d.same k ∧
              (∀ n, pageStall x.ext (k.pageAt p.toks) = some n → let e := s.stallAt x.pool n
                d.stream.cur = some (n, e.pack) ∧
                (e.state = 2 → d.fail.map FailAt.code = some 0x34 ∧ d.stream.ix = 0) ∧
                (e.state ≠ 2 → e.tier = 1 → d.fail.map FailAt.code = some 0x30 ∧ d.stream.ix = 0) ∧
                (e.state ≠ 2 → e.tier ≠ 1 → d.fail = c.fail)) ∧
              (pageStall x.ext (k.pageAt p.toks) = none → d.fail.map FailAt.code = some 0x32))))) ∧
          (∀ slot, s.slotAtPc k.ctx (k.ringOf x.ix) = some slot →
            let e := s.tile k.core slot
            let last : Prop := k.pairs p.toks ≤ x.pos
            (last → x.ix = 2) → (¬last → x.skipped = false ∧ x.cur ≠ none) →
            let r := (s.ctx k.ctx).ring (k.ringOf x.ix)
            let noRoom : Prop := ringLen (s.tile k.core) r < r.fill + e.lines.toNat
            -- a persistent slot that holds the pair is passed over
            (s.passes k e = true → ¬last → Completes i s (fun t => (∀ n, (t.core n).tiles = (s.core n).tiles) ∧
              ((t.ctx k.ctx).ring (k.ringOf x.ix)).pc = r.pc + e.lines.setWidth 32 ∧ SameBytes s t)) ∧
            (s.passes k e = false → e.state ≠ .empty ∨ noRoom → stays i) ∧
            (s.passes k e = false → e.state = .empty → ¬noRoom → s.budgetBlocked 2 (k.core / 16) = true →
              Completes i s (Charged s)) ∧
            (s.passes k e = false → e.state = .empty → ¬noRoom → s.budgetBlocked 2 (k.core / 16) = false →
              s.Admits 2 (k.core / 16) k.paid next →
              let b := (next s.tallied).1.1
              badSlot e x.ix (next s).1.1.length = none → Completes i s (fun t =>
                let f := t.tile k.core slot
                f.state = .ready ∧ f.faulted = false ∧ f.cid = k.cid ∧ f.lines = e.lines ∧ f.base = e.base ∧
                (∀ j < b.length, j < 2 ^ 20 → cellsRead (t.core k.core).scratch 20 (e.byteBase + j) 1 =
                  (b.getD j 0).toNat) ∧
                (x.ix < 2 → ¬last → ∀ n v, x.cur = some (n, v) →
                  f.stall = BitVec.ofNat 32 (stallField x.pool n (unpackStall v))))))))

/-! ### Events of contexts and answers from the links -/

/-- R108, R114, R230, R257, R258, R265, R360, R361: what ends a context's wait. A denied context is offered alone; a
shoot-down or cache operation completes; a `waita` wakes for its noted reason, by its time limit, or after its line
left; a `twait` wakes once its entry is released or has failed; a task that re-arms its rings issues its commands
again and restarts when they have armed them. Where the condition does not hold, the event does nothing. -/
def Obligations.ContextEvents : Prop :=
  ∀ (s : State) (n : Nat),
    let c := s.ctx n
    let stays (i : Instr) : Prop := Completes i s (fun t => t = s)
    (16 ≤ c.denial → Completes (.denialSoleIssue n) s (CtxIs s · n { c with sole := true })) ∧
    (c.denial < 16 → stays (.denialSoleIssue n)) ∧
    (s.penQuiet c.pen.toNat = true → Completes (.tlbshComplete n) s (CtxIs s · n { c with tlbshBusy := false })) ∧
    (s.penQuiet c.pen.toNat = false → stays (.tlbshComplete n)) ∧
    Completes (.cacheOpComplete n) s (CtxIs s · n { c with cacheBusy := false }) ∧
    -- `waita`
    (∀ rd slice line since wake, c.st = .parked (.waita rd slice line since wake) →
      (∀ why, wake = some why → Completes (.waitaWake n) s (WaitaEnds s · n why) ∧ stays (.waitaTimeout n)) ∧
      (wake = none → stays (.waitaWake n) ∧
        (c.waitlim ≠ 0 → since + c.waitlim.toNat ≤ s.now n → Completes (.waitaTimeout n) s (WaitaEnds s · n 3)) ∧
        (c.waitlim = 0 ∨ s.now n < since + c.waitlim.toNat → stays (.waitaTimeout n)))) ∧
    (∀ pa,
      let k := s.cluster n
      let hit (m : Mon) : Prop := if k.l2.any (fun l => l.pa == pa / 128 * 128) then m.line / 128 = pa / 128
        else m.line / 64 = pa / 64
      Completes (.waitaMonitorLost n pa) s (fun t => SameBytes s t ∧
        (∀ m ∈ k.mons, hit m → m ∉ (t.cluster n).mons ∧
          ∀ rd slice line since, (s.ctx m.ctx).st = .parked (.waita rd slice line since none) →
            (t.ctx m.ctx).st = .parked (.waita rd slice line since (some 2))) ∧
        (∀ m ∈ k.mons, ¬hit m → m ∈ (t.cluster n).mons) ∧
        (∀ i, { t.ctx i with st := (s.ctx i).st } = s.ctx i))) ∧
    -- `twait`
    (∀ pa want, c.st = .parked (.twait pa want) →
      let w := s.physRead pa 8
      let failed : Prop := w.testBit 32 = true
      let reached : Prop := (w % 2 ^ 32 + 2 ^ 32 - want) % 2 ^ 32 < 2 ^ 31
      (failed ∨ reached → Completes (.twaitWake n) s (CtxIs s · n { c with st := .ready })) ∧
      (¬failed → ¬reached → stays (.twaitWake n))) ∧
    ((∀ pa want, c.st ≠ .parked (.twait pa want)) → stays (.twaitWake n)) ∧
    -- TASK_RESTART
    (c.st ≠ .parked .rearm → stays (.taskRestart n)) ∧
    (c.st = .parked .rearm →
      let i := Instr.taskRestart n
      let busy : Prop := 1 ≤ c.statusOf c.nextcid ∧ c.statusOf c.nextcid ≤ 3
      let room (k : Cmd) : Bool := (s.arrive (s.anew n k)).1
      let again (k : Cmd) (slot armed : Option Nat) : Prop := Completes i s (fun t => SameBytes (s.arrive (s.anew n k)).2 t ∧
        (t.ctx n).nextcid = c.nextcid + 1 ∧ (t.ctx n).st = .parked .rearm ∧
        (∃ d ∈ t.cmds, (d.st = .waiting ∨ d.st = .running) ∧ d = { k with
          ctx := n
          core := coreOf n
          task := c.task
          cid := c.nextcid
          st := d.st
          at_ := d.at_
          rel := s.nextRel
          inRegion := false
          aborted := false
          preds := []
          ord := 0
          pos := 0
          fail := none
          done := 0
          got := []
          paid := 0
          slot := slot }) ∧
        ∀ j, armed = some j → (t.tile (coreOf n) j).state = .filling ∧ (t.tile (coreOf n) j).inflight = true ∧
          (t.tile (coreOf n) j).cid = c.nextcid)
      (∀ k r, c.halted = k :: r → (busy → stays i) ∧
        (¬busy → room k = false → stays i) ∧ (¬busy → room k = true → again k k.slot none)) ∧
      (∀ j r, c.halted = [] → c.todo = j :: r → ∀ k, (s.tile (coreOf n) j).fill = some k →
        (busy → stays i) ∧ (¬busy → room k = false → stays i) ∧
        (¬busy → room k = true → again k (some j) (some j))) ∧
      (c.halted = [] → c.todo = [] →
        (c.rearm.all (s.rearmed n) = false → stays i) ∧
        (c.rearm.all (s.rearmed n) = true → Completes i s (CtxIs s · n { c with
          st := .ready
          rearm := [] }))))

/-- R402, R406 to R408: a response gives the oldest unanswered access of a context its data, or its fault; an
acknowledgement takes one from the stores that wait, those of tasks that have left first, the refusal of one posting a
record of source 8 for the task that made it; the acknowledgement of a message of a command counts, and its last
retires the command; a send that is refused fails its command, and another store of an engine is dropped with a record
of source 8. A request without a route is answered with `MACHINE_CHECK`. The place of the data in the event, what
names a message or a store in it, the record's address and which request is given up are the model's (assumption log
21, 60, 69). -/
def Obligations.RemoteAnswers : Prop :=
  ∀ (s : State) (n data : Nat), data < 2 ^ 1024 →
    let c := s.ctx n
    let err : Nat := 2 ^ 1024
    let store : Nat := 2 ^ 1025
    let sent : Nat := 2 * 2 ^ 1025
    let stays (i : Instr) : Prop := Completes i s (fun t => t = s)
    let ready (x : Remote) : Prop := x.ans ≠ none ∨ x.fail ≠ none
    let load (asks : Remote → Prop) (pre : List Remote) (r : Remote) (post : List Remote) : Prop :=
      c.remote = pre ++ r :: post ∧ ¬ready r ∧ asks r ∧ ∀ x ∈ pre, ready x ∨ ¬asks x
    -- the stores that wait: `l` is what has been noted of the task that made the oldest, which has left where `pre` is
    let owes (l : Late) : Prop := l.ctx = n ∧ l.acks ≠ 0
    let oldest (pre : List Late) (l : Late) (post : List Late) : Prop :=
      s.lates = pre ++ l :: post ∧ owes l ∧ ∀ x ∈ pre, ¬owes x
    let lesser (pre : List Late) (l : Late) (post : List Late) : List Late :=
      (pre ++ { l with acks := l.acks - 1 } :: post).filter (fun l => l.acks != 0 || !l.ents.isEmpty)
    let none_ : Prop := ∀ l ∈ s.lates, ¬owes l
    let recOf (l : Late) (code : Nat) : FaultRec :=
      { seq := s.seq, pen := l.pen, ctx := l.ctx, code := code, source := 8, cmd := false, kv := false, region := false,
        merged := 0, cid := 0, wid := l.wid, pc := l.pc, rpc := l.pc, job := l.job, extent := 0, addr := 0,
        loops := l.loops, xregs := [] }
    let recorded (u t : State) (l : Late) (code : Nat) : Prop := t.seq = s.seq + 1 ∧
      ((s.pen l.pen).fqOpen = true → Recorded u t l.pen (recOf l code).words)
    let refused (i : Instr) (u : State) (code : Nat) : Prop :=
      (∀ pre l post, oldest pre l post → Completes i s (fun t => t.lates = lesser pre l post ∧ (t.ctx n).acks = c.acks ∧
        recorded u t l code)) ∧
      (none_ → c.acks ≠ 0 → Completes i s (fun t => t.lates = s.lates ∧ (t.ctx n).acks = c.acks - 1 ∧
        recorded u t (s.lateOf n) code)) ∧
      (none_ → c.acks = 0 → Completes i s (fun t => t = u))
    -- a send that fails: the command fails with it, or the request that a groom runs has failed
    let dropped (i : Instr) (v : State) (x : Sent) (code : Code) : Prop :=
      let u : State := { v with sents := v.sents.filter (fun y => !(y.task == x.task && y.cid == x.cid)) }
      (s.sentCmd x = none → Completes i s (fun t => t = u)) ∧
      (∀ k, s.sentCmd x = some k →
        let cl := clusterOf k.ctx
        let runs (r : GroomRun) : Prop := (s.groom cl).run = some r ∧ r.cmd.task = k.task ∧ r.cmd.cid = k.cid
        ((∀ r, ¬runs r) → Completes i s (EndsFailed u · k ⟨code.num, 0, 0, 0⟩ false false 0)) ∧
        (∀ r, runs r → Completes i s (fun t => t = { u with grooms := t.grooms } ∧ ∀ g, t.groom g = if g = cl then
          { s.groom cl with run := some { r with fail := some (code, k.pc.toNat) } } else s.groom g)))
    -- a message is acknowledged, and with the last its command retires, where its work is done
    let acked (v w : State) (x : Sent) : Prop :=
      let u : State := { v with
        sents := (v.sents.map (fun y => if y.task = x.task ∧ y.cid = x.cid then { y with
          left := y.left - 1
          linked := x.linked - 1 } else y)).filter (fun y => y.left != 0) }
      (s.sentCmd x = none → w = u) ∧
      (∀ k, s.sentCmd x = some k →
        (k.concluded = true → u.sending k = false → EndsDone u w k ((k.fail.map FailAt.addr).getD 0)) ∧
        (k.concluded = false ∨ u.sending k = true → w = u))
    let refusedSent (i : Instr) (v : State) (x : Sent) (code : Code) : Prop :=
      (x.bulk = true → dropped i v x code) ∧
      (x.bulk = false → Completes i s (fun t => ∃ w, acked v w x ∧
        recorded w t ⟨x.ctx, x.task, x.pen, x.wid, x.pc, x.job, x.loops, 0, []⟩ code.num))
    -- loads and returning atomics
    (∀ pre r post, load (fun _ => True) pre r post →
      Completes (.remoteResponse n data) s (CtxIs s · n { c with
        remote := pre ++ { r with ans := some (data % 2 ^ (8 * r.n)) } :: post }) ∧
      Completes (.remoteResponse n (err + data)) s (CtxIs s · n { c with
        remote := pre ++ { r with fail := some .permission } :: post })) ∧
    -- stores
    (∀ pre l post, oldest pre l post → Completes (.remoteResponse n (store + data)) s (fun t =>
      t = { s with lates := lesser pre l post })) ∧
    (none_ → c.acks ≠ 0 → Completes (.remoteResponse n (store + data)) s (CtxIs s · n { c with acks := c.acks - 1 })) ∧
    (none_ → c.acks = 0 → stays (.remoteResponse n (store + data))) ∧
    refused (.remoteResponse n (store + err + data)) s 0x21 ∧
    -- messages of commands
    (let i := Instr.remoteResponse n (sent + data)
     ((∀ x ∈ s.sents, x.ctx = n → x.linked = 0) → stays i) ∧
      (∀ x, s.sents.find? (fun x => x.ctx == n && x.linked != 0) = some x → Completes i s (acked s · x))) ∧
    (let i := Instr.remoteResponse n (sent + err + data)
     ((∀ x ∈ s.sents, x.ctx ≠ n) → stays i) ∧
      (∀ x, s.sents.find? (fun x => x.ctx == n) = some x → refusedSent i s x .permission)) ∧
    -- a request of the context that has no route
    (let i := Instr.inboundRouteTimeout n
     let lost (m : Outbound) : Bool := s.ownRequest n m && (s.route m).isNone
     ((∀ m ∈ s.outbox, lost m = false) → stays i) ∧
      (∀ m, s.outbox.find? lost = some m →
        let u : State := { s with outbox := s.outbox.eraseP lost }
        let fails (asks : Remote → Prop) : Prop := ∀ pre r post, load asks pre r post →
          Completes i s (CtxIs u · n { c with remote := pre ++ { r with fail := some .machineCheck } :: post })
        (∀ a d pa b, m = .store a d pa b → refused i u 0x70) ∧
        (∀ a d pa k, m = .load a d pa k → fails (fun r => r.pa = pa ∧ r.n = k ∧ r.op = none)) ∧
        (∀ a d pa op k x y, m = .atomic a d pa op k x y →
          let asks (r : Remote) : Prop := r.pa = pa ∧ r.n = k ∧ r.op = some op ∧ r.a = x ∧ r.c = y
          fails asks ∧ ((∀ r ∈ c.remote, ready r ∨ ¬asks r) → refused i u 0x70)) ∧
        (∀ bulk task cid d pa b x, m = .send bulk task cid d pa b →
          s.sents.find? (fun x => x.task == task && x.cid == cid) = some x → refusedSent i u x .machineCheck)))

/-! ### Jobs, tasks, launches, graphs and user queues -/

/-- R96, R106, R108 to R111, R233, R250, R380, R381: what the job sequencer and a pen's driver do to tasks. A placed
task starts with the registers of its header; a pre-empted one is saved in a frame, whose bytes alone of memory
change, its region discarded, and its context is IDLE, once its immediate commands have retired and its SFU results
are written; a STOPPED one is resumed with the driver's registers or terminated, which fails its job; a job that has
ended writes its signal once, as budgets admit it; a held record enters its queue when there is room and no budget
holds it. The model's choices here: assumption log 14, 18, 31, 58. -/
def Obligations.TasksAndJobs : Prop :=
  ∀ (s : State),
    let stays (i : Instr) : Prop := Completes i s (fun t => t = s)
    -- TASK_PLACEMENT
    (∀ core, (s.booted = false ∨ s.safe = true ∨ s.updating 1 = true ∨ s.headOfOrder = none) → stays (.taskPlacement core)) ∧
    (∀ core g, s.booted = true → s.safe = false → s.updating 1 = false → s.headOfOrder = some g →
      (∀ c, g = [c] → ∀ n, s.seats core g = some [n] → ∀ l, s.launchOf c = some l → c.task = none → l.hdr.gang = 7 →
        Completes (.taskPlacement core) s (fun t =>
          let d := t.ctx n
          d.st = .ready ∧ d.task = s.nextTask ∧ d.pc = BitVec.ofNat 60 l.hdr.entry ∧ d.mpc = BitVec.ofNat 60 l.hdr.metaPc ∧
          d.wid = BitVec.ofNat 64 (widOf l.hdr.levels c.ord) ∧ d.prio = BitVec.ofNat 3 l.hdr.prio ∧
          (∀ j, sfind s.jobs l.job = some j → d.pen = BitVec.ofNat 6 j.pen) ∧
          (∀ r : BitVec 6, d.x r = if r = 1 then BitVec.ofNat 64 l.hdr.args else 0) ∧ d.ps = 1 ∧ d.vs = [] ∧ d.ms = [] ∧
          d.acc = [] ∧ d.fpflags = 0 ∧ d.fprec = 0 ∧ d.nextcid = 0 ∧ d.region = none ∧ d.loops = [] ∧
          (∀ i < 512, l.hct.length ≤ 512 → d.hctAt i = match (if l.hdr.hctbase ≤ i then l.hct[i - l.hdr.hctbase]? else none) with
            | some w => .loaded w
            | none => .unloaded 0) ∧
          (∃ q, sfind t.tasks s.nextTask = some q ∧ q.st = .on n ∧ q.job = l.job ∧ q.ord = c.ord ∧ q.launch = c.launch) ∧
          (∃ l', sfind t.launches c.launch = some l' ∧ l'.next = c.ord + 1) ∧
          (∀ k ≠ n, t.ctx k = s.ctx k) ∧ SameBytes s t)) ∧
      (∀ c g' l, g = c :: g' → s.launchOf c = some l → s.seats core g = none →
        (∀ k q j, (k, q) ∈ s.tasks → (∃ n, q.st = .on n) → sfind s.jobs q.job = some j → l.hdr.prio ≤ j.prio) →
        Completes (.taskPlacement core) s (OnlyPaid s))) ∧
    (∀ (task : Nat) (q : Task), sfind s.tasks task = some q →
      -- PREEMPTION
      ((∀ n, q.st ≠ .on n) → stays (.preemption task)) ∧
      (∀ n, q.st = .on n → (s.ctx n).task = task → q.gang = 0 →
        let c := s.ctx n
        let latch := c.region.isNone && c.latch.isSome
        let u := (s.abortRegion n).updCtx n (fun x => { x with leave := some ⟨latch, c.region.isNone, none⟩ })
        let pa (f : Nat) : Nat := (s.pen c.pen.toNat).framePa f
        ((c.canLeave = false ∨ c.leave ≠ none ∨ u.frameFor n latch (u.homeGang n) = none) → stays (.preemption task)) ∧
        (∀ f, c.canLeave = true → c.leave = none → u.frameFor n latch (u.homeGang n) = some f →
          -- an immediate command that has not retired, outside a region, or an SFU result that is not written keeps it: it
          -- issues no more, and leaves after that
          let keeps : Prop := (c.region = none ∧ u.immediates n = true) ∨ s.now n < c.sfuDue
          (keeps → Completes (.preemption task) s (fun t => t = u)) ∧
          (¬keeps → Completes (.preemption task) s (fun t => ∃ r v,
            sfind t.tasks task = some r ∧ r.st = .saved ∧ r.last = n ∧
            r.frame = some f ∧ r.saved = some v ∧ f ∈ (t.pen c.pen.toNat).frames ∧
            (pa f < 2 ^ 50 → s.FreeFor c.pen.toNat →
              (∀ k : BitVec 6, t.physRead (pa f + 8 * k.toNat) 8 = (c.x k).toNat) ∧
              SameBytesOut s t (pa f) (u.frameNeed n latch (u.homeGang n))) ∧
            v.ctx.xs = c.xs ∧ v.ctx.ps = c.ps ∧ (c.gath = [] → v.ctx.vs = c.vs) ∧ v.ctx.ms = c.ms ∧ v.ctx.hct = c.hct ∧
            v.ctx.fpflags = c.fpflags ∧ v.ctx.fprec = c.fprec ∧ v.ctx.pc = (u.ctx n).pc ∧ v.ctx.loops = (u.ctx n).loops ∧
            v.ctx.acc = (u.ctx n).acc ∧ v.ctx.nextcid = c.nextcid ∧ v.ctx.wid = c.wid ∧ v.ctx.eng = c.eng ∧
            (latch = true → v.ctx.latch = c.latch) ∧
            (t.ctx n).st = .idle ∧ (t.ctx n).task = 0)))) ∧
      -- DRIVER_RESUME and DRIVER_TERMINATE
      (∀ (pen : Nat) (l : List Word),
        let stopped : Prop := q.st = .stopped ∨ ∃ n, q.st = .on n ∧ (s.ctx n).st = .stopped
        let given (old new : Ctx) : Prop := ∀ k : BitVec 6,
          new.x k = if 1 ≤ k.toNat ∧ k.toNat ≤ 8 then l.getD (k.toNat - 1) (old.x k) else old.x k
        ((sfind s.jobs q.job).map Job.pen ≠ some pen ∨ ¬stopped →
          stays (.driverResume pen task l) ∧ stays (.driverTerminate pen task)) ∧
        ((sfind s.jobs q.job).map Job.pen = some pen → stopped →
          (q.st = .stopped → Completes (.driverResume pen task l) s (fun t => SameBytes s t ∧ ∃ r,
            sfind t.tasks task = some r ∧ r.st = .saved ∧ r.saved.isSome = q.saved.isSome ∧
            (∀ v w, q.saved = some v → r.saved = some w → given v.ctx w.ctx ∧ w.tiles = v.tiles) ∧
            ∀ k ≠ task, sfind t.tasks k = sfind s.tasks k)) ∧
          (∀ n, q.st = .on n → Completes (.driverResume pen task l) s (fun t => SameBytes s t ∧
            (t.ctx n).st = .parked .rearm ∧ given (s.ctx n) (t.ctx n) ∧ ∀ k ≠ n, t.ctx k = s.ctx k)) ∧
          (q.gang = 0 → ∀ j, sfind s.jobs q.job = some j → Completes (.driverTerminate pen task) s (fun t =>
            sfind t.tasks task = none ∧ ∃ j', sfind t.jobs q.job = some j' ∧ j'.ended = j.ended + 1 ∧
            j'.completed = j.completed ∧ j'.expected = j.expected ∧
            (j.st = .running → j'.st = .failed ∧ j'.code = q.stopCode ∧ j'.fseq = q.stopSeq) ∧
            (j.st ≠ .running → j'.st = j.st ∧ j'.code = j.code)))))) ∧
    -- JOB_SIGNAL_WRITE
    (∀ (n : Nat) (j : Job), sfind s.jobs n = some j →
      let ends : Prop := j.st = .done ∨ j.st = .rejected ∨ (j.st = .failed ∧ j.ended = j.tasks)
      (¬ends ∨ j.signalled = true ∨ s.jobQuiet n = false → stays (.jobSignalWrite n)) ∧
      (ends → j.signalled = false → s.jobQuiet n = true →
        let u : State := { s.tallied with jobs := sset s.jobs n { j with signalled := true } }
        let v := if j.st = .done then 1 else 2 ^ 63 + j.code
        let x := u.xlate (engAccess j.pen 15 (.die 4) true) j.signal
        let w := u.engWrite j.pen 15 (.die 4) 2 j.signal 8 v
        let pays : Prop := s.Admits 0 0 (sget 0 s.paidBy (1025 + 2 * n)) (fun s =>
          ((), { s with jobs := sset s.jobs n { j with signalled := true } }.signal j.pen j.signal v))
        (s.tally = none → ¬pays → Completes (.jobSignalWrite n) s (fun t => t.jobs = s.jobs ∧ SameBytes s t)) ∧
        -- a signal whose translation finds a malformed table ends the pen's work besides (R437)
        (pays → j.signal ≠ 0 → ∀ a, w.1 = .error (.tableStructure, a) →
          Completes (.jobSignalWrite n) s (fun t => (t.pen j.pen).root.getLsbD 0 = false)) ∧
        (pays → (j.signal = 0 ∨ ∀ a, w.1 ≠ .error (.tableStructure, a)) →
          Completes (.jobSignalWrite n) s (fun t =>
            sfind t.jobs n = some { j with signalled := true } ∧ (j.signal = 0 → SameBytes s t) ∧
            ∀ r, j.signal ≠ 0 → j.signal % 8 = 0 → x.1 = .ok r → x.2.elsewhere r.pa = false →
              t.physRead r.pa 8 = v % 2 ^ 64 ∧ SameBytesBut x.2 t r.pa 8)))) ∧
    -- FAULT_RECORD_HELD_WRITE
    (∀ pen, let p := s.pen pen
      (p.held = [] ∨ p.fqOpen = false ∨ s.mayAsk pen p.fqAt = false → stays (.faultRecordHeldWrite pen)) ∧
      (∀ w r, p.held = w :: r → p.fqOpen = true → s.mayAsk pen p.fqAt = true → Completes (.faultRecordHeldWrite pen) s (fun t =>
        (t.pen pen).held = r ∧ Recorded s t pen w)))

/-- R292, R293, R377 to R379, R382, R383: user queues, launches and graphs. A queue with work takes a free slot within
its pen's quota, and an idle one leaves it; a notify sets tail, is latched, or is dropped with a log record; the head
entry of a mapped queue is consumed and accepted as a job, attached to one, or made a graph, or rejected without a
job; a node acts as Table 4 says once the job it waits for has ended. All of it where no budget holds the HBM requests
of the pens (R396). The model's choices here: assumption log 56, 57, 59, 94, 102. -/
def Obligations.LaunchesAndGraphs : Prop :=
  ∀ (s : State), s.tally = none → (∀ pen, s.FreeFor pen) →
    let stays (i : Instr) : Prop := Completes i s (OnlyPaid s)
    let b := s.tallied
    -- USER_QUEUE_MAP and USER_QUEUE_UNMAP
    (∀ id slot q, s.userQ id = some q →
      let used := (s.userQs.filter (fun x => x.pen == q.pen && x.slot.isSome)).length
      let can : Prop := s.updating 1 = false ∧ q.slot = none ∧ slot < 128 ∧ sfind s.uqSlots slot = none ∧
        used < (s.pen q.pen).uqQuota
      (¬can → stays (.userQueueMap id slot)) ∧
      (can → ∀ v, (b.seqRead q.pen q.desc 64).1 = .ok v →
        let w (i : Nat) : Nat := v / 2 ^ (64 * i) % 2 ^ 64
        let pending : Prop := (w 4).testBit 0 = true
        (¬pending → w 2 % 2 ^ 32 = w 3 % 2 ^ 32 → stays (.userQueueMap id slot)) ∧
        (¬pending → w 2 % 2 ^ 32 ≠ w 3 % 2 ^ 32 → Completes (.userQueueMap id slot) s (fun t =>
          sfind t.uqSlots slot = some ⟨id, w 0 % 2 ^ 60, w 1 % 32, w 2 % 2 ^ 32, w 3 % 2 ^ 32⟩)) ∧
        (pending → Completes (.userQueueMap id slot) s (fun t =>
          sfind t.uqSlots slot = some ⟨id, w 0 % 2 ^ 60, w 1 % 32, w 2 % 2 ^ 32, w 4 / 2 ^ 32⟩)))) ∧
    (∀ slot u, sfind s.uqSlots slot = some u →
      (u.head ≠ u.tail ∨ s.updating 1 = true → stays (.userQueueUnmap slot)) ∧
      (u.head = u.tail → s.updating 1 = false → Completes (.userQueueUnmap slot) s (fun t =>
        sfind t.uqSlots slot = none ∧ (∀ k ≠ slot, sfind t.uqSlots k = sfind s.uqSlots k) ∧
        ∀ q ∈ t.userQs, q.id = u.id → q.slot = none))) ∧
    -- NOTIFY
    (∀ pen slot (v : Word),
      let id := v.toNat / 2 ^ 32
      let tail := v.toNat % 2 ^ 32
      let i := Instr.notify pen slot v
      ((∀ q, s.userQ id = some q → q.pen ≠ pen) → Completes i s (fun t => t.uqSlots = s.uqSlots ∧ t.userQs = s.userQs ∧
        t.seq = s.seq + 1)) ∧
      (∀ q, s.userQ id = some q → q.pen = pen →
        (∀ k u, q.slot = some k → sfind s.uqSlots k = some u → Completes i s (fun t =>
          (∀ j, sfind t.uqSlots j = if j = k then some { u with tail := tail } else sfind s.uqSlots j) ∧
          t.userQs = s.userQs)) ∧
        (q.slot = none → (s.seqWrite q.pen (q.desc + 0x20) 8 (tail * 2 ^ 32 + 1)).1 = .ok () → Completes i s (fun t =>
          t = (s.seqWrite q.pen (q.desc + 0x20) 8 (tail * 2 ^ 32 + 1)).2)))) ∧
    -- LAUNCH, ATTACHED_LAUNCH, GRAPH_LAUNCH
    (∀ slot, (b.nextEntry slot).1 = none →
      ∀ i ∈ [Instr.launch slot, .attachedLaunch slot, .graphLaunch slot], stays i) ∧
    (∀ slot q u e, (b.nextEntry slot).1 = some (q, u, e) →
      let s' := (b.nextEntry slot).2
      let c := s'.consume slot q u
      let taken (t : State) : Prop := sfind t.uqSlots slot = some { u with head := (u.head + 1) % 2 ^ 32 }
      -- no job is made; one number at most is drawn unless a malformed table has ended the pen's work, or a signal has failed
      let none_ (t : State) : Prop := taken t ∧ t.nextJob = s.nextJob ∧ t.nextLaunch = s.nextLaunch ∧
        (t.seq ≤ s.seq + 1 → t.jobs = s.jobs ∧ t.launches = s.launches ∧ t.tasks = s.tasks ∧ t.graphs = s.graphs)
      (e = none → Completes (.launch slot) s none_ ∧ stays (.attachedLaunch slot) ∧ stays (.graphLaunch slot)) ∧
      (∀ w, e = some w →
        let kind := w.getD 0 0 % 16
        let a := c.submitEntry q.pen w
        (kind = 2 → stays (.launch slot) ∧ stays (.attachedLaunch slot)) ∧
        (kind ≠ 2 → stays (.graphLaunch slot)) ∧ (kind = 1 → stays (.launch slot)) ∧
        (kind ≠ 1 → stays (.attachedLaunch slot)) ∧
        (kind ≠ 2 → ∀ i, i = (if kind = 1 then Instr.attachedLaunch slot else .launch slot) →
          (a.1 = none → Completes i s none_) ∧
          (∀ n, a.1 = some n → kind = 0 → Completes i s (fun t => taken t ∧ n = s.nextJob ∧
            ∃ j l, sfind t.jobs n = some j ∧ j.pen = q.pen ∧ j.st = .running ∧ j.completed = 0 ∧ j.ended = 0 ∧ j.code = 0 ∧
              j.signalled = false ∧ j.tasks ≤ j.expected ∧ sfind t.launches s.nextLaunch = some l ∧ l.job = n ∧ l.next = 0 ∧
              l.total = j.tasks ∧ l.hdr.prio = j.prio)) ∧
          (∀ n, a.1 = some n → kind = 1 → Completes i s (fun t => taken t ∧
            ∃ j j' l, (n, j) ∈ c.jobs ∧ j.st = .running ∧ j.pen = q.pen ∧ sfind t.jobs n = some j' ∧
              sfind t.launches s.nextLaunch = some l ∧ l.job = n ∧ l.next = 0 ∧ j'.tasks = j.tasks + l.total ∧
              j'.expected = j.expected ∧ j'.completed = j.completed ∧ l.hdr.prio = j.prio))) ∧
        (kind = 2 →
          let ok : Prop := entryOk w = true ∧ w.getD 2 0 = 0
          (¬ok ∨ (c.readGraph q.pen (w.getD 1 0)).1 = none → Completes (.graphLaunch slot) s none_) ∧
          (∀ g, ok → (c.readGraph q.pen (w.getD 1 0)).1 = some g → Completes (.graphLaunch slot) s (fun t => taken t ∧
            g.node < 2 ^ 16 ∧ 0 < g.n ∧ g.job = none ∧
            (∀ k < 64, c.graphWait = [] → sfind c.graphs k = none → (∀ j < k, sfind c.graphs j ≠ none) →
              sfind t.graphs k = some g) ∧
            (c.graphWait ≠ [] ∨ (∀ k < 64, sfind c.graphs k ≠ none) →
              t.graphWait = c.graphWait ++ [(q.pen, w.getD 1 0)] ∧ t.graphs = c.graphs)))))) ∧
    -- GRAPH_NODE_STEP
    (∀ n, sfind s.graphs n = none →
      (64 ≤ n ∨ s.updating 1 = true ∨ s.graphWait = [] → stays (.graphNodeStep n)) ∧
      (∀ p d r, n < 64 → s.updating 1 = false → s.graphWait = (p, d) :: r →
        let x := { s with graphWait := r }.readGraph p d
        Completes (.graphNodeStep n) s (fun t => t.graphWait = r ∧ (∀ k ≠ n, sfind t.graphs k = sfind x.2.graphs k) ∧
          (∀ g, x.1 = some g → sfind t.graphs n = some g)))) ∧
    (∀ n g, sfind s.graphs n = some g → s.updating 1 = false →
      let i := Instr.graphNodeStep n
      let goes (k : Nat) : Prop := Completes i s (fun t => sfind t.graphs n = some { g with
        node := k
        job := none })
      let gone : Prop := Completes i s (fun t => sfind t.graphs n = none)
      (∀ k j, g.job = some k → sfind s.jobs k = some j →
        let ends : Prop := j.st = .done ∨ j.st = .rejected ∨ (j.st = .failed ∧ j.ended = j.tasks)
        (¬ends ∨ j.signalled = false → stays i) ∧ (ends → j.signalled = true →
          (j.st = .done → goes g.node) ∧ (j.st ≠ .done → gone))) ∧
      (g.job = none → (g.n ≤ g.node → gone) ∧
        (g.node < g.n →
          let r := b.seqRead g.pen (g.table + 32 * g.node) 32
          (∀ c, r.1 = .error c → gone) ∧
          (∀ v, r.1 = .ok v →
            let w (i : Nat) : Nat := v / 2 ^ (64 * i) % 2 ^ 64
            let kind := w 0 % 16
            let s0 := w 0 / 2 ^ 16 % 2 ^ 16
            let s1 := w 0 / 2 ^ 32 % 2 ^ 16
            let ok : Prop := w 0 / 2 ^ 48 = 0 ∧ w 0 / 2 ^ 4 % 2 ^ 12 = 0 ∧ w 3 = 0 ∧ kind ≤ 4 ∧ (kind ≠ 4 → s0 < g.n) ∧
              (kind = 1 ∨ kind = 2 → s1 < g.n)
            let bad : Prop := 1 ≤ kind ∧ kind ≤ 3 ∧ w 1 % 8 ≠ 0
            (¬ok ∨ bad → gone) ∧
            (ok → kind = 4 → gone) ∧
            (ok → kind = 0 → ∀ c, (r.2.seqRead g.pen (w 1) 128).1 = .error c → gone) ∧
            (ok → kind = 0 → ∀ x, (r.2.seqRead g.pen (w 1) 128).1 = .ok x →
              let e := r.2.seqRead g.pen (w 1) 128
              let a := e.2.submitEntry g.pen (wordsOf 16 x)
              (1 < x % 16 ∨ a.1 = none → gone) ∧
              (∀ k, x % 16 ≤ 1 → a.1 = some k → Completes i s (fun t => sfind t.graphs n = some { g with
                node := s0
                job := some k }))) ∧
            (ok → ¬bad → kind = 3 → (r.2.seqWrite g.pen (w 1) 8 (w 2)).1 = .ok () → goes s0) ∧
            (ok → ¬bad → kind = 1 ∨ kind = 2 → ∀ x, (r.2.seqRead g.pen (w 1) 8).1 = .ok x →
              goes (if x = 0 then s0 else s1))))))

/-! ### Key-value sequences and tiers -/

/-- R299, R301, R305, R306, R309, R310, R312 to R314: what a key-value command does when its step applies (its
retirement then follows `EngineEvents`). A handle outside the table or of another pen's pool gives `PERMISSION`, a
stale one `KV_STALE`; then the checks of the operation, and the new descriptor, which no other byte of memory goes
with for `kvcommit` and `kvq`. `kvfork` makes its destination from a source or, with the null handle, from nothing,
and retires the sequence that stands there. The model's choices here: assumption log 27, 52. -/
def Obligations.KvSteps : Prop :=
  ∀ (s : State) (k : Cmd),
    let h := k.r1.toNat
    let n := k.r2.toNat
    let run (op : Nat) : KvStep := (s.runKv k op).1
    let fails (op : Nat) (c : Code) : Prop := run op = .error (c, 0, false, 0)
    let i := h / 4 % 2 ^ 22
    let d := s.desc k.pen i
    let p := s.pool d.pool
    let own : Prop := p.enable = true ∧ p.pen = k.pen
    let inTable : Prop := ∃ size, (s.pen k.pen).seqSize = some size ∧ i ≠ 0 ∧ i < size
    let good : Prop := inTable ∧ d.live = true ∧ d.gen = h / 2 ^ 24 % 2 ^ 8 ∧ own
    let becomes (t : State) (j : Nat) (e : Desc) : Prop := t.desc k.pen j = e
    (∀ op, ¬(op = 2 ∧ k.r1 = 0) →
      (¬inTable → fails op .permission) ∧
      (inTable → d.live = false ∨ d.gen ≠ h / 2 ^ 24 % 2 ^ 8 → fails op .kvStale ∧
        (own → ((s.runKv k op).2.pool d.pool).stale = min (2 ^ 32 - 1) (p.stale + 1))) ∧
      (inTable → d.live = true → d.gen = h / 2 ^ 24 % 2 ^ 8 → ¬own → fails op .permission)) ∧
    -- `kvfork` with the null handle: an empty sequence in the pool selected
    (k.r1 = 0 →
      let j := n / 4 % 2 ^ 22
      let x := s.desc k.pen j
      let m := k.reg 0x100 % 8
      let ours : Prop := (s.pool m).enable = true ∧ (s.pool m).pen = k.pen
      let there : Prop := ∃ size, (s.pen k.pen).seqSize = some size ∧ j ≠ 0 ∧ j < size
      let g := n / 2 ^ 24 % 2 ^ 8
      let opens : Prop := (x.live = false ∧ g = x.gen) ∨ (x.live = true ∧ g = (x.gen + 1) % 256)
      (¬ours ∨ ¬there → fails 2 .permission) ∧ (ours → there → ¬opens → fails 2 .kvStale) ∧
      (ours → there → opens → ∃ t, run 2 = .ok (0, t) ∧ becomes t j { Desc.empty m with
        gen := g
        live := true })) ∧
    (good →
      -- `kvcommit`, `kvtrunc`, `kvq`, `kvclass`, `kvfree`
      (n < d.committed ∨ d.written < n → fails 4 .kvExtent ∧ (k.r1 ≠ 0 → fails 5 .kvExtent)) ∧
      (d.committed ≤ n → n ≤ d.written →
        (∃ t, run 4 = .ok (n, t) ∧ becomes t i { d with committed := n } ∧
          SameBytesBut s t ((s.pen k.pen).descPa i) 192) ∧
        (∃ t, run 5 = .ok (n, t) ∧ becomes t i { d with written := n })) ∧
      ((n = 4 ∨ n = 5) → d.pages ≤ k.reg 0x109 → fails 6 .kvExtent) ∧
      (n < 4 → ∃ t, let v := if n = 0 then d.committed else if n = 1 then d.written else if n = 2 then d.resv else d.pages
        run 6 = .ok (v % 2 ^ 32, t) ∧ SameBytes s t ∧ ∀ q c, sfind s.tasks k.task = some q → q.st = .on c →
          t.ctx c = { s.ctx c with eng := (t.ctx c).eng } ∧
          -- one that retires CANCELLED leaves `kv.qres`
          ∀ j, (t.ctx c).engReg j = if j = 0x10A ∧ k.aborted = false then BitVec.ofNat 64 v else (s.ctx c).engReg j) ∧
      (n < 4 → ∃ t, run 7 = .ok (d.pages, t) ∧ becomes t i { d with cls := n }) ∧
      (∃ m t, run 3 = .ok (m, t) ∧ m ≤ d.pages ∧ t.seq ≥ s.seq + 1 ∧ becomes t i { d with
        gen := (d.gen + 1) % 256
        live := false
        written := 0
        committed := 0
        pages := 0
        resv := 0
        ext := [] }) ∧
      -- `kvfork`, to a free entry or to one whose sequence it retires
      (let j := n / 4 % 2 ^ 22
       let x := s.desc k.pen j
       let pages := (d.committed + p.toks - 1) / p.toks
       k.r1 ≠ 0 →
        (¬(∃ size, (s.pen k.pen).seqSize = some size ∧ j ≠ 0 ∧ j < size) → fails 2 .permission) ∧
        ((∃ size, (s.pen k.pen).seqSize = some size ∧ j ≠ 0 ∧ j < size) →
          (j = i ∨ (x.live = false ∧ x.gen ≠ n / 2 ^ 24 % 2 ^ 8) ∨ (x.live = true ∧ n / 2 ^ 24 % 2 ^ 8 ≠ (x.gen + 1) % 256) →
            fails 2 .kvStale) ∧
          (j ≠ i → ((x.live = false ∧ n / 2 ^ 24 % 2 ^ 8 = x.gen) ∨ (x.live = true ∧ n / 2 ^ 24 % 2 ^ 8 = (x.gen + 1) % 256)) →
            ((∃ g ∈ stallsOf d.ext pages, (s.stallAt d.pool g).count = 65535) → fails 2 .kvExtent) ∧
            ((∀ g ∈ stallsOf d.ext pages, (s.stallAt d.pool g).count ≠ 65535) →
            ∃ t, run 2 = .ok (pages, t) ∧ becomes t j { d with
              gen := n / 2 ^ 24 % 2 ^ 8
              written := d.committed
              pages := pages
              resv := 0
              ext := cutExt d.ext pages
              board := 0xFFFF })))) ∧
      -- `kvres`
      (let m := n % 2 ^ 16
       let r := n / 2 ^ 16 % 2 ^ 16
       (m + r = 0 → ∃ t, run 0 = .ok (0, t) ∧ SameBytes s t ∧ t.pools = s.pools) ∧
        (0 < m + r → 1048560 < d.pages + m → fails 0 .kvExtent) ∧
        (0 < m + r → d.pages + m ≤ 1048560 → p.stackFree 0 < p.resv + m + r → fails 0 .yardFull) ∧
        (0 < m + r → d.resv + r < 2 ^ 32 → ∀ x t, run 0 = .ok (x, t) → x = m ∧ ∃ ext, ext.length ≤ 16 ∧ becomes t i { d with
          ext := ext
          pages := d.pages + m
          resv := d.resv + r })) ∧
      -- `kvapp`
      (let pos := n % 2 ^ 32
       let cnt := n / 2 ^ 32 % 2 ^ 16
       let entry (g : Nat) : Stall := s.stallAt d.pool ((pageStall d.ext g).getD 0)
       let bad : Prop := cnt = 0 ∨ pos < d.committed ∨ d.written < pos ∨ d.pages * p.toks < pos + cnt ∨
         p.planes < k.reg 0x104 % 2 ^ 8 + (k.reg 0x104 / 2 ^ 8 % 2 ^ 8 + 1)
       let on (g : Nat) : Prop := pos / p.toks ≤ g ∧ g ≤ (pos + cnt - 1) / p.toks
       (bad → fails 1 .kvExtent) ∧
        (¬bad →
          (∀ g, on g → (entry g).state = 2 → (∀ f < g, on f → (entry f).state ≠ 2) →
            run 1 = .error (.kvRecalled, kvAddr h g, true, 0)) ∧
          ((∀ g, on g → (entry g).state ≠ 2) → ∀ g, on g → ((entry g).tier ≠ 0 ∨ (entry g).fmt ≠ p.nfmt) →
            (∀ f < g, on f → (entry f).tier = 0 ∧ (entry f).fmt = p.nfmt) →
            run 1 = .error (.kvNotNear, kvAddr h g, true, 0)) ∧
          ((∀ g, on g → (entry g).state ≠ 2 ∧ (entry g).tier = 0 ∧ (entry g).fmt = p.nfmt) →
            p.spare < ((((k.appPages p.toks).filter (fun g => decide (1 < (entry g).count))).length - d.resv : Nat) : Int) →
            fails 1 .yardFull) ∧
          (∀ x t, run 1 = .ok (x, t) → x = cnt ∧ (t.desc k.pen i).written = max d.written (pos + cnt) % 2 ^ 32 ∧
            (t.desc k.pen i).committed = d.committed ∧ (t.desc k.pen i).pages = d.pages))))

/-- R294, R298, R321, R332, R334 to R336, R360, R362: what the ostler, the drovers, the lending of blocks and the
grooms do of themselves. Heat is rewritten with its decayed value; blocks lent or returned stand on their stacks in
order, those recalled leave the agisted one at once, and at the deadline their stalls are RECALLED; a page in a marked
frame is not moved; a recall move goes before all else, which no budget holds; a move that ends is no longer held; the
service of a page that is not far makes its task placeable; a groom acts on its request word by word. The model's
choices here: assumption log 53, 54, 55, 78, 79, 94. -/
def Obligations.KvEvents : Prop :=
  ∀ (s : State) (n : Nat),
    let p := s.pool n
    let stays (i : Instr) : Prop := Completes i s (fun t => t = s)
    let entries (u : State) (k : Nat) : List Nat := (List.range ((u.pool n).stackFree k)).map (fun i =>
      u.physRead ((u.pool n).stackBase k + 8 * i) 8)
    let near : Prop := p.stabBase + 32 * 2 ^ p.lstalls ≤ 2 ^ 39
    -- HEAT_REFRESH, KV_DECAY_PERIOD, DEFERRED_BLOCK_RELEASE
    (p.enable = false → stays (.heatRefresh n) ∧ stays (.kvDecayPeriod n)) ∧
    (let pays : Prop := s.Admits 2 n 0 (fun s => ((), s.refreshHeat n p.sweep))
     p.enable = true → (s.tally = none → ¬pays → Completes (.heatRefresh n) s (fun t => t.pool n = p ∧ SameBytes s t)) ∧
     (pays → Completes (.heatRefresh n) s (fun t =>
      let e := s.stallAt n p.sweep
      t.pool n = { p with sweep := (p.sweep + 1) % 2 ^ p.lstalls } ∧ SameBytesBut s t (p.stallPa p.sweep) 32 ∧
      (e.state ≠ 1 → SameBytes s t) ∧
      (e.state = 1 → t.stallAt n p.sweep = { e with
        heat := e.heat / 2 ^ min 16 ((p.period + 256 - e.stamp) % 256)
        stamp := p.period % 256 })))) ∧
    (p.enable = true → p.decay.toNat % 2 ^ 32 = 0 → stays (.kvDecayPeriod n)) ∧
    (p.enable = true → p.decay.toNat % 2 ^ 32 ≠ 0 → Completes (.kvDecayPeriod n) s (fun t =>
      t.pool n = { p with period := (p.period + 1) % 2 ^ 32 } ∧
      ((∀ m < 2 ^ p.lstalls, ((p.period + 1) % 2 ^ 32 + 256 - (s.stallAt n m).stamp) % 256 < 128) → SameBytes s t) ∧
      (near → p.stabBase % 32 = 0 → ∀ m < 2 ^ p.lstalls, let e := s.stallAt n m
        let age := ((p.period + 1) % 2 ^ 32 + 256 - e.stamp) % 256
        (e.state ≠ 1 ∨ age < 128 → t.stallAt n m = e) ∧
        (e.state = 1 → 128 ≤ age → s.portHeld (p.stallPa m) = false → t.stallAt n m = { e with
          heat := e.heat / 2 ^ min 16 age
          stamp := (p.period + 1) % 256 })))) ∧
    Completes (.deferredBlockRelease n) s (fun t =>
      (∀ d ∈ p.defers, s.deferDone n d = false → d ∈ (t.pool n).defers) ∧
      (s.FreeFor p.pen → (t.pool n).defers = p.defers.filter (fun d => !s.deferDone n d)) ∧
      ((∀ d ∈ p.defers, s.deferDone n d = false) → SameBytes s t) ∧ ∀ m ≠ n, t.pool m = s.pool m) ∧
    -- LEND, RETURN, RECALL, RECALL_DEADLINE
    (∀ blocks : List Nat, (∀ b ∈ blocks, b < 2 ^ 52) →
      let room (k : Nat) : Prop := p.stackFree k + blocks.length ≤ p.stackCnt k / 2 ^ 32 ∧
        p.stackBase k + 8 * (p.stackFree k + blocks.length) ≤ 2 ^ 39
      let kept := (entries s 7).filter (fun b => !blocks.contains b)
      let back := (entries s 7).filter (fun b => blocks.contains b)
      (room 7 → Completes (.lendMessage n blocks) s (fun t => entries t 7 = entries s 7 ++ blocks)) ∧
      -- of those named, the blocks that are lent come back, each once
      (let taken := blocks.eraseDups.filter (fun b => p.lent.any (fun l => l.block == b))
       room 0 → Completes (.returnMsg n blocks) s (fun t => entries t 0 = entries s 0 ++ taken.map s.home ∧
        (t.pool n).lent = p.lent.filter (fun l => !blocks.contains l.block))) ∧
      (p.stackBase 7 + 8 * p.stackFree 7 ≤ 2 ^ 39 → ∀ deadline, Completes (.recall n blocks deadline) s (fun t =>
        entries t 7 = kept ∧ t.outbox = s.outbox ++ back.map (fun b => .giveBack (pkgOf b) [b]) ∧
        (t.pool n).recalls = p.recalls ++
          [(s.time + deadline, blocks.filter (fun b => !(entries s 7).contains b && t.recallable n b))]))) ∧
    -- of several RECALLs the one that is due first; its stalls alone are RECALLED
    (∀ r, firstRecall p.recalls = some r → Completes (.recallDeadline n) s (fun t =>
      (t.pool n).recalls = p.recalls.erase r ∧
      (p.moves = [] → near → ∀ m < 2 ^ p.lstalls, let e := s.stallAt n m
        t.stallAt n m = if e.state = 1 ∧ e.tier = 2 ∧ r.2.contains e.block then { e with state := 2 } else e))) ∧
    -- where none has been received, what this package has recalled is its own again
    (p.recalls = [] → (∀ l ∈ p.lent, l.recalled = none) → stays (.recallDeadline n)) ∧
    (∀ d, p.recalls = [] → firstDue p.lent = some d → (p.lent.map Lent.block).Nodup → Completes (.recallDeadline n) s (fun t =>
      (t.pool n).lent = p.lent.filter (fun l => l.recalled ≠ some d))) ∧
    -- the drover refuses to migrate a page that meets a marked table frame (R223)
    (∀ q m die why tier form, s.inTframe (s.stallAt q m).block ((s.pool q).blockBytes (s.stallAt q m).form) = true →
      s.beginMove q m die why tier form = none) ∧
    -- DROVER_PAGE_MOVE
    (s.updating (26 + n) = true → stays (.droverPageMove n)) ∧
    (s.updating (26 + n) = false →
      -- a recall move begins, whatever move has begun and whatever budgets hold
      (s.moveOf n true = none → s.recallDue n = true → s.tally = none → (∀ pa, s.portHeld pa = false) →
        Completes (.droverPageMove n) s (fun t => SameBytes s t ∧ ∃ q m, (q = n ∨ q = n + 4) ∧
          (t.pool q).moves = (s.pool q).moves ++ [m] ∧ m.why = .recall ∧ m.die = n)) ∧
      (∀ back q m, s.moveOf n back = some (q, m) → (back = false → s.moveOf n true = none ∧ s.recallDue n = false) →
        s.tally = none →
        let r := s.tallied.moveStep q m
        let l := r.2.noted
        let x := State.pay 1 n (decide (m.why ≠ .recall)) (l.drop m.paid) m.paid s
        -- a budget holds an access of it, but for a recall move; those made are noted
        (x.1 < l.length → Completes (.droverPageMove n) s (fun t => SameBytes s t ∧
          (t.pool q).moves = (s.pool q).moves.map (fun y => if y = m then { y with paid := x.1 } else y))) ∧
        (l.length ≤ x.1 →
          (m.why = .recall → Completes (.droverPageMove n) s (Charged r.2)) ∧
          (m.why = .pressure → r.1 = true → Completes (.droverPageMove n) s (fun t => SameBytes r.2 t ∧
            (t.pool q).pmoves = min (2 ^ 32 - 1) ((r.2.pool q).pmoves + 1) ∧
            ∀ x ∈ (t.pool q).moves, x.stall ≠ m.stall)) ∧
          (∀ c cid k, m.why = .cmd c cid → r.1 = true → r.2.cmd c cid = some k → Completes (.droverPageMove n) s (fun t =>
            CmdBecomes r.2 t k (fun a b => b.pos = a.pos + 1 ∧ b.stream.pos = a.stream.pos + 1))) ∧
          (∀ task v l, m.why = .near task → r.1 = true → sfind r.2.tasks task = some v → (∃ h g, v.st = .near h g) →
            l = ({ v with
              st := .saved
              relief := false } : Task) →
            Completes (.droverPageMove n) s (fun t => sfind t.tasks task = some l ∧ SameBytes r.2 t)))) ∧
      (s.moveOf n true = none → s.moveOf n false = none → s.recallDue n = false →
        (s.budgetBlocked 1 n = true → Completes (.droverPageMove n) s (fun t => t = s.budgetHold 1 n)) ∧
        (s.budgetBlocked 1 n = false → s.tierCmd n = none → s.pressStep n n = none → s.pressStep (n + 4) n = none →
          Completes (.droverPageMove n) s (OnlyPaid s)))) ∧
    -- KV_NOT_NEAR_SERVICE, for a task that has been saved
    (∀ v h g, sfind s.tasks n = some v → v.st = .near h g →
      (s.droverBusy (v.last / 256) = true ∨ s.updating (26 + v.last / 256) = true ∨ s.recallDue (v.last / 256) = true →
        stays (.kvNotNearService n)) ∧
      (s.droverBusy (v.last / 256) = false → s.updating (26 + v.last / 256) = false → s.recallDue (v.last / 256) = false →
        let pays : Prop := s.Admits 1 (v.last / 256) (sget 0 s.paidBy (164 + v.last / 256)) (fun s => ((), s.nearStep n))
        let r := s.resolve (s.taskPen n) h
        (s.tally = none → ¬pays → Completes (.kvNotNearService n) s (OnlyAsked s)) ∧
        (pays →
        let placeable : Prop := Completes (.kvNotNearService n) s (fun t => SameBytes s t ∧ ∃ w, sfind t.tasks n = some w ∧
          w.st = .saved ∧ w.saved = v.saved)
        (∀ c, r.1 = .error c → placeable) ∧
        (∀ i d, r.1 = .ok (i, d) → (pageStall d.ext g = none → placeable) ∧
          (∀ m, pageStall d.ext g = some m →
            let e := s.stallAt d.pool m
            (e.state ≠ 2 → e.tier ≠ 1 → placeable) ∧
            (e.state = 2 → Completes (.kvNotNearService n) s (fun t => sfind t.tasks n = none)) ∧
            (e.state ≠ 2 → e.tier = 1 → s.stallBusy d.pool m = true → Completes (.kvNotNearService n) s (OnlyAsked s)) ∧
            (e.state ≠ 2 → e.tier = 1 → s.stallBusy d.pool m = false → s.budgetBlocked 1 (v.last / 256) = false →
              s.inTframe e.block ((s.pool d.pool).blockBytes e.form) = false →
              ∀ b u, s.popStack d.pool (if e.form = 0 then 0 else if e.form = 1 then 1 else 2) = some (b, u) → e.form = 0 →
              Completes (.kvNotNearService n) s (fun t => SameBytes s t ∧ (t.pool d.pool).moves =
                (s.pool d.pool).moves ++ [⟨v.last / 256, m, .near n, b, 0, e.form, 0, s.seq, 0⟩]))))))) ∧
    ((∀ v, sfind s.tasks n = some v → (∀ h g, v.st ≠ .near h g) ∧ (∀ c, v.st ≠ .on c)) → stays (.kvNotNearService n)) ∧
    -- GROOM_REQUEST
    (let g := s.groom n
     let i := Instr.groomRequest n
     -- budgets admit the step `f` of a request
     let pays (k : Cmd) (f : State → State) : Prop :=
       s.Admits 0 0 (sget 0 s.paidBy (128 + n)) (fun s => ((), (s.asCmd k (fun s => ((), f s))).2))
     (s.updating (32 + n) = true → stays i) ∧
      (s.updating (32 + n) = false →
        -- the request at the head of the queue, where it has started
        (g.run = none → s.nextSample n = none → stays i) ∧
        (∀ k, g.run = none → s.nextSample n = some k → s.budgetBlocked 5 n = true →
          Completes i s (fun t => t = s.budgetHold 5 n)) ∧
        (∀ k e, g.run = none → s.nextSample n = some k → s.budgetBlocked 5 n = false →
          pays k (fun s => (s.leaveQueue k).startSample n k) → clusterOf k.ctx = n → e ≠ .tableStructure →
          (s.resolve k.pen k.r1.toNat).1 = .error e → Completes i s (fun t => (∀ c ∈ t.cmds, ¬c.same k) ∧
            (t.groom n).run = none ∧ (t.groom n).queue = g.queue.filter (fun x => x != (k.task, k.cid)) ∧
            StatusIs s t k (if k.aborted then 6 * 2 ^ 32 else e.num * 2 ^ 40 + 5 * 2 ^ 32))) ∧
        (∀ r, g.run = some r → r.fail = none → pays r.cmd (fun s => s.runSample n r) → r.phase = .chunk →
          (r.words[r.ix]? = none → Completes i s (fun t => (t.groom n).run = some { r with phase := .merge })) ∧
          (∀ w, r.words[r.ix]? = some w →
            let op := w / 2 ^ 26 % 2 ^ 6
            let v := { s.tallied.forCmd r.cmd with groomNow := n }.budgetCharge 5 n (Config.groomCycles op)
            let u := outState v (runLogit op (logitFields w) v)
            (∀ q, (u.groom n).run = some q → q.fail = none → Completes i s (fun t =>
              (t.groom n).run = some (if op = 0x18 then q else { q with ix := r.ix + 1 }) ∧ SameBytes u t)) ∧
            -- a failure, which waits where another groom's pass on the entry stands to be written
            (∀ q f, (u.groom n).run = some q → q.fail = some f →
              (u.boardTaken n q.board = true → Completes i s (fun t => (t.groom n).run = some q ∧ SameBytes u t)) ∧
              (u.boardTaken n q.board = false → Completes i s (fun t => (t.groom n).run = none ∧
                ∀ c ∈ t.cmds, ¬c.same r.cmd))))) ∧
        (∀ r, g.run = some r → r.fail.isSome → pays r.cmd (fun s => s.runSample n r) →
          (s.boardTaken n r.board = true → Completes i s (fun t => (t.groom n).run = some r ∧ SameBytes s t)) ∧
          (s.boardTaken n r.board = false → Completes i s (fun t => (t.groom n).run = none ∧ ∀ c ∈ t.cmds, ¬c.same r.cmd))) ∧
        (∀ r, g.run = some r → r.fail = none → pays r.cmd (fun s => s.runSample n r) → r.phase = .merge →
          s.boardTaken n r.board = false →
          let b := s.board r.board
          (r.cmd.r2.toNat % 2 ^ 32 ≠ b.witer ∨ b.failed = true → Completes i s (fun t => (t.groom n).run = none ∧
            SameBytes s t ∧ Retired s t r.cmd 0 false 4 0))) ∧
        -- a completion pass whose writes are all acknowledged writes its entry, iter last
        (∀ r, g.run = some r → r.fail = none → pays r.cmd (fun s => s.runSample n r) → r.phase = .release →
          s.sending r.cmd = false →
          let b := r.entry.getD (s.board r.board)
          Completes i s (fun t => (t.groom n).run = none ∧ (∀ c ∈ t.cmds, ¬c.same r.cmd) ∧
            SameBytes (s.setBoard r.cmd r.board { b with iter := b.witer }) t))))

/-! ### The I/O die: budgets, HBM, links, registers, firmware, mailboxes -/

/-- R235, R394 to R399, R403, R404, R408 to R410, R423: period boundaries, refresh management, flits, inbound
requests, uncorrectable errors and register writes. A boundary empties the charge; a due row closes and holds its
bank, which serves what has waited when its hold ends; a flit with a wrong length, crc or number is dropped and asked
for, one for another package goes on, an acknowledgement retires what it completes; a downed link's flits go to its
sibling, and a link whose controller is updated takes none; a request is served by the first window that lets it in,
waits for the budget of its pen, or is answered `PERMISSION`; bad data gives `MACHINE_CHECK` at what consumes it, or
rolls a controller back; a direct write reaches only what takes one. The model's choices here: assumption log 9, 11,
60, 61, 62, 84, 98. -/
def Obligations.IoEvents : Prop :=
  ∀ (s : State),
    let stays (i : Instr) : Prop := Completes i s (fun t => t = s)
    -- budgets and HBM
    (∀ n, let b := s.budget n
      Completes (.budgetPeriodBoundary n) s (fun t => t = { s with budgets := t.budgets } ∧ ∀ k, t.budget k = if k = n then { b with
          used := 0
          heldNow := false
          sel := b.nextSel
          period := b.nextPeriod
          amount := b.nextAmount }
        else s.budget k)) ∧
    (∀ stack bank row, let key := stack * 2 ^ 16 + bank
      let b := sget Bank.reset s.banks key
      let becomes (i : Instr) (P : Bank → Prop) : Prop := Completes i s (fun t => t = { s with banks := t.banks } ∧
        (∀ k ≠ key, sget Bank.reset t.banks k = sget Bank.reset s.banks k) ∧ P (sget Bank.reset t.banks key))
      let zeroed (c : List (Nat × Nat)) : Prop := ∀ r, sget 0 c r = if r = row then 0 else sget 0 b.counts r
      (row ∉ b.due ∨ b.hold = true → stays (.rfmIssue stack bank row)) ∧
      (row ∈ b.due → b.hold = false → becomes (.rfmIssue stack bank row) (fun c => c.hold = true ∧ zeroed c.counts ∧
        c.due = b.due.erase row ∧ c.row = if b.row = some row then none else b.row)) ∧
      -- a bank whose hold ends serves what has waited, in order
      (b.queue = [] → Completes (.rfmHoldEnd stack bank) s (fun t => t = { s with
          banks := t.banks
          rfms := t.rfms } ∧ (∀ k ≠ key, sget Bank.reset t.banks k = sget Bank.reset s.banks k) ∧
        sget Bank.reset t.banks key = { b with hold := false } ∧ (t.rfm stack).thr = (s.rfm stack).thr ∧
        (t.rfm stack).alerts = min (s.rfm stack).alerts (2 ^ 32 - 1) ∧ ∀ k ≠ stack, t.rfm k = s.rfm k)) ∧
      (∀ r, b.queue = [r] → b.row = none → Completes (.rfmHoldEnd stack bank) s (fun t =>
        let c := sget Bank.reset t.banks key
        let thr := (s.rfm stack).thr
        let m := sget 0 b.counts r + 1
        c.row = some r ∧ c.hold = false ∧ c.queue = [] ∧ sget 0 c.counts r = (if thr ≤ m then 0 else m) ∧
        c.due = b.due ++ (if thr ≤ m then [r] else []) ∧
        (t.rfm stack).alerts = (if thr ≤ m then min ((s.rfm stack).alerts + 1) (2 ^ 32 - 1)
          else min (s.rfm stack).alerts (2 ^ 32 - 1)) ∧ (t.rfm stack).thr = thr)) ∧
      becomes (.periodicRefresh stack bank row) (fun c => zeroed c.counts ∧ c = { b with counts := c.counts })) ∧
    -- flits
    (∀ n (f : List Byte), let l := s.link n
      let h := ofBytes (f.take 8)
      let good : Prop := f.length = 256 ∧ ofBytes ((f.drop 248).take 4) = crc32c (f.take 248) ∧ h % 2 ^ 16 = l.rxSeq
      let kind := h / 2 ^ 28 % 2 ^ 4
      let cls := h / 2 ^ 24 % 2 ^ 4
      let becomes (i : Instr) (P : Link → Prop) : Prop := Completes i s (fun t => t = { s with links := t.links } ∧
        (∀ k ≠ n, t.link k = s.link k) ∧ P (t.link n))
      (l.up = false ∨ s.updating (2 + n) = true → stays (.flitReceived n f)) ∧
      (l.up = true → s.updating (2 + n) = false →
        (¬good → becomes (.flitReceived n f) (fun m => m = { l with
          asked := some l.rxSeq
          askSent := false })) ∧
        (good → 3 ≤ kind ∨ 5 ≤ cls → becomes (.flitReceived n f) (fun m => m = { l with
          rxSeq := (l.rxSeq + 1) % 2 ^ 16
          asked := none
          askSent := false })) ∧
        (good → kind ≤ 2 → cls < 5 →
          let ack := h / 2 ^ 48 % 2 ^ 16
          let payload := (f.drop 8).take 240
          let dst := (Config.flitDst payload).toNat
          let i := Instr.flitReceived n f
          Completes i s (fun t => let m := t.link n
            (∀ k ≠ n, t.link k = s.link k) ∧ ((∀ x ∈ l.replay, x.msg.bind Outbound.tag = none) → t = { s with
              links := t.links
              outbox := t.outbox }) ∧
            -- a payload for another package goes on
            t.outbox = s.outbox ++ (if kind = 0 ∧ cls < 4 ∧ dst ≠ s.pkg then [.transit cls dst (n / 2 ^^^ 1) payload] else []) ∧
            m.rxSeq = (l.rxSeq + 1) % 2 ^ 16 ∧ m.asked = none ∧ m.askSent = false ∧ m.txSeq = l.txSeq ∧ m.up = true ∧
            (∀ c, sget 0 m.credits c = sget 0 l.credits c + (if c = h / 2 ^ 44 % 2 ^ 4 then h / 2 ^ 32 % 2 ^ 12 else 0)) ∧
            (∀ c, sget 0 m.owed c = sget 0 l.owed c + (if kind = 0 ∧ cls < 4 ∧ c = cls then 1 else 0)) ∧
            (kind ≠ 2 → ∀ pre x post, l.replay = pre ++ x :: post → x.seq = ack → (∀ y ∈ pre, y.seq ≠ ack) →
              m.replay = post ∧ m.tries = 0) ∧
            -- a replay request names the flit after the last one taken
            (kind = 2 → (∀ y ∈ l.replay, y.seq ≠ ack) → ∀ x post, l.replay = x :: post → x.seq = (ack + 1) % 2 ^ 16 →
              m.replay = l.replay ∧ m.resend = l.replay.map Flit.data ∧ m.tries = l.tries + 1)) ∧
          -- the last flit of a send of a command, acknowledged by the receiving package or by one on its way (R407)
          (∀ x c y, kind ≠ 2 → l.replay = [x] → x.seq = ack → x.msg.bind Outbound.tag = some c →
            s.sents.find? (fun z => z.task == c.1 && z.cid == c.2.1) = some y →
            (c.2.2 ≠ some (neighbour s.pkg (n / 2)) → Completes i s (fun t => t.cmds = s.cmds ∧
              t.sents = s.sents.map (fun z => if z.task = y.task ∧ z.cid = y.cid then { z with linked := z.linked + 1 } else z))) ∧
            (∀ k, c.2.2 = some (neighbour s.pkg (n / 2)) → y.left = 1 → s.sentCmd y = some k → k.concluded = true →
              (∀ z ∈ s.sents, z ≠ y → ¬(z.task = y.task ∧ z.cid = y.cid)) → Completes i s (fun t => ∀ d ∈ t.cmds, ¬d.same k))))) ∧
      (∀ seq, (∀ x ∈ l.replay, x.seq ≠ seq) → becomes (.replayRequest n seq) (fun m => m = l)) ∧
      (∀ seq, s.updating (2 + n) = true → stays (.replayRequest n seq)) ∧
      (∀ seq pre x post, s.updating (2 + n) = false → l.replay = pre ++ x :: post → x.seq = seq → (∀ y ∈ pre, y.seq ≠ seq) →
        Completes (.replayRequest n seq) s (fun t => t.link n = { l with
            replay := x :: post
            resend := (x :: post).map Flit.data
            tries := if pre = [] then l.tries + 1 else 1 } ∧
          (∀ k ≠ n, t.link k = s.link k) ∧ ((∀ y ∈ pre, y.msg.bind Outbound.tag = none) → t = { s with links := t.links }))) ∧
      -- after 16 failed replays of one flit, which its seventeenth request shows
      (l.up = false ∨ l.tries ≤ 16 → stays (.linkDown n)) ∧
      (l.up = true → 16 < l.tries →
        let left := l.replay.filterMap Flit.msg ++ l.moved
        let sib := s.link (n ^^^ 1)
        Completes (.linkDown n) s (fun t => (t.link n).up = false ∧ (t.link n).replay = [] ∧ (t.link n).moved = [] ∧
          (∀ k, k ≠ n → k ≠ n ^^^ 1 → t.link k = s.link k) ∧
          (sib.up = true → t.link (n ^^^ 1) = { sib with moved := sib.moved ++ left } ∧ t = { s with links := t.links }) ∧
          (sib.up = false → t.link (n ^^^ 1) = sib ∧ t = { s with
            links := t.links
            outbox := left ++ s.outbox })))) ∧
    -- inbound requests
    (∀ rq : Inbound,
      let out (v code : Nat) : List Outbound := if rq.host then s.outbox else s.outbox ++ [.response rq.src v code]
      let i := Instr.inboundRequest rq
      let own : Prop := rq.host = true ∧ (tierOf rq.pa = some 3 ∨ tierOf rq.pa = some 1)
      -- what the host writes in its own memory, and another host in far memory
      (own → (∀ l, rq.kind = .write l → rq.pa + l.length ≤ 2 ^ 52 → (∀ j ≤ l.length, s.home (rq.pa + j) = rq.pa + j) →
          Completes i s (fun t => SameBytesBut s t rq.pa l.length ∧ t.outbox = s.outbox ∧
            ∀ j < l.length, t.physRead (rq.pa + j) 1 = (l.getD j 0).toNat)) ∧
        ((∀ l, rq.kind ≠ .write l) → stays i)) ∧
      (¬own → (∀ k < 16, (s.ioWin k).admits rq = false) → Completes i s (fun t => t = { s with outbox := out 0 0x21 })) ∧
      (¬own → ∀ k < 16, (s.ioWin k).admits rq = true → (∀ j < k, (s.ioWin j).admits rq = false) →
        let pen := (s.ioWin k).map.toNat / 2 ^ 55 % 2 ^ 6
        let before : Prop := ∃ q ∈ s.inq, s.admitted q = some pen
        -- it waits behind those of its pen, and where a budget of the pen holds it
        (before → Completes i s (fun t => t = { s with inq := s.inq ++ [rq] })) ∧
        let v : State := { s with inq := s.inq ++ [rq] }
        let pays : Prop := v.Admits 0 0 (sget 0 s.paidBy pen) (fun s =>
          ((), ({ s with inq := s.inq.erase rq }).serve pen rq))
        (¬before → s.tally = none → ¬pays → Completes i s (OnlyAsked v)) ∧
        (¬before → pays →
          (∀ n, rq.kind = .read n → Completes i s (fun t => SameBytes s t ∧ t.outbox = out (s.physRead rq.pa n) 0)) ∧
          (∀ l, rq.kind = .write l → Completes i s (fun t => SameBytesBut s t rq.pa l.length ∧ t.outbox = out 0 0 ∧
            ∀ j < l.length, t.physRead (rq.pa + j) 1 = (l.getD j 0).toNat)) ∧
          (∀ op n a r, rq.kind = .atomic op n a r → Completes i s (fun t => SameBytesBut s t rq.pa n ∧
            t.outbox = out (s.physRead rq.pa n) 0 ∧ t.physRead rq.pa n = atomFn op n (s.physRead rq.pa n) a % 256 ^ n)) ∧
          (∀ n cmp new, rq.kind = .cas n cmp new → Completes i s (fun t => SameBytesBut s t rq.pa n ∧
            t.outbox = out (s.physRead rq.pa n) 0 ∧ t.physRead rq.pa n =
              if s.physRead rq.pa n = cmp % 2 ^ (8 * n) then new % 256 ^ n else s.physRead rq.pa n))))) ∧
    -- uncorrectable errors
    (∀ (n pa : Nat), let c := s.ctx n
      (c.st ≠ .ready → stays (.uncorrectableError (.context n) pa)) ∧
      (c.st = .ready → ∀ k, sfind s.tasks c.task = some k → k.st = .on n → k.gang = 0 →
        Completes (.uncorrectableError (.context n) pa) s (fun t => sfind t.tasks c.task = none ∧ (t.ctx n).st = .idle ∧
          t.issue = s.issue)) ∧
      -- a command that runs; a groom's request, which ends at the groom's next step; an inbound request
      (∀ cid k, s.cmd n (BitVec.ofNat 16 cid) = some k →
        let i := Instr.uncorrectableError (.command n cid) pa
        let hits : Prop := k.st = .running ∧ k.kind ≠ .smpost ∧ k.fail = none
        let later : Prop := k.kind = .kv 8 ∨ k.kind = .hctld
        (¬hits → stays i) ∧
        (hits → later → Completes i s (fun t => t.seq = s.seq + 1 ∧ ∃ d ∈ t.cmds, d.same k ∧
          d.fail.map FailAt.code = some 0x70)) ∧
        (hits → ¬later → (∀ op, k.kind ≠ .tier op) →
          Completes i s (EndsFailed (s.logEvent .machineCheck n k.pen [pa]) · k ⟨0x70, pa, 0, 0⟩ false false 0)) ∧
        (hits → (∃ op, k.kind = .tier op) → Completes i s (fun t => ∀ d ∈ t.cmds, ¬d.same k))) ∧
      (∀ r, (s.groom n).run = some r →
        (r.fail.isSome → stays (.uncorrectableError (.groom n) pa)) ∧
        (r.fail = none → Completes (.uncorrectableError (.groom n) pa) s (fun t => t.seq = s.seq + 1 ∧ t.cmds = s.cmds ∧
          ∀ k, t.groom k = if k = n then { s.groom n with
            run := some { r with fail := some (.machineCheck, r.prog + 4 * r.ix) } } else s.groom k))) ∧
      (∀ rq : Inbound, rq.host = false → Completes (.uncorrectableError (.inbound rq) pa) s (fun t => t.outbox = s.outbox ++
        [.response rq.src 0 (if (List.range 16).any (fun k => (s.ioWin k).admits rq) then 0x70 else 0x21)])) ∧
      (fwIndex n = false ∨ (s.fw n).state = 5 → stays (.uncorrectableError (.controller n) pa)) ∧
      (fwIndex n = true → (s.fw n).state ≠ 5 → Completes (.uncorrectableError (.controller n) pa) s (fun t =>
        t.fw n = { s.fw n with
          heldWrites := []
          heldMsgs := []
          fail := true
          state := 4
          asked := false } ∧ t.seq = s.seq + 2 ∧ ∀ k ≠ n, t.fw k = s.fw k))) ∧
    -- register writes
    (∀ (pen off : Nat) (v : Word), let i := Instr.registerWrite pen off v
      let p := s.pen pen
      let sets (q : Pen) : Prop := Completes i s (fun t => t = { s with pens := t.pens } ∧
        ∀ k, t.pen k = if k = pen then q else s.pen k)
      (off % 8 ≠ 0 → stays i) ∧
      (pen < 64 →
        (2 ^ 16 ≤ off → off % 8 = 0 → stays i) ∧
        -- an update of the management controller holds the registers of R225
        (s.updating 0 = true → off < 0x30 → off % 8 = 0 → Completes i s (fun t =>
          t = { s with penQ := s.penQ ++ [(pen, off, v)] })) ∧
        (s.updating 0 = false → off < 0x30 → off % 8 = 0 → Completes i s (fun t => t.penQ = [])) ∧
        (s.updating 0 = false → s.penQ = [] →
          (off = 0x00 → sets { p with root := v &&& 0xFFFFFFFFFC001 }) ∧
          (off = 0x08 → sets { p with fqBase := v &&& 0xFFFFFFFFFFF80 }) ∧
          (off = 0x10 → sets { p with fqCtl := v &&& 0x1F }) ∧ (off = 0x18 → sets { p with fqHead := v.setWidth 32 }) ∧
          (off = 0x20 → sets p) ∧ (off = 0x28 → sets { p with fqLost := v.setWidth 32 })) ∧
        (off = 0x40 → sets { p with kvsBase := v &&& 0xFFFFFFFFFF000 }) ∧ (off = 0x48 → sets { p with kvsLsize := v &&& 0x1F }) ∧
        (off = 0x50 → sets { p with tbBase := v &&& 0xFFFFFFFFFFFC0 }) ∧ (off = 0x58 → sets { p with tbLsize := v &&& 0x1F }) ∧
        (off = 0x60 → sets { p with svBase := v &&& 0xFFFFFFFFFF000 }) ∧ (off = 0x68 → sets { p with svCtl := v &&& 0xFFFFFFFF }) ∧
        -- what the driver reads there
        (off = 0x00 → s.penRead pen off = p.root) ∧ (off = 0x08 → s.penRead pen off = p.fqBase) ∧
        (off = 0x10 → s.penRead pen off = p.fqCtl) ∧ (off = 0x18 → s.penRead pen off = p.fqHead.setWidth 64) ∧
        (off = 0x20 → s.penRead pen off = p.fqTail.setWidth 64) ∧ (off = 0x28 → s.penRead pen off = p.fqLost.setWidth 64) ∧
        (off = 0x40 → s.penRead pen off = p.kvsBase) ∧ (off = 0x48 → s.penRead pen off = p.kvsLsize) ∧
        (off = 0x50 → s.penRead pen off = p.tbBase) ∧ (off = 0x58 → s.penRead pen off = p.tbLsize) ∧
        (off = 0x60 → s.penRead pen off = p.svBase) ∧ (off = 0x68 → s.penRead pen off = p.svCtl) ∧
        (off % 8 ≠ 0 ∨ 0x3000 ≤ off → s.penRead pen off = 0) ∧
        (∀ k < 64, off = 0x8000 + 8 * k → ∀ t, exec (.notify pen k v) s = .next t → Completes i s (fun u => u = t))) ∧
      (64 ≤ pen → off % 8 = 0 →
        (off = 0x6010 → Completes i s (fun t => t = { s with evl := { s.evl with head := v.setWidth 32 } })) ∧
        (off = 0x1000 → (s.mbx 0).busy = true → Completes i s (fun t => (∀ k, t.mbx k = s.mbx k) ∧ t = { s with mbxs := t.mbxs })) ∧
        (off = 0x1000 → (s.mbx 0).busy = false → v.toNat % 2 ^ 16 ∈ mbxOps → Completes i s (fun t =>
          t.mbx 0 = { s.mbx 0 with
            cmd := v.setWidth 16
            busy := true } ∧ t = { s with mbxs := t.mbxs })) ∧
        (∀ k < 8, off = 0x1010 + 8 * k → Completes i s (fun t => (t.mbx 0).arg k = v.toNat ∧ t = { s with mbxs := t.mbxs })) ∧
        (off < 0x1000 ∨ (0x3000 ≤ off ∧ off ≠ 0x6010) → stays i)))

/-- R290, R292, R411 to R424: bring-up, live update and the mailbox commands. A cold reset resets every register and
boots each instance from the first slot that is accepted, or ends in the safe state; a controller updates at its
boundary through a sealed record and is undone by the watchdog; a mailbox command runs in its turn, leaves its status
and clears busy. The model's choices here: assumption log 8, 20, 83, 85, 101. -/
def Obligations.FirmwareAndMailboxes : Prop :=
  ∀ (s : State),
    let stays (i : Instr) : Prop := Completes i s (fun t => t = s)
    -- bring-up, live update
    ((s.fws.map Prod.fst).Nodup → ∀ ok : Bool,
      let runs (n : Nat) : Prop := fwAccepts n 0 (s.fw n).slotA = true ∨ fwAccepts n 0 (s.fw n).slotB = true
      let all : Prop := ∀ n, fwIndex n = true → runs n
      Completes (.coldReset ok) s (fun t =>
        (∀ n, t.ctx n = Ctx.idle) ∧ (∀ n, t.pen n = Pen.reset) ∧ (∀ n, t.pool n = Pool.reset) ∧ t.cmds = [] ∧ t.tasks = [] ∧
        t.jobs = [] ∧ t.tframes = [] ∧ t.pkg = Config.package.toNat ∧ t.leaf = s.leaf ∧
        (∀ k < 12, (t.link k).up = true ∧ ∀ c < 4, sget 0 (t.link k).owed c = (Config.linkCredits c).toNat + 1) ∧
        (ok = true ∧ all → t.booted = true ∧ t.safe = false ∧ t.evl.held.length = 5) ∧
        (ok = false ∨ ¬all → t.booted = false ∧ t.safe = true ∧ t.evl.held.length = 4) ∧
        ∀ n, fwIndex n = true → (t.fw n).slotA = (s.fw n).slotA ∧ (t.fw n).slotB = (s.fw n).slotB ∧ (t.fw n).state = 0 ∧
          (t.fw n).vera = (if (s.fw n).slotA = [] then 0 else imageVersion (s.fw n).slotA) ∧
          (t.fw n).verb = (if (s.fw n).slotB = [] then 0 else imageVersion (s.fw n).slotB) ∧
          (runs n → (t.fw n).active = !fwAccepts n 0 (s.fw n).slotA))) ∧
    -- an image is accepted only with its magic, its kind, and a version that is not below the minimum (R412)
    (∀ n v img, fwAccepts n v img = true → imageField img 0 4 = 0x4F535058 ∧
      imageField img 1 ((Config.imageSize 1).toNat + 1) = fwKind n ∧ v ≤ imageVersion img) ∧
    (∀ n, let f := s.fw n
      let sets (i : Instr) (g : Fw) : Prop := Completes i s (fun t => (∀ k, t.fw k = if k = n then g else s.fw k) ∧
        t = { s with fws := t.fws } ∧ SameBytes s t)
      (∀ r, (f.state ≠ 1 ∨ f.asked = false ∨ s.atBoundary n = false) → stays (.updateBoundary n r)) ∧
      (∀ r, f.state = 1 → f.asked = true → s.atBoundary n = true →
        (f.hoaSize < 32 + r.length → Completes (.updateBoundary n r) s (fun t => t.seq = s.seq + 1 ∧ t.fw n = { f with
          state := 0
          asked := false })) ∧
        (32 + r.length ≤ f.hoaSize → n = 0 → s.budgetBlocked 6 0 = true → Completes (.updateBoundary n r) s (fun t =>
          t = s.budgetHold 6 0)) ∧
        (32 + r.length ≤ f.hoaSize → (n ≠ 0 ∨ s.budgetBlocked 6 0 = false) → Completes (.updateBoundary n r) s (fun t => t.seq = s.seq + 1 ∧ (t.fw n = { f with
            state := 2
            asked := false
            heldWrites := []
            heldMsgs := [] }) ∧
          SameBytesBut s t f.hoaBase (32 + r.length) ∧ t.physRead f.hoaBase 4 = 0x4F564852 ∧
          t.physRead (f.hoaBase + 24) 8 = 0x5345414C45440001))) ∧
      -- hardware starts the new image, and what that writes and sends is held (R418 steps 3 and 4)
      (f.state = 2 → (s.imageStep n).fw n = { f with state := 3 } ∧ SameBytes s (s.imageStep n)) ∧
      (f.state = 3 → (s.imageStep n).outbox = s.outbox ∧ SameBytes s (s.imageStep n) ∧
        (2 ^ 20 < f.heldBytes + 16 → s.imageStep n = s)) ∧
      -- a record that is not sealed, or whose crc is wrong, is not known (R417)
      (let l := s.sealedRecord f
       let known := recordGood (fwKind n) f.incoming l
       let stalls : Prop := 2 ^ 20 < f.heldBytes + 16
       (known = true → ofBytes (l.take 4) = 0x4F564852 ∧ ofBytes ((l.drop 0x14).take 4) = crc32c (l.drop 32)) ∧
       ∀ v, (f.state = 3 → (stalls ∨ known = false) → stays (.alivePost n v)) ∧
        (f.state = 3 → ¬stalls → known = true → Completes (.alivePost n v) s (fun t => t.outbox = s.outbox ++ f.heldMsgs ∧
          (f.heldWrites = [] → SameBytes s t) ∧ t.fw n = { f with
            alive := v % 2 ^ 16
            heldWrites := []
            heldMsgs := []
            active := !f.active
            state := 0 })) ∧
        (f.state ≠ 3 → sets (.alivePost n v) { f with
          alive := v % 2 ^ 16
          state := if f.state = 4 then 0 else f.state })) ∧
      (f.state ≠ 3 → f.state ≠ 4 → stays (.watchdogExpiry n)) ∧
      (f.state = 3 → Completes (.watchdogExpiry n) s (fun t => t.seq = s.seq + 1 ∧ t.fw n = { f with
        heldWrites := []
        heldMsgs := []
        fail := true
        state := 4
        asked := false })) ∧
      (f.state = 4 → n ≠ 0 → sets (.watchdogExpiry n) { f with state := 5 }) ∧
      (f.state = 4 → n = 0 → Completes (.watchdogExpiry n) s (fun t => t.safe = true ∧ t.booted = false ∧
        (t.fw n).state = 5))) ∧
    -- mailbox commands
    (∀ n, let m := s.mbx n
      let a (k : Nat) : Nat := m.arg k
      let sys : Prop := n = 0
      let turn (op : Nat) : Prop := m.busy = true ∧ m.cmd.toNat = op ∧ s.served = some n ∧ (s.safe = true ∨ s.updating 0 = false)
      let serves (op : Nat) : Prop := turn op ∧ s.budgetBlocked 6 0 = false
      -- one access of management traffic
      let paid := s.budgetCharge 6 0 1
      let ends (i : Instr) (st : Nat) (P : State → Prop) : Prop := Completes i s (fun t => (t.mbx n).busy = false ∧
        (t.mbx n).status.toNat = st ∧ t.mbxNext = (n + 1) % 65 ∧ P t)
      let tells (i : Instr) (st : Nat) : Prop := ends i st (fun t => ∃ c, t = { s.budgetCharge 6 0 c with
        mbxs := t.mbxs
        mbxNext := t.mbxNext })
      let pen := n - 1
      let mine : Prop := (s.pen pen).tfFirst ≤ a 0 ∧ a 0 + a 1 ≤ (s.pen pen).tfFirst + (s.pen pen).tfCount
      let f := s.fw (a 0)
      (∀ p ∈ [(Instr.regRead n, 0x01), (.regWrite n, 0x02), (.imageLoad n, 0x10), (.imageVerify n, 0x11), (.update n, 0x12),
          (.tfrange n, 0x20), (.tframeSet n, 0x21), (.tframeClear n, 0x22), (.quote n, 0x30), (.queueCreate n, 0x40),
          (.queueDestroy n, 0x41), (.queueQuota n, 0x42), (.spillSet n, 0x50)],
        (¬turn p.2 → stays p.1) ∧ (turn p.2 → s.budgetBlocked 6 0 = true → Completes p.1 s (fun t => t = s.budgetHold 6 0))) ∧
      (serves 0x01 → let bad : Prop := a 0 % 8 ≠ 0 ∨ 2 ^ 22 ≤ a 0
        (bad → tells (.regRead n) 2) ∧ (¬bad → s.ownPool n (a 0) = false → tells (.regRead n) 1) ∧
        (¬bad → s.ownPool n (a 0) = true → ends (.regRead n) 0 (fun t => sget 0 (t.mbx n).args 0 = paid.mgtRead (a 0) ∧
          t = { paid with
            mbxs := t.mbxs
            mbxNext := t.mbxNext }))) ∧
      (serves 0x02 → let bad : Prop := a 0 % 8 ≠ 0 ∨ 2 ^ 22 ≤ a 0
        (bad → tells (.regWrite n) 2) ∧ (¬bad → s.ownPool n (a 0) = false → tells (.regWrite n) 1) ∧
        (¬bad → s.ownPool n (a 0) = true → (sys ∨ a 0 % 256 ≠ 0) → ¬(0x1000 ≤ a 0 ∧ a 0 < 0x3000) →
          ends (.regWrite n) 0 (fun t => t = { paid.mgtWrite (a 0) (BitVec.ofNat 64 (a 1)) with
            mbxs := t.mbxs
            mbxNext := t.mbxNext }))) ∧
      (serves 0x10 → let bad : Prop := fwIndex (a 0) = false ∨ a 2 = 0 ∨ 4096 < a 2
        (¬sys → tells (.imageLoad n) 1) ∧ (sys → bad → tells (.imageLoad n) 2) ∧
        (sys → ¬bad → f.state ≠ 0 → tells (.imageLoad n) 3) ∧
        (sys → ¬bad → f.state = 0 → a 1 + a 2 ≤ 2 ^ 64 → ends (.imageLoad n) 0 (fun t =>
          (∀ j < a 2, sget (0 : Byte) (t.fw (a 0)).idleSlot (a 1 + j) = sget (0 : Byte) m.data j) ∧
          (t.fw (a 0)).active = f.active ∧ (if f.active then (t.fw (a 0)).slotB = f.slotB
            else (t.fw (a 0)).slotA = f.slotA) ∧
          (let img := (t.fw (a 0)).idleSlot
           (if f.active then (t.fw (a 0)).vera else (t.fw (a 0)).verb) = if img = [] then 0 else imageVersion img) ∧ ∀ k ≠ a 0, t.fw k = s.fw k))) ∧
      (serves 0x11 → (¬sys → tells (.imageVerify n) 1) ∧ (sys → fwIndex (a 0) = false → tells (.imageVerify n) 2) ∧
        (sys → fwIndex (a 0) = true → f.state ≠ 0 → tells (.imageVerify n) 3) ∧
        (sys → fwIndex (a 0) = true → f.state = 0 → let ok := fwAccepts (a 0) f.minver f.idleSlot
          (ok = false → tells (.imageVerify n) 4) ∧
          (ok = true → ends (.imageVerify n) 0 (fun t => t.fw (a 0) = { f with state := 1 } ∧
            ∀ k ≠ a 0, t.fw k = s.fw k)))) ∧
      (serves 0x12 → let busy : Prop := f.state ≠ 1 ∨ f.asked = true ∨ ∃ k ∈ s.fws, k.1 ≠ a 0 ∧ k.2.state ≠ 0
        (¬sys → tells (.update n) 1) ∧ (sys → fwIndex (a 0) = false → tells (.update n) 2) ∧
        (sys → fwIndex (a 0) = true → busy → tells (.update n) 3) ∧
        (sys → fwIndex (a 0) = true → ¬busy → ends (.update n) 0 (fun t => t.fw (a 0) = { f with asked := true }))) ∧
      (serves 0x20 → let bad : Prop := 64 ≤ a 0 ∨ 2 ^ 23 < a 1 + a 2
        (¬sys → tells (.tfrange n) 1) ∧ (sys → bad → tells (.tfrange n) 2) ∧
        (sys → ¬bad → ends (.tfrange n) 0 (fun t => t.pen (a 0) = { s.pen (a 0) with
          tfFirst := a 1
          tfCount := a 2 }))) ∧
      (serves 0x21 → (sys ∨ ¬mine → tells (.tframeSet n) 1) ∧ (¬sys → mine → ends (.tframeSet n) 0 (fun t =>
        ∀ k, k ∈ t.tframes ↔ k ∈ s.tframes ∨ (a 0 ≤ k ∧ k < a 0 + a 1)))) ∧
      (serves 0x22 → (sys ∨ ¬mine → tells (.tframeClear n) 1) ∧ (¬sys → mine → ends (.tframeClear n) 0 (fun t =>
        ∀ k, k ∈ t.tframes ↔ k ∈ s.tframes ∧ ¬(a 0 ≤ k ∧ k < a 0 + a 1)))) ∧
      (serves 0x30 → (2 ^ 20 ≤ s.leaf → tells (.quote n) 5) ∧ (s.leaf < 2 ^ 20 → ends (.quote n) 0 (fun t =>
        t.leaf = s.leaf + 1 ∧ t.seq = s.seq + 1 ∧ ∀ j < min Config.quoteLen 4096,
          sget (0 : Byte) (t.mbx n).data j = Config.quoteByte (s.quoteReport m) s.leaf j))) ∧
      (serves 0x40 → let bad : Prop := 2 ^ 32 ≤ a 0 ∨ a 1 % 64 ≠ 0 ∨ s.userQ (a 0) ≠ none
        (sys → tells (.queueCreate n) 1) ∧ (¬sys → bad → tells (.queueCreate n) 2) ∧
        (¬sys → ¬bad → ends (.queueCreate n) 0 (fun t => t.userQ (a 0) = some ⟨a 0, pen, a 1 % 2 ^ 60, none⟩ ∧
          ∀ q ∈ s.userQs, q ∈ t.userQs))) ∧
      (serves 0x41 → (sys → tells (.queueDestroy n) 1) ∧ (¬sys → s.userQ (a 0) = none → tells (.queueDestroy n) 2) ∧
        (∀ q, ¬sys → s.userQ (a 0) = some q → (q.pen ≠ pen → tells (.queueDestroy n) 1) ∧
          (q.pen = pen → ends (.queueDestroy n) 0 (fun t => t.userQ (a 0) = none ∧
            ∀ k, q.slot = some k → sfind t.uqSlots k = none)))) ∧
      (serves 0x42 → let bad : Prop := 64 ≤ a 0 ∨ 128 < a 1
        (¬sys → tells (.queueQuota n) 1) ∧ (sys → bad → tells (.queueQuota n) 2) ∧
        (sys → ¬bad → ends (.queueQuota n) 0 (fun t => t.pen (a 0) = { s.pen (a 0) with uqQuota := a 1 }))) ∧
      (serves 0x50 → let good : Prop := (a 0 = 0 ∧ a 1 < 32) ∨ (a 0 = 1 ∧ a 1 < 132)
        (¬sys → tells (.spillSet n) 1) ∧ (sys → ¬good → tells (.spillSet n) 2) ∧
        (sys → good → ends (.spillSet n) 0 (fun t =>
          sget Spill.reset t.spills (if a 0 = 0 then 256 + a 1 else a 1) = spillOf (cellsRead m.data 12 0 32)))))

/-! ### Guards, steps, decoding and reset -/

/-- R8, R24: a syllable whose guard is false has no effect, whatever its operands, but for a `.gpair` compare (R130).
-/
def Obligations.FalseGuard : Prop :=
  ∀ (i : Instr) (s : State) (g : BitVec 4), guardOf i = some g → s.pre.p g = false →
    (∀ o, i = .cmp o ∨ i = .cmpi o ∨ i = .fcmp o → o.ct ≠ 1) → (∀ o, i = .tbit o → o.ct ≠ 1) →
    exec i s = .next s

/-- What a step does with what is planned (assumption log 3). A step of the opcode table runs its meaning; what stands
in the plan runs in its order, but for inbound requests that stand together, none of which is lost (R406; assumption
log 84). A cycle of a cluster in which one context issues runs the bundle at its pc (R8, R22, R31 to R33, R39, R98,
R99, R106, R118, R222, R231): a page that cannot be fetched and a bundle that does not decode fault; the slots of a
decoded one run their meanings in the order of the slots, after a closing instruction has released the region, and
what stops the task runs after the pc has moved on; a fault of the one slot that acts leaves none of its effects, and
the region that it would have closed stands. All of it once budgets admit the HBM requests of the bundle, which
otherwise notes how many they have admitted (R396). The model's choices here: assumption log 24, 91. -/
def Obligations.StepRunsDecoded : Prop :=
  (∀ (m : Move) (r : List Move), inboundSource m = none → inOrder (m :: r) = m :: r) ∧
  (∀ l : List Move, (inOrder l).Perm l) ∧
  (∀ (s : State) (i : Instr) (r : List Move), inOrder s.plan = .event i :: r →
    -- held in reset or in the safe state, the part takes steps of the management plane alone (R413, R414)
    let taken : Prop := encode i = none ∧ i.WellFormed = true ∧
      ((s.booted = true ∧ s.safe = false) ∨ managementStep i = true)
    (taken → step s = exec i { s with plan := r }) ∧ (¬taken → step s = .next { s with plan := r })) ∧
  -- an error of one bit is corrected and counted (R410)
  (∀ (s : State) (r : List Move), inOrder s.plan = .correct :: r → step s = .next { s with
    plan := r
    corrected := s.corrected + 1 }) ∧
  (∀ (s : State) (ctx : Nat) (r : List Move), s.plan = .cycle (ctx / 32) :: r → s.booted = true → s.safe = false →
    let c := s.ctx ctx
    c.st = .ready → c.task ≠ 0 → c.yielded = false → c.leave = none → c.tlbshBusy = false →
    let p : State := { s with plan := r }
    let b := p.tallied.begin ctx
    let x := b.xlate (b.coreAccess ctx false false true) c.pc.toNat
    let u := x.2
    -- what the cycle leaves where the bundle issues and has left `v`
    let leaves (v : State) : Prop :=
      let l := v.noted.drop c.paid
      let q := State.pay 0 0 true l 0 p
      (∀ n, n / 32 = ctx / 32 → n ≠ ctx → (s.ctx n).task = 0 ∧ (v.ctx n).task = 0) →
      (∀ k, k / 16 = ctx / 32 → k ≠ ctx / 2 → (s.core k).sfuPassed = [] ∧ (v.core k).sfuPassed = []) →
      (q.1 < l.length → CycleLeaves s ctx (q.2.updCtx ctx (fun c => { c with paid := c.paid + q.1 }))) ∧
      (l.length ≤ q.1 → CycleLeaves s ctx
        ((State.pay 0 0 true l 0 { v with tally := none }).2.updCtx ctx (fun c => { c with paid := 0 })))
    (∀ e, x.1 = .error e → leaves (takeFault (fetchFault e c.pc.toNat) u)) ∧
    (∀ t, x.1 = .ok t → u.elsewhere t.pa = false →
      let w := u.physRead t.pa 16
      let core := s.core (ctx / 2)
      let now := s.now ctx
      let u := (u.touchL2 (ctx / 32) c.pen.toNat t.cpol t.evp (s.home t.pa) 16).2
      (∀ k e occ g ops, decodeBundle w = .error (k, e) → k ≠ .x ∨ w.testBit 111 = false →
        (w.testBit 111 = true → c.hctAt (w / 2 ^ 102 % 2 ^ 9) ≠ .loading) →
        let f : FaultInfo := ⟨decCode e, 0, k, none, none, false, 0, 0⟩
        faultyBundle c w f = .fault f occ g ops → opsReady c core now g ops = true → sfuWait core now ops = false →
        leaves (takeFault f u)) ∧
      (∀ f : Fetched, decodeBundle w = .ok f.bundle →
        (f.bundle.hct = none ∧ f.hcw = Hcw.empty) ∨
          (∃ i h, f.bundle.hct = some i ∧ c.hctAt i = .loaded h ∧ decodeHcw h = some f.hcw) →
        operandsReady c core now f = true → sfuWait core now f.ops = false →
        let act := f.active c
        -- what the region that ends has buffered is no acquire, or no operation reaches memory (R241)
        (closing c act = true ∨ opening c act = true →
          (u.releaseRegion ctx).cur.fence = 0 ∨ ∀ o ∈ act, reachesMemory o.instr = false) →
        let start := if closing c act then u.releaseRegion ctx else u
        (∀ v w, Ran (act.filter (fun o => !runsLast o.instr)) start v →
          Ran (act.filter (fun o => runsLast o.instr)) v.advance w → leaves w) ∧
        (∀ o v g, act = [o] → runsLast o.instr = false →
          exec o.instr { start with issue := { start.issue with
            slot := o.slot
            status := .ok
            post := none } } = .next v →
          v.issue.status = .fault g → leaves (takeFault g (if opening c act then openRegion u else u))))))

/-- Words written out from the tables of R24 to R54 and R371, with the instructions they stand for. -/
def Obligations.DecodeWords : Prop :=
  decodeAs .syllable 0x14010070 = some (.loopi ⟨0, 4, 7⟩) ∧
  decodeAs .syllable 0x000FC030 = some (.ret ⟨0, 63⟩) ∧
  decodeAs .syllable 0x2C310590 = some (.bfx ⟨0, 3, 4, 5⟩) ∧
  decodeAs .syllable 0xB4218700 = some (.rdef ⟨0, 2, 6, 7⟩) ∧
  decodeAs .syllable 0xB4218020 = some (.padv ⟨0, 2, 6⟩) ∧
  decodeAs .syllable 0xE8000030 = some (.texit ⟨0⟩) ∧
  decodeAs .vector 0x450921028004 = some (.vfcmp ⟨1, 9, 4, 5, 0, 0, 0, 4⟩) ∧
  decodeAs .logit 0x04400000 = some (.lld ⟨1, 0, 0, 0⟩) ∧
  decodeAs .logit 0x60000000 = some (.lend ⟨0, 0, 0, 0⟩) ∧
  decodeAs .syllable 0x54000010 = none ∧ decodeAs .syllable 0x20000001 = some (.add ⟨1, 0, 0, 0⟩) ∧
  decodeAs .syllable 0x200000F0 = none

/-- R24 to R54, R371: the encoding and the decoder agree on every instruction that has a word. Decoding the word of a
well-formed instruction gives it back, with every operand at every value the encoding holds; and a word within its
width that decodes is the word of the one well-formed instruction it decodes to. -/
def Obligations.DecodeEncode : Prop :=
  (∀ (i : Instr) (k : WordKind) (w : Nat), i.WellFormed = true → encode i = some (k, w) →
    w < 2 ^ wordWidth k ∧ decodeAs k w = some i) ∧
  (∀ (i : Instr) (k : WordKind) (w : Nat), w < 2 ^ wordWidth k → decodeAs k w = some i →
    i.WellFormed = true ∧ encode i = some (k, w))

/-- Every step of the part answers a next state, and keeps memory in canonical form (assumption log 1). -/
def Obligations.MemoryInvariant : Prop :=
  ∀ s : State, Memory.wf s.mem = true → ∃ t, step s = .next t ∧ Memory.wf t.mem = true

/-- What a cold reset leaves (R18, R413 and the reset columns of the register tables): the data plane held, so that no
cluster takes a cycle; every counter and register at its value; no context, queue, budget or window in use; memory in
canonical form. The model's choices here: assumption log 66. -/
def Obligations.ResetState : Prop :=
  let s := State.reset
  Memory.wf s.mem = true ∧ s.seq = 0 ∧ s.booted = false ∧ s.safe = false ∧ (∀ c, s.clusterCycle c = s) ∧
  (∀ n, (s.ctx n).st = .idle ∧ (s.ctx n).task = 0 ∧ (s.ctx n).region = none) ∧
  (∀ k, (s.cluster k).cycle = 0 ∧ ∀ sl p, s.fillMask k sl p = 0xFFFF) ∧
  (∀ p, let q := s.pen p
    q.root = 0 ∧ q.fqBase = 0 ∧ q.fqCtl = 0 ∧ q.fqHead = 0 ∧ q.fqTail = 0 ∧ q.fqLost = 0 ∧ q.kvsBase = 0 ∧
    q.kvsLsize = 0 ∧ q.tbBase = 0 ∧ q.tbLsize = 0 ∧ q.svBase = 0 ∧ q.svCtl = 0 ∧ q.uqQuota = 0) ∧
  (∀ p, let q := s.pool p
    q.cfg = 0 ∧ q.pstride = 0 ∧ q.stab = 0 ∧ q.resv = 0 ∧ q.decay = 0 ∧ q.stale = 0 ∧ q.tpol = 0) ∧
  (∀ k, s.queue k = WorkQ.reset) ∧ s.userQs = [] ∧ s.uqSlots = [] ∧
  (∀ n, let b := sget Budget.reset s.budgets n
    b.enable = false ∧ b.used = 0 ∧ b.held = 0) ∧
  (∀ k, sget Rfm.reset s.rfms k = ⟨2048, 0⟩) ∧ (∀ w, sget IoWin.reset s.ioWins w = ⟨0, 0⟩) ∧
  (∀ n, s.fw n = Fw.reset) ∧ s.evl = EvLog.reset ∧ (∀ n, (s.mbx n).busy = false)
end

