-- ==== Sys2Proof/Laws/Sparse.lean ====
section
/-! SUPPORT. The laws of sparse maps: a read after a write, the canonical form, and byte cells. -/

namespace Sys2Proof.Machine

variable {α : Type}

@[simp] theorem sget_nil (d : α) (i : Nat) : sget d [] i = d := rfl

theorem sget_sdel_same (d : α) (m : List (Nat × α)) (i : Nat) : sget d (sdel m i) i = d := by
  induction m with
  | nil => rfl
  | cons h r ih =>
    obtain ⟨k, a⟩ := h
    by_cases hk : k = i
    · simpa [sdel, hk] using ih
    · simp [sdel, sget, hk, ih]

theorem sget_sdel_other (d : α) (m : List (Nat × α)) {i j : Nat} (h : j ≠ i) :
    sget d (sdel m i) j = sget d m j := by
  induction m with
  | nil => rfl
  | cons e r ih =>
    obtain ⟨k, a⟩ := e
    by_cases hk : k = i
    · subst hk
      simp [sdel, sget, Ne.symm h, ih]
    · by_cases hj : k = j
      · subst hj; simp [sdel, sget, hk]
      · simp [sdel, sget, hk, hj, ih]

theorem sget_sins_same (d : α) (m : List (Nat × α)) (i : Nat) (a : α) :
    sget d (sins (sdel m i) i a) i = a := by
  induction m with
  | nil => simp [sdel, sins, sget]
  | cons e r ih =>
    obtain ⟨k, b⟩ := e
    by_cases hk : k = i
    · simpa [sdel, hk] using ih
    · by_cases hl : i < k
      · simp [sdel, hk, sins, hl, sget]
      · simp [sdel, hk, sins, hl, sget, ih]

theorem sget_sins_other (d : α) (m : List (Nat × α)) {i j : Nat} (a : α) (h : j ≠ i) :
    sget d (sins m i a) j = sget d m j := by
  induction m with
  | nil => simp [sins, sget, Ne.symm h]
  | cons e r ih =>
    obtain ⟨k, b⟩ := e
    by_cases hl : i < k
    · simp [sins, hl, sget, Ne.symm h]
    · by_cases hj : k = j
      · subst hj; simp [sins, hl, sget]
      · simp [sins, hl, sget, hj, ih]

/-- A read after a write to the same place. -/
@[simp] theorem sget_sput_same [DecidableEq α] (d : α) (m : List (Nat × α)) (i : Nat) (a : α) :
    sget d (sput d m i a) i = a := by
  unfold sput
  split
  · rename_i h; rw [sget_sdel_same, h]
  · exact sget_sins_same d m i a

/-- A write leaves every other place alone. -/
theorem sget_sput_other [DecidableEq α] (d : α) (m : List (Nat × α)) {i j : Nat} (a : α) (h : j ≠ i) :
    sget d (sput d m i a) j = sget d m j := by
  unfold sput
  split
  · exact sget_sdel_other d m h
  · rw [sget_sins_other d _ a h, sget_sdel_other d m h]

theorem sget_sput [DecidableEq α] (d : α) (m : List (Nat × α)) (i j : Nat) (a : α) :
    sget d (sput d m i a) j = if j = i then a else sget d m j := by
  split
  · rename_i h; rw [h, sget_sput_same]
  · rename_i h; exact sget_sput_other d m a h

theorem sdel_sdel (m : List (Nat × α)) (i : Nat) : sdel (sdel m i) i = sdel m i := by
  induction m with
  | nil => rfl
  | cons e r ih =>
    obtain ⟨k, a⟩ := e
    by_cases hk : k = i
    · simpa [sdel, hk] using ih
    · simp [sdel, hk, ih]

theorem sdel_sins (m : List (Nat × α)) (i : Nat) (a : α) : sdel (sins (sdel m i) i a) i = sdel m i := by
  induction m with
  | nil => simp [sdel, sins]
  | cons e r ih =>
    obtain ⟨k, b⟩ := e
    by_cases hk : k = i
    · simpa [sdel, hk] using ih
    · by_cases hl : i < k
      · simp [sdel, sins, hk, hl, sdel_sdel]
      · simp [sdel, sins, hk, hl, ih]

/-- The second of two writes to one place is the one that stands. -/
@[simp] theorem sput_sput [DecidableEq α] (d : α) (m : List (Nat × α)) (i : Nat) (a b : α) :
    sput d (sput d m i a) i b = sput d m i b := by
  have h : sdel (sput d m i a) i = sdel m i := by
    unfold sput
    split
    · exact sdel_sdel m i
    · exact sdel_sins m i a
  unfold sput at h ⊢
  rw [h]

theorem sfind_sdel (m : List (Nat × α)) (i j : Nat) : sfind (sdel m i) j = if j = i then none else sfind m j := by
  induction m with
  | nil => simp [sdel, sfind]
  | cons e r ih =>
    obtain ⟨k, b⟩ := e
    by_cases hk : k = i
    · subst hk
      simp only [sdel, if_true, ih]
      by_cases hj : j = k
      · simp [hj]
      · simp [hj, sfind, Ne.symm hj]
    · by_cases hj : j = k
      · subst hj; simp [sdel, sfind, hk]
      · simp [sdel, sfind, hk, ih, Ne.symm hj]

/-- What a table without a default holds after an entry is set. -/
theorem sfind_sset (m : List (Nat × α)) (i j : Nat) (a : α) :
    sfind (sset m i a) j = if j = i then some a else sfind m j := by
  have key : ∀ m : List (Nat × α), sfind (sins (sdel m i) i a) j = if j = i then some a else sfind (sdel m i) j := by
    intro m
    induction m with
    | nil =>
      by_cases h : j = i
      · simp [sdel, sins, sfind, h]
      · simp [sdel, sins, sfind, h, Ne.symm h]
    | cons e r ih =>
      obtain ⟨k, b⟩ := e
      by_cases hk : k = i
      · simpa [sdel, hk] using ih
      · by_cases hl : i < k
        · by_cases h : j = i
          · subst h; simp [sdel, sins, sfind, hk, hl]
          · simp [sdel, sins, sfind, hk, hl, h, Ne.symm h]
        · by_cases h : k = j
          · subst h; simp [sdel, sins, sfind, hk, hl]
          · simp [sdel, sins, sfind, hk, hl, h, ih]
  rw [sset, key, sfind_sdel]
  split <;> rfl

/-! ### The canonical form -/

theorem swfAbove_mono [DecidableEq α] (d : α) {lo : Nat} {lo' : Option Nat} (m : List (Nat × α))
    (h : swfAbove d (some lo) m = true) (hl : ∀ l, lo' = some l → l ≤ lo) : swfAbove d lo' m = true := by
  cases m with
  | nil => rfl
  | cons e r =>
    obtain ⟨k, a⟩ := e
    cases lo' with
    | none => simp_all [swfAbove]
    | some l =>
      have := hl l rfl
      simp only [swfAbove, Bool.and_eq_true, decide_eq_true_eq] at h ⊢
      exact ⟨⟨by omega, h.1.2⟩, h.2⟩

theorem swfAbove_sdel [DecidableEq α] (d : α) (lo : Option Nat) (m : List (Nat × α)) (i : Nat)
    (h : swfAbove d lo m = true) : swfAbove d lo (sdel m i) = true := by
  induction m generalizing lo with
  | nil => rfl
  | cons e r ih =>
    obtain ⟨k, a⟩ := e
    simp only [swfAbove, Bool.and_eq_true] at h
    by_cases hk : k = i
    · simp only [sdel, hk, if_true]
      refine ih lo (swfAbove_mono d r h.2 ?_)
      intro l hl
      subst hl
      have := h.1.1
      simp at this
      omega
    · simp only [sdel, hk, if_false, swfAbove, Bool.and_eq_true]
      exact ⟨h.1, ih (some k) h.2⟩

theorem swfAbove_sins [DecidableEq α] (d : α) (lo : Option Nat) (m : List (Nat × α)) (i : Nat) (a : α)
    (ha : a ≠ d) (h : swfAbove d lo (sdel m i) = true) (hl : ∀ l, lo = some l → l < i) :
    swfAbove d lo (sins (sdel m i) i a) = true := by
  induction m generalizing lo with
  | nil =>
    cases lo with
    | none => simp [sdel, sins, swfAbove, ha]
    | some l => have := hl l rfl; simp [sdel, sins, swfAbove, ha, this]
  | cons e r ih =>
    obtain ⟨k, b⟩ := e
    by_cases hk : k = i
    · simp only [sdel, hk, if_true] at h ⊢
      exact ih lo h hl
    · simp only [sdel, hk, if_false, swfAbove, Bool.and_eq_true] at h
      by_cases hlt : i < k
      · simp only [sdel, hk, if_false, sins, hlt, if_true, swfAbove, Bool.and_eq_true, decide_eq_true_eq]
        refine ⟨⟨?_, ha⟩, ⟨trivial, by simpa using h.1.2⟩, h.2⟩
        cases lo with
        | none => rfl
        | some l => have := hl l rfl; simpa using this
      · simp only [sdel, hk, if_false, sins, hlt, swfAbove, Bool.and_eq_true]
        refine ⟨h.1, ih (some k) h.2 ?_⟩
        intro l hl'
        cases hl'
        omega

/-- A write keeps the canonical form. -/
theorem swf_sput [DecidableEq α] (d : α) (m : List (Nat × α)) (i : Nat) (a : α) (h : swf d m = true) :
    swf d (sput d m i a) = true := by
  unfold sput
  have hd := swfAbove_sdel d none m i h
  split
  · exact hd
  · rename_i ha
    exact swfAbove_sins d none m i a ha hd (by simp)

/-- Equal reads of canonical maps make equal maps: two lists above the same bound. -/
theorem sget_below [DecidableEq α] (d : α) (lo : Nat) (m : List (Nat × α)) (h : swfAbove d (some lo) m = true)
    (i : Nat) (hi : i ≤ lo) : sget d m i = d := by
  induction m generalizing lo with
  | nil => rfl
  | cons e r ih =>
    obtain ⟨k, a⟩ := e
    simp only [swfAbove, Bool.and_eq_true, decide_eq_true_eq] at h
    have : k ≠ i := by omega
    simp only [sget, this, if_false]
    exact ih k h.2 (by omega)

/-! ### Byte cells -/

/-- Writing bytes keeps the canonical form. -/
theorem swf_cellsWrite (m : List (Nat × Byte)) (w a n v : Nat) (h : swf 0 m = true) :
    swf 0 (cellsWrite m w a n v) = true := by
  induction n generalizing m a v with
  | zero => exact h
  | succ n ih => exact ih _ _ _ (swf_sput 0 m _ _ h)

/-- A byte that no written address names reads as before. -/
theorem sget_cellsWrite_other (m : List (Nat × Byte)) (w a n v i : Nat)
    (h : ∀ k < n, i ≠ (a + k) % 2 ^ w) : sget 0 (cellsWrite m w a n v) i = sget 0 m i := by
  induction n generalizing m a v with
  | zero => rfl
  | succ n ih =>
    have h0 : i ≠ a % 2 ^ w := by simpa using h 0 (by omega)
    rw [cellsWrite, ih, sget_sput_other 0 m _ h0]
    intro k hk
    have := h (k + 1) (by omega)
    rwa [show a + 1 + k = a + (k + 1) by omega]

/-- The byte that a write leaves at its `k`-th address; addresses wrap, and a write is no longer than the space. -/
theorem sget_cellsWrite_at (m : List (Nat × Byte)) (w a n v k : Nat) (hk : k < n) (hw : n ≤ 2 ^ w) :
    sget 0 (cellsWrite m w a n v) ((a + k) % 2 ^ w) = BitVec.ofNat 8 (v / 256 ^ k) := by
  induction n generalizing m a v k with
  | zero => omega
  | succ n ih =>
    cases k with
    | zero =>
      rw [cellsWrite, sget_cellsWrite_other]
      · rw [Nat.add_zero, sget_sput_same]; simp
      · intro j hj h
        have h1 : (a + 1 + j) % 2 ^ w = (a + (1 + j)) % 2 ^ w := by rw [Nat.add_assoc]
        rw [h1, Nat.add_zero] at h
        have h2 := Nat.ModEq.add_left_cancel' (n := 2 ^ w) a (show a + 0 ≡ a + (1 + j) [MOD 2 ^ w] from by
          simpa [Nat.ModEq] using h)
        have h3 : (1 + j) % 2 ^ w = 0 := by
          have := h2.symm
          simpa [Nat.ModEq] using this
        rw [Nat.mod_eq_of_lt (by omega)] at h3
        omega
    | succ k =>
      rw [cellsWrite, show a + (k + 1) = a + 1 + k by omega, ih _ _ _ k (by omega) (by omega),
        Nat.div_div_eq_div_mul, pow_succ']

/-- Reading the bytes just written gives the value. -/
theorem cellsRead_cellsWrite (m : List (Nat × Byte)) (w a n v : Nat) (hw : n ≤ 2 ^ w) :
    cellsRead (cellsWrite m w a n v) w a n = v % 256 ^ n := by
  have key : ∀ (m' : List (Nat × Byte)) (n a v : Nat),
      (∀ k < n, sget 0 m' ((a + k) % 2 ^ w) = BitVec.ofNat 8 (v / 256 ^ k)) → cellsRead m' w a n = v % 256 ^ n := by
    intro m' n
    induction n with
    | zero => intro a v _; simp [cellsRead, Nat.mod_one]
    | succ n ih =>
      intro a v hg
      rw [cellsRead, ih (a + 1) (v / 256)]
      · have h0 := hg 0 (by omega)
        rw [Nat.add_zero] at h0
        rw [h0]
        rw [BitVec.toNat_ofNat, pow_zero, Nat.div_one, show 256 ^ (n + 1) = 256 * 256 ^ n from pow_succ' _ _,
          Nat.mod_mul]
      · intro k hk
        have := hg (k + 1) (by omega)
        rw [show a + (k + 1) = a + 1 + k by omega] at this
        rw [this, Nat.div_div_eq_div_mul, pow_succ']
  exact key _ n a v (fun k hk => sget_cellsWrite_at m w a n v k hk hw)

/-- Reading bytes that a write does not touch gives what was there. -/
theorem cellsRead_cellsWrite_other (m : List (Nat × Byte)) (w a n v b k : Nat)
    (h : ∀ i < k, ∀ j < n, (b + i) % 2 ^ w ≠ (a + j) % 2 ^ w) :
    cellsRead (cellsWrite m w a n v) w b k = cellsRead m w b k := by
  induction k generalizing b with
  | zero => rfl
  | succ k ih =>
    rw [cellsRead, cellsRead, sget_cellsWrite_other m w a n v]
    · rw [ih]
      intro i hi j hj
      have := h (i + 1) (by omega) j hj
      rwa [show b + (i + 1) = b + 1 + i by omega] at this
    · intro j hj
      simpa using h 0 (by omega) j hj

end Sys2Proof.Machine
end

