-- ==== Sys2Proof/Laws/State.lean ====
section
/-! SUPPORT. What the updates of the state change: one lemma for each field and update, so that no proof unfolds a
record update. Updates through a function (`updCtx` and its like) rewrite to the plain ones. -/

namespace Sys2Proof.Machine

/-! ### Normal forms -/

@[simp] theorem State.updCtx_eq (s : State) (c : Nat) (f : Ctx → Ctx) : s.updCtx c f = s.setCtx c (f (s.ctx c)) := rfl
@[simp] theorem State.updCore_eq (s : State) (c : Nat) (f : Core → Core) :
    s.updCore c f = s.setCore c (f (s.core c)) := rfl
@[simp] theorem State.updCluster_eq (s : State) (c : Nat) (f : Cluster → Cluster) :
    s.updCluster c f = s.setCluster c (f (s.cluster c)) := rfl
@[simp] theorem State.updPen_eq (s : State) (p : Nat) (f : Pen → Pen) : s.updPen p f = s.setPen p (f (s.pen p)) := rfl
@[simp] theorem State.updCur_eq (s : State) (f : Ctx → Ctx) :
    s.updCur f = s.setCtx s.issue.ctx (f (s.ctx s.issue.ctx)) := rfl
@[simp] theorem State.updCurCore_eq (s : State) (f : Core → Core) :
    s.updCurCore f = s.setCore (coreOf s.issue.ctx) (f (s.core (coreOf s.issue.ctx))) := rfl
@[simp] theorem State.cur_eq (s : State) : s.cur = s.ctx s.issue.ctx := rfl
@[simp] theorem State.curCore_eq (s : State) : s.curCore = s.core (coreOf s.issue.ctx) := rfl
@[simp] theorem State.pre_eq (s : State) : s.pre = s.issue.pre := rfl
@[simp] theorem State.now_eq (s : State) (c : Nat) : s.now c = (s.cluster (clusterOf c)).cycle := rfl

/-! ### `setCtx` -/

@[simp] theorem State.ctx_setCtx_same (s : State) (i : Nat) (v : Ctx) : (s.setCtx i v).ctx i = v :=
  sget_sput_same _ _ _ _
theorem State.ctx_setCtx_other (s : State) {i j : Nat} (v : Ctx) (h : j ≠ i) : (s.setCtx i v).ctx j = s.ctx j :=
  sget_sput_other _ _ _ h
theorem State.ctx_setCtx (s : State) (i j : Nat) (v : Ctx) :
    (s.setCtx i v).ctx j = if j = i then v else s.ctx j := sget_sput _ _ _ _ _
@[simp] theorem State.setCtx_setCtx (s : State) (i : Nat) (v w : Ctx) : (s.setCtx i v).setCtx i w = s.setCtx i w := by
  unfold State.setCtx; simp
@[simp] theorem State.core_setCtx (s : State) (i j : Nat) (v : Ctx) : (s.setCtx i v).core j = s.core j := rfl
@[simp] theorem State.cluster_setCtx (s : State) (i j : Nat) (v : Ctx) : (s.setCtx i v).cluster j = s.cluster j := rfl
@[simp] theorem State.pen_setCtx (s : State) (i j : Nat) (v : Ctx) : (s.setCtx i v).pen j = s.pen j := rfl
@[simp] theorem State.setCtx_plan (s : State) (i : Nat) (v : Ctx) : (s.setCtx i v).plan = s.plan := rfl
@[simp] theorem State.setCtx_turn (s : State) (i : Nat) (v : Ctx) : (s.setCtx i v).turn = s.turn := rfl
@[simp] theorem State.setCtx_round (s : State) (i : Nat) (v : Ctx) : (s.setCtx i v).round = s.round := rfl
@[simp] theorem State.setCtx_free (s : State) (i : Nat) (v : Ctx) : (s.setCtx i v).free = s.free := rfl
@[simp] theorem State.setCtx_tally (s : State) (i : Nat) (v : Ctx) : (s.setCtx i v).tally = s.tally := rfl
@[simp] theorem State.setCtx_paidBy (s : State) (i : Nat) (v : Ctx) : (s.setCtx i v).paidBy = s.paidBy := rfl
@[simp] theorem State.setCtx_heats (s : State) (i : Nat) (v : Ctx) : (s.setCtx i v).heats = s.heats := rfl
@[simp] theorem State.setCtx_posts (s : State) (i : Nat) (v : Ctx) : (s.setCtx i v).posts = s.posts := rfl
@[simp] theorem State.setCtx_issue (s : State) (i : Nat) (v : Ctx) : (s.setCtx i v).issue = s.issue := rfl
@[simp] theorem State.setCtx_groomNow (s : State) (i : Nat) (v : Ctx) : (s.setCtx i v).groomNow = s.groomNow := rfl
@[simp] theorem State.setCtx_booted (s : State) (i : Nat) (v : Ctx) : (s.setCtx i v).booted = s.booted := rfl
@[simp] theorem State.setCtx_seq (s : State) (i : Nat) (v : Ctx) : (s.setCtx i v).seq = s.seq := rfl
@[simp] theorem State.setCtx_mem (s : State) (i : Nat) (v : Ctx) : (s.setCtx i v).mem = s.mem := rfl
@[simp] theorem State.setCtx_cores (s : State) (i : Nat) (v : Ctx) : (s.setCtx i v).cores = s.cores := rfl
@[simp] theorem State.setCtx_clusters (s : State) (i : Nat) (v : Ctx) : (s.setCtx i v).clusters = s.clusters := rfl
@[simp] theorem State.setCtx_pens (s : State) (i : Nat) (v : Ctx) : (s.setCtx i v).pens = s.pens := rfl
@[simp] theorem State.setCtx_use (s : State) (i : Nat) (v : Ctx) : (s.setCtx i v).use = s.use := rfl
@[simp] theorem State.setCtx_fmask (s : State) (i : Nat) (v : Ctx) : (s.setCtx i v).fmask = s.fmask := rfl
@[simp] theorem State.setCtx_dieTlb (s : State) (i : Nat) (v : Ctx) : (s.setCtx i v).dieTlb = s.dieTlb := rfl
@[simp] theorem State.setCtx_tframes (s : State) (i : Nat) (v : Ctx) : (s.setCtx i v).tframes = s.tframes := rfl
@[simp] theorem State.setCtx_pkg (s : State) (i : Nat) (v : Ctx) : (s.setCtx i v).pkg = s.pkg := rfl
@[simp] theorem State.setCtx_cmds (s : State) (i : Nat) (v : Ctx) : (s.setCtx i v).cmds = s.cmds := rfl
@[simp] theorem State.setCtx_launches (s : State) (i : Nat) (v : Ctx) : (s.setCtx i v).launches = s.launches := rfl
@[simp] theorem State.setCtx_jobs (s : State) (i : Nat) (v : Ctx) : (s.setCtx i v).jobs = s.jobs := rfl
@[simp] theorem State.setCtx_tasks (s : State) (i : Nat) (v : Ctx) : (s.setCtx i v).tasks = s.tasks := rfl
@[simp] theorem State.setCtx_gangs (s : State) (i : Nat) (v : Ctx) : (s.setCtx i v).gangs = s.gangs := rfl
@[simp] theorem State.setCtx_nextLaunch (s : State) (i : Nat) (v : Ctx) : (s.setCtx i v).nextLaunch = s.nextLaunch := rfl
@[simp] theorem State.setCtx_nextJob (s : State) (i : Nat) (v : Ctx) : (s.setCtx i v).nextJob = s.nextJob := rfl
@[simp] theorem State.setCtx_nextTask (s : State) (i : Nat) (v : Ctx) : (s.setCtx i v).nextTask = s.nextTask := rfl
@[simp] theorem State.setCtx_nextGang (s : State) (i : Nat) (v : Ctx) : (s.setCtx i v).nextGang = s.nextGang := rfl
@[simp] theorem State.setCtx_barReqs (s : State) (i : Nat) (v : Ctx) : (s.setCtx i v).barReqs = s.barReqs := rfl
@[simp] theorem State.setCtx_queues (s : State) (i : Nat) (v : Ctx) : (s.setCtx i v).queues = s.queues := rfl
@[simp] theorem State.setCtx_pools (s : State) (i : Nat) (v : Ctx) : (s.setCtx i v).pools = s.pools := rfl
@[simp] theorem State.setCtx_userQs (s : State) (i : Nat) (v : Ctx) : (s.setCtx i v).userQs = s.userQs := rfl
@[simp] theorem State.setCtx_uqSlots (s : State) (i : Nat) (v : Ctx) : (s.setCtx i v).uqSlots = s.uqSlots := rfl
@[simp] theorem State.setCtx_graphs (s : State) (i : Nat) (v : Ctx) : (s.setCtx i v).graphs = s.graphs := rfl
@[simp] theorem State.setCtx_graphWait (s : State) (i : Nat) (v : Ctx) : (s.setCtx i v).graphWait = s.graphWait := rfl
@[simp] theorem State.setCtx_spills (s : State) (i : Nat) (v : Ctx) : (s.setCtx i v).spills = s.spills := rfl
@[simp] theorem State.setCtx_grooms (s : State) (i : Nat) (v : Ctx) : (s.setCtx i v).grooms = s.grooms := rfl
@[simp] theorem State.setCtx_budgets (s : State) (i : Nat) (v : Ctx) : (s.setCtx i v).budgets = s.budgets := rfl
@[simp] theorem State.setCtx_banks (s : State) (i : Nat) (v : Ctx) : (s.setCtx i v).banks = s.banks := rfl
@[simp] theorem State.setCtx_rfms (s : State) (i : Nat) (v : Ctx) : (s.setCtx i v).rfms = s.rfms := rfl
@[simp] theorem State.setCtx_links (s : State) (i : Nat) (v : Ctx) : (s.setCtx i v).links = s.links := rfl
@[simp] theorem State.setCtx_ioWins (s : State) (i : Nat) (v : Ctx) : (s.setCtx i v).ioWins = s.ioWins := rfl
@[simp] theorem State.setCtx_outbox (s : State) (i : Nat) (v : Ctx) : (s.setCtx i v).outbox = s.outbox := rfl
@[simp] theorem State.setCtx_inq (s : State) (i : Nat) (v : Ctx) : (s.setCtx i v).inq = s.inq := rfl
@[simp] theorem State.setCtx_engNow (s : State) (i : Nat) (v : Ctx) : (s.setCtx i v).engNow = s.engNow := rfl
@[simp] theorem State.setCtx_sents (s : State) (i : Nat) (v : Ctx) : (s.setCtx i v).sents = s.sents := rfl
@[simp] theorem State.setCtx_lates (s : State) (i : Nat) (v : Ctx) : (s.setCtx i v).lates = s.lates := rfl
@[simp] theorem State.setCtx_fws (s : State) (i : Nat) (v : Ctx) : (s.setCtx i v).fws = s.fws := rfl
@[simp] theorem State.setCtx_safe (s : State) (i : Nat) (v : Ctx) : (s.setCtx i v).safe = s.safe := rfl
@[simp] theorem State.setCtx_evl (s : State) (i : Nat) (v : Ctx) : (s.setCtx i v).evl = s.evl := rfl
@[simp] theorem State.setCtx_mbxs (s : State) (i : Nat) (v : Ctx) : (s.setCtx i v).mbxs = s.mbxs := rfl
@[simp] theorem State.setCtx_mbxNext (s : State) (i : Nat) (v : Ctx) : (s.setCtx i v).mbxNext = s.mbxNext := rfl
@[simp] theorem State.setCtx_penQ (s : State) (i : Nat) (v : Ctx) : (s.setCtx i v).penQ = s.penQ := rfl
@[simp] theorem State.setCtx_corrected (s : State) (i : Nat) (v : Ctx) : (s.setCtx i v).corrected = s.corrected := rfl
@[simp] theorem State.setCtx_leaf (s : State) (i : Nat) (v : Ctx) : (s.setCtx i v).leaf = s.leaf := rfl
@[simp] theorem State.setCtx_physRead (s : State) (i : Nat) (v : Ctx) (a n : Nat) :
    (s.setCtx i v).physRead a n = s.physRead a n := rfl

/-! ### `setCore` -/

@[simp] theorem State.core_setCore_same (s : State) (i : Nat) (v : Core) : (s.setCore i v).core i = v :=
  sget_sput_same _ _ _ _
theorem State.core_setCore_other (s : State) {i j : Nat} (v : Core) (h : j ≠ i) : (s.setCore i v).core j = s.core j :=
  sget_sput_other _ _ _ h
theorem State.core_setCore (s : State) (i j : Nat) (v : Core) :
    (s.setCore i v).core j = if j = i then v else s.core j := sget_sput _ _ _ _ _
@[simp] theorem State.setCore_setCore (s : State) (i : Nat) (v w : Core) : (s.setCore i v).setCore i w = s.setCore i w := by
  unfold State.setCore; simp
@[simp] theorem State.ctx_setCore (s : State) (i j : Nat) (v : Core) : (s.setCore i v).ctx j = s.ctx j := rfl
@[simp] theorem State.cluster_setCore (s : State) (i j : Nat) (v : Core) : (s.setCore i v).cluster j = s.cluster j := rfl
@[simp] theorem State.pen_setCore (s : State) (i j : Nat) (v : Core) : (s.setCore i v).pen j = s.pen j := rfl
@[simp] theorem State.setCore_plan (s : State) (i : Nat) (v : Core) : (s.setCore i v).plan = s.plan := rfl
@[simp] theorem State.setCore_turn (s : State) (i : Nat) (v : Core) : (s.setCore i v).turn = s.turn := rfl
@[simp] theorem State.setCore_round (s : State) (i : Nat) (v : Core) : (s.setCore i v).round = s.round := rfl
@[simp] theorem State.setCore_free (s : State) (i : Nat) (v : Core) : (s.setCore i v).free = s.free := rfl
@[simp] theorem State.setCore_tally (s : State) (i : Nat) (v : Core) : (s.setCore i v).tally = s.tally := rfl
@[simp] theorem State.setCore_paidBy (s : State) (i : Nat) (v : Core) : (s.setCore i v).paidBy = s.paidBy := rfl
@[simp] theorem State.setCore_heats (s : State) (i : Nat) (v : Core) : (s.setCore i v).heats = s.heats := rfl
@[simp] theorem State.setCore_posts (s : State) (i : Nat) (v : Core) : (s.setCore i v).posts = s.posts := rfl
@[simp] theorem State.setCore_issue (s : State) (i : Nat) (v : Core) : (s.setCore i v).issue = s.issue := rfl
@[simp] theorem State.setCore_groomNow (s : State) (i : Nat) (v : Core) : (s.setCore i v).groomNow = s.groomNow := rfl
@[simp] theorem State.setCore_booted (s : State) (i : Nat) (v : Core) : (s.setCore i v).booted = s.booted := rfl
@[simp] theorem State.setCore_seq (s : State) (i : Nat) (v : Core) : (s.setCore i v).seq = s.seq := rfl
@[simp] theorem State.setCore_mem (s : State) (i : Nat) (v : Core) : (s.setCore i v).mem = s.mem := rfl
@[simp] theorem State.setCore_ctxs (s : State) (i : Nat) (v : Core) : (s.setCore i v).ctxs = s.ctxs := rfl
@[simp] theorem State.setCore_clusters (s : State) (i : Nat) (v : Core) : (s.setCore i v).clusters = s.clusters := rfl
@[simp] theorem State.setCore_pens (s : State) (i : Nat) (v : Core) : (s.setCore i v).pens = s.pens := rfl
@[simp] theorem State.setCore_use (s : State) (i : Nat) (v : Core) : (s.setCore i v).use = s.use := rfl
@[simp] theorem State.setCore_fmask (s : State) (i : Nat) (v : Core) : (s.setCore i v).fmask = s.fmask := rfl
@[simp] theorem State.setCore_dieTlb (s : State) (i : Nat) (v : Core) : (s.setCore i v).dieTlb = s.dieTlb := rfl
@[simp] theorem State.setCore_tframes (s : State) (i : Nat) (v : Core) : (s.setCore i v).tframes = s.tframes := rfl
@[simp] theorem State.setCore_pkg (s : State) (i : Nat) (v : Core) : (s.setCore i v).pkg = s.pkg := rfl
@[simp] theorem State.setCore_cmds (s : State) (i : Nat) (v : Core) : (s.setCore i v).cmds = s.cmds := rfl
@[simp] theorem State.setCore_launches (s : State) (i : Nat) (v : Core) : (s.setCore i v).launches = s.launches := rfl
@[simp] theorem State.setCore_jobs (s : State) (i : Nat) (v : Core) : (s.setCore i v).jobs = s.jobs := rfl
@[simp] theorem State.setCore_tasks (s : State) (i : Nat) (v : Core) : (s.setCore i v).tasks = s.tasks := rfl
@[simp] theorem State.setCore_gangs (s : State) (i : Nat) (v : Core) : (s.setCore i v).gangs = s.gangs := rfl
@[simp] theorem State.setCore_nextLaunch (s : State) (i : Nat) (v : Core) : (s.setCore i v).nextLaunch = s.nextLaunch := rfl
@[simp] theorem State.setCore_nextJob (s : State) (i : Nat) (v : Core) : (s.setCore i v).nextJob = s.nextJob := rfl
@[simp] theorem State.setCore_nextTask (s : State) (i : Nat) (v : Core) : (s.setCore i v).nextTask = s.nextTask := rfl
@[simp] theorem State.setCore_nextGang (s : State) (i : Nat) (v : Core) : (s.setCore i v).nextGang = s.nextGang := rfl
@[simp] theorem State.setCore_barReqs (s : State) (i : Nat) (v : Core) : (s.setCore i v).barReqs = s.barReqs := rfl
@[simp] theorem State.setCore_queues (s : State) (i : Nat) (v : Core) : (s.setCore i v).queues = s.queues := rfl
@[simp] theorem State.setCore_pools (s : State) (i : Nat) (v : Core) : (s.setCore i v).pools = s.pools := rfl
@[simp] theorem State.setCore_userQs (s : State) (i : Nat) (v : Core) : (s.setCore i v).userQs = s.userQs := rfl
@[simp] theorem State.setCore_uqSlots (s : State) (i : Nat) (v : Core) : (s.setCore i v).uqSlots = s.uqSlots := rfl
@[simp] theorem State.setCore_graphs (s : State) (i : Nat) (v : Core) : (s.setCore i v).graphs = s.graphs := rfl
@[simp] theorem State.setCore_graphWait (s : State) (i : Nat) (v : Core) : (s.setCore i v).graphWait = s.graphWait := rfl
@[simp] theorem State.setCore_spills (s : State) (i : Nat) (v : Core) : (s.setCore i v).spills = s.spills := rfl
@[simp] theorem State.setCore_grooms (s : State) (i : Nat) (v : Core) : (s.setCore i v).grooms = s.grooms := rfl
@[simp] theorem State.setCore_budgets (s : State) (i : Nat) (v : Core) : (s.setCore i v).budgets = s.budgets := rfl
@[simp] theorem State.setCore_banks (s : State) (i : Nat) (v : Core) : (s.setCore i v).banks = s.banks := rfl
@[simp] theorem State.setCore_rfms (s : State) (i : Nat) (v : Core) : (s.setCore i v).rfms = s.rfms := rfl
@[simp] theorem State.setCore_links (s : State) (i : Nat) (v : Core) : (s.setCore i v).links = s.links := rfl
@[simp] theorem State.setCore_ioWins (s : State) (i : Nat) (v : Core) : (s.setCore i v).ioWins = s.ioWins := rfl
@[simp] theorem State.setCore_outbox (s : State) (i : Nat) (v : Core) : (s.setCore i v).outbox = s.outbox := rfl
@[simp] theorem State.setCore_inq (s : State) (i : Nat) (v : Core) : (s.setCore i v).inq = s.inq := rfl
@[simp] theorem State.setCore_engNow (s : State) (i : Nat) (v : Core) : (s.setCore i v).engNow = s.engNow := rfl
@[simp] theorem State.setCore_sents (s : State) (i : Nat) (v : Core) : (s.setCore i v).sents = s.sents := rfl
@[simp] theorem State.setCore_lates (s : State) (i : Nat) (v : Core) : (s.setCore i v).lates = s.lates := rfl
@[simp] theorem State.setCore_fws (s : State) (i : Nat) (v : Core) : (s.setCore i v).fws = s.fws := rfl
@[simp] theorem State.setCore_safe (s : State) (i : Nat) (v : Core) : (s.setCore i v).safe = s.safe := rfl
@[simp] theorem State.setCore_evl (s : State) (i : Nat) (v : Core) : (s.setCore i v).evl = s.evl := rfl
@[simp] theorem State.setCore_mbxs (s : State) (i : Nat) (v : Core) : (s.setCore i v).mbxs = s.mbxs := rfl
@[simp] theorem State.setCore_mbxNext (s : State) (i : Nat) (v : Core) : (s.setCore i v).mbxNext = s.mbxNext := rfl
@[simp] theorem State.setCore_penQ (s : State) (i : Nat) (v : Core) : (s.setCore i v).penQ = s.penQ := rfl
@[simp] theorem State.setCore_corrected (s : State) (i : Nat) (v : Core) : (s.setCore i v).corrected = s.corrected := rfl
@[simp] theorem State.setCore_leaf (s : State) (i : Nat) (v : Core) : (s.setCore i v).leaf = s.leaf := rfl
@[simp] theorem State.setCore_physRead (s : State) (i : Nat) (v : Core) (a n : Nat) :
    (s.setCore i v).physRead a n = s.physRead a n := rfl

/-! ### `setCluster` -/

@[simp] theorem State.cluster_setCluster_same (s : State) (i : Nat) (v : Cluster) : (s.setCluster i v).cluster i = v :=
  sget_sput_same _ _ _ _
theorem State.cluster_setCluster_other (s : State) {i j : Nat} (v : Cluster) (h : j ≠ i) : (s.setCluster i v).cluster j = s.cluster j :=
  sget_sput_other _ _ _ h
theorem State.cluster_setCluster (s : State) (i j : Nat) (v : Cluster) :
    (s.setCluster i v).cluster j = if j = i then v else s.cluster j := sget_sput _ _ _ _ _
@[simp] theorem State.setCluster_setCluster (s : State) (i : Nat) (v w : Cluster) : (s.setCluster i v).setCluster i w = s.setCluster i w := by
  unfold State.setCluster; simp
@[simp] theorem State.ctx_setCluster (s : State) (i j : Nat) (v : Cluster) : (s.setCluster i v).ctx j = s.ctx j := rfl
@[simp] theorem State.core_setCluster (s : State) (i j : Nat) (v : Cluster) : (s.setCluster i v).core j = s.core j := rfl
@[simp] theorem State.pen_setCluster (s : State) (i j : Nat) (v : Cluster) : (s.setCluster i v).pen j = s.pen j := rfl
@[simp] theorem State.setCluster_plan (s : State) (i : Nat) (v : Cluster) : (s.setCluster i v).plan = s.plan := rfl
@[simp] theorem State.setCluster_turn (s : State) (i : Nat) (v : Cluster) : (s.setCluster i v).turn = s.turn := rfl
@[simp] theorem State.setCluster_round (s : State) (i : Nat) (v : Cluster) : (s.setCluster i v).round = s.round := rfl
@[simp] theorem State.setCluster_free (s : State) (i : Nat) (v : Cluster) : (s.setCluster i v).free = s.free := rfl
@[simp] theorem State.setCluster_tally (s : State) (i : Nat) (v : Cluster) : (s.setCluster i v).tally = s.tally := rfl
@[simp] theorem State.setCluster_paidBy (s : State) (i : Nat) (v : Cluster) : (s.setCluster i v).paidBy = s.paidBy := rfl
@[simp] theorem State.setCluster_heats (s : State) (i : Nat) (v : Cluster) : (s.setCluster i v).heats = s.heats := rfl
@[simp] theorem State.setCluster_posts (s : State) (i : Nat) (v : Cluster) : (s.setCluster i v).posts = s.posts := rfl
@[simp] theorem State.setCluster_issue (s : State) (i : Nat) (v : Cluster) : (s.setCluster i v).issue = s.issue := rfl
@[simp] theorem State.setCluster_groomNow (s : State) (i : Nat) (v : Cluster) : (s.setCluster i v).groomNow = s.groomNow := rfl
@[simp] theorem State.setCluster_booted (s : State) (i : Nat) (v : Cluster) : (s.setCluster i v).booted = s.booted := rfl
@[simp] theorem State.setCluster_seq (s : State) (i : Nat) (v : Cluster) : (s.setCluster i v).seq = s.seq := rfl
@[simp] theorem State.setCluster_mem (s : State) (i : Nat) (v : Cluster) : (s.setCluster i v).mem = s.mem := rfl
@[simp] theorem State.setCluster_ctxs (s : State) (i : Nat) (v : Cluster) : (s.setCluster i v).ctxs = s.ctxs := rfl
@[simp] theorem State.setCluster_cores (s : State) (i : Nat) (v : Cluster) : (s.setCluster i v).cores = s.cores := rfl
@[simp] theorem State.setCluster_pens (s : State) (i : Nat) (v : Cluster) : (s.setCluster i v).pens = s.pens := rfl
@[simp] theorem State.setCluster_use (s : State) (i : Nat) (v : Cluster) : (s.setCluster i v).use = s.use := rfl
@[simp] theorem State.setCluster_fmask (s : State) (i : Nat) (v : Cluster) : (s.setCluster i v).fmask = s.fmask := rfl
@[simp] theorem State.setCluster_dieTlb (s : State) (i : Nat) (v : Cluster) : (s.setCluster i v).dieTlb = s.dieTlb := rfl
@[simp] theorem State.setCluster_tframes (s : State) (i : Nat) (v : Cluster) : (s.setCluster i v).tframes = s.tframes := rfl
@[simp] theorem State.setCluster_pkg (s : State) (i : Nat) (v : Cluster) : (s.setCluster i v).pkg = s.pkg := rfl
@[simp] theorem State.setCluster_cmds (s : State) (i : Nat) (v : Cluster) : (s.setCluster i v).cmds = s.cmds := rfl
@[simp] theorem State.setCluster_launches (s : State) (i : Nat) (v : Cluster) : (s.setCluster i v).launches = s.launches := rfl
@[simp] theorem State.setCluster_jobs (s : State) (i : Nat) (v : Cluster) : (s.setCluster i v).jobs = s.jobs := rfl
@[simp] theorem State.setCluster_tasks (s : State) (i : Nat) (v : Cluster) : (s.setCluster i v).tasks = s.tasks := rfl
@[simp] theorem State.setCluster_gangs (s : State) (i : Nat) (v : Cluster) : (s.setCluster i v).gangs = s.gangs := rfl
@[simp] theorem State.setCluster_nextLaunch (s : State) (i : Nat) (v : Cluster) : (s.setCluster i v).nextLaunch = s.nextLaunch := rfl
@[simp] theorem State.setCluster_nextJob (s : State) (i : Nat) (v : Cluster) : (s.setCluster i v).nextJob = s.nextJob := rfl
@[simp] theorem State.setCluster_nextTask (s : State) (i : Nat) (v : Cluster) : (s.setCluster i v).nextTask = s.nextTask := rfl
@[simp] theorem State.setCluster_nextGang (s : State) (i : Nat) (v : Cluster) : (s.setCluster i v).nextGang = s.nextGang := rfl
@[simp] theorem State.setCluster_barReqs (s : State) (i : Nat) (v : Cluster) : (s.setCluster i v).barReqs = s.barReqs := rfl
@[simp] theorem State.setCluster_queues (s : State) (i : Nat) (v : Cluster) : (s.setCluster i v).queues = s.queues := rfl
@[simp] theorem State.setCluster_pools (s : State) (i : Nat) (v : Cluster) : (s.setCluster i v).pools = s.pools := rfl
@[simp] theorem State.setCluster_userQs (s : State) (i : Nat) (v : Cluster) : (s.setCluster i v).userQs = s.userQs := rfl
@[simp] theorem State.setCluster_uqSlots (s : State) (i : Nat) (v : Cluster) : (s.setCluster i v).uqSlots = s.uqSlots := rfl
@[simp] theorem State.setCluster_graphs (s : State) (i : Nat) (v : Cluster) : (s.setCluster i v).graphs = s.graphs := rfl
@[simp] theorem State.setCluster_graphWait (s : State) (i : Nat) (v : Cluster) : (s.setCluster i v).graphWait = s.graphWait := rfl
@[simp] theorem State.setCluster_spills (s : State) (i : Nat) (v : Cluster) : (s.setCluster i v).spills = s.spills := rfl
@[simp] theorem State.setCluster_grooms (s : State) (i : Nat) (v : Cluster) : (s.setCluster i v).grooms = s.grooms := rfl
@[simp] theorem State.setCluster_budgets (s : State) (i : Nat) (v : Cluster) : (s.setCluster i v).budgets = s.budgets := rfl
@[simp] theorem State.setCluster_banks (s : State) (i : Nat) (v : Cluster) : (s.setCluster i v).banks = s.banks := rfl
@[simp] theorem State.setCluster_rfms (s : State) (i : Nat) (v : Cluster) : (s.setCluster i v).rfms = s.rfms := rfl
@[simp] theorem State.setCluster_links (s : State) (i : Nat) (v : Cluster) : (s.setCluster i v).links = s.links := rfl
@[simp] theorem State.setCluster_ioWins (s : State) (i : Nat) (v : Cluster) : (s.setCluster i v).ioWins = s.ioWins := rfl
@[simp] theorem State.setCluster_outbox (s : State) (i : Nat) (v : Cluster) : (s.setCluster i v).outbox = s.outbox := rfl
@[simp] theorem State.setCluster_inq (s : State) (i : Nat) (v : Cluster) : (s.setCluster i v).inq = s.inq := rfl
@[simp] theorem State.setCluster_engNow (s : State) (i : Nat) (v : Cluster) : (s.setCluster i v).engNow = s.engNow := rfl
@[simp] theorem State.setCluster_sents (s : State) (i : Nat) (v : Cluster) : (s.setCluster i v).sents = s.sents := rfl
@[simp] theorem State.setCluster_lates (s : State) (i : Nat) (v : Cluster) : (s.setCluster i v).lates = s.lates := rfl
@[simp] theorem State.setCluster_fws (s : State) (i : Nat) (v : Cluster) : (s.setCluster i v).fws = s.fws := rfl
@[simp] theorem State.setCluster_safe (s : State) (i : Nat) (v : Cluster) : (s.setCluster i v).safe = s.safe := rfl
@[simp] theorem State.setCluster_evl (s : State) (i : Nat) (v : Cluster) : (s.setCluster i v).evl = s.evl := rfl
@[simp] theorem State.setCluster_mbxs (s : State) (i : Nat) (v : Cluster) : (s.setCluster i v).mbxs = s.mbxs := rfl
@[simp] theorem State.setCluster_mbxNext (s : State) (i : Nat) (v : Cluster) : (s.setCluster i v).mbxNext = s.mbxNext := rfl
@[simp] theorem State.setCluster_penQ (s : State) (i : Nat) (v : Cluster) : (s.setCluster i v).penQ = s.penQ := rfl
@[simp] theorem State.setCluster_corrected (s : State) (i : Nat) (v : Cluster) : (s.setCluster i v).corrected = s.corrected := rfl
@[simp] theorem State.setCluster_leaf (s : State) (i : Nat) (v : Cluster) : (s.setCluster i v).leaf = s.leaf := rfl
@[simp] theorem State.setCluster_physRead (s : State) (i : Nat) (v : Cluster) (a n : Nat) :
    (s.setCluster i v).physRead a n = s.physRead a n := rfl

/-! ### `setPen` -/

@[simp] theorem State.pen_setPen_same (s : State) (i : Nat) (v : Pen) : (s.setPen i v).pen i = v :=
  sget_sput_same _ _ _ _
theorem State.pen_setPen_other (s : State) {i j : Nat} (v : Pen) (h : j ≠ i) : (s.setPen i v).pen j = s.pen j :=
  sget_sput_other _ _ _ h
theorem State.pen_setPen (s : State) (i j : Nat) (v : Pen) :
    (s.setPen i v).pen j = if j = i then v else s.pen j := sget_sput _ _ _ _ _
@[simp] theorem State.setPen_setPen (s : State) (i : Nat) (v w : Pen) : (s.setPen i v).setPen i w = s.setPen i w := by
  unfold State.setPen; simp
@[simp] theorem State.ctx_setPen (s : State) (i j : Nat) (v : Pen) : (s.setPen i v).ctx j = s.ctx j := rfl
@[simp] theorem State.core_setPen (s : State) (i j : Nat) (v : Pen) : (s.setPen i v).core j = s.core j := rfl
@[simp] theorem State.cluster_setPen (s : State) (i j : Nat) (v : Pen) : (s.setPen i v).cluster j = s.cluster j := rfl
@[simp] theorem State.setPen_plan (s : State) (i : Nat) (v : Pen) : (s.setPen i v).plan = s.plan := rfl
@[simp] theorem State.setPen_turn (s : State) (i : Nat) (v : Pen) : (s.setPen i v).turn = s.turn := rfl
@[simp] theorem State.setPen_round (s : State) (i : Nat) (v : Pen) : (s.setPen i v).round = s.round := rfl
@[simp] theorem State.setPen_free (s : State) (i : Nat) (v : Pen) : (s.setPen i v).free = s.free := rfl
@[simp] theorem State.setPen_tally (s : State) (i : Nat) (v : Pen) : (s.setPen i v).tally = s.tally := rfl
@[simp] theorem State.setPen_paidBy (s : State) (i : Nat) (v : Pen) : (s.setPen i v).paidBy = s.paidBy := rfl
@[simp] theorem State.setPen_heats (s : State) (i : Nat) (v : Pen) : (s.setPen i v).heats = s.heats := rfl
@[simp] theorem State.setPen_posts (s : State) (i : Nat) (v : Pen) : (s.setPen i v).posts = s.posts := rfl
@[simp] theorem State.setPen_issue (s : State) (i : Nat) (v : Pen) : (s.setPen i v).issue = s.issue := rfl
@[simp] theorem State.setPen_groomNow (s : State) (i : Nat) (v : Pen) : (s.setPen i v).groomNow = s.groomNow := rfl
@[simp] theorem State.setPen_booted (s : State) (i : Nat) (v : Pen) : (s.setPen i v).booted = s.booted := rfl
@[simp] theorem State.setPen_seq (s : State) (i : Nat) (v : Pen) : (s.setPen i v).seq = s.seq := rfl
@[simp] theorem State.setPen_mem (s : State) (i : Nat) (v : Pen) : (s.setPen i v).mem = s.mem := rfl
@[simp] theorem State.setPen_ctxs (s : State) (i : Nat) (v : Pen) : (s.setPen i v).ctxs = s.ctxs := rfl
@[simp] theorem State.setPen_cores (s : State) (i : Nat) (v : Pen) : (s.setPen i v).cores = s.cores := rfl
@[simp] theorem State.setPen_clusters (s : State) (i : Nat) (v : Pen) : (s.setPen i v).clusters = s.clusters := rfl
@[simp] theorem State.setPen_use (s : State) (i : Nat) (v : Pen) : (s.setPen i v).use = s.use := rfl
@[simp] theorem State.setPen_fmask (s : State) (i : Nat) (v : Pen) : (s.setPen i v).fmask = s.fmask := rfl
@[simp] theorem State.setPen_dieTlb (s : State) (i : Nat) (v : Pen) : (s.setPen i v).dieTlb = s.dieTlb := rfl
@[simp] theorem State.setPen_tframes (s : State) (i : Nat) (v : Pen) : (s.setPen i v).tframes = s.tframes := rfl
@[simp] theorem State.setPen_pkg (s : State) (i : Nat) (v : Pen) : (s.setPen i v).pkg = s.pkg := rfl
@[simp] theorem State.setPen_cmds (s : State) (i : Nat) (v : Pen) : (s.setPen i v).cmds = s.cmds := rfl
@[simp] theorem State.setPen_launches (s : State) (i : Nat) (v : Pen) : (s.setPen i v).launches = s.launches := rfl
@[simp] theorem State.setPen_jobs (s : State) (i : Nat) (v : Pen) : (s.setPen i v).jobs = s.jobs := rfl
@[simp] theorem State.setPen_tasks (s : State) (i : Nat) (v : Pen) : (s.setPen i v).tasks = s.tasks := rfl
@[simp] theorem State.setPen_gangs (s : State) (i : Nat) (v : Pen) : (s.setPen i v).gangs = s.gangs := rfl
@[simp] theorem State.setPen_nextLaunch (s : State) (i : Nat) (v : Pen) : (s.setPen i v).nextLaunch = s.nextLaunch := rfl
@[simp] theorem State.setPen_nextJob (s : State) (i : Nat) (v : Pen) : (s.setPen i v).nextJob = s.nextJob := rfl
@[simp] theorem State.setPen_nextTask (s : State) (i : Nat) (v : Pen) : (s.setPen i v).nextTask = s.nextTask := rfl
@[simp] theorem State.setPen_nextGang (s : State) (i : Nat) (v : Pen) : (s.setPen i v).nextGang = s.nextGang := rfl
@[simp] theorem State.setPen_barReqs (s : State) (i : Nat) (v : Pen) : (s.setPen i v).barReqs = s.barReqs := rfl
@[simp] theorem State.setPen_queues (s : State) (i : Nat) (v : Pen) : (s.setPen i v).queues = s.queues := rfl
@[simp] theorem State.setPen_pools (s : State) (i : Nat) (v : Pen) : (s.setPen i v).pools = s.pools := rfl
@[simp] theorem State.setPen_userQs (s : State) (i : Nat) (v : Pen) : (s.setPen i v).userQs = s.userQs := rfl
@[simp] theorem State.setPen_uqSlots (s : State) (i : Nat) (v : Pen) : (s.setPen i v).uqSlots = s.uqSlots := rfl
@[simp] theorem State.setPen_graphs (s : State) (i : Nat) (v : Pen) : (s.setPen i v).graphs = s.graphs := rfl
@[simp] theorem State.setPen_graphWait (s : State) (i : Nat) (v : Pen) : (s.setPen i v).graphWait = s.graphWait := rfl
@[simp] theorem State.setPen_spills (s : State) (i : Nat) (v : Pen) : (s.setPen i v).spills = s.spills := rfl
@[simp] theorem State.setPen_grooms (s : State) (i : Nat) (v : Pen) : (s.setPen i v).grooms = s.grooms := rfl
@[simp] theorem State.setPen_budgets (s : State) (i : Nat) (v : Pen) : (s.setPen i v).budgets = s.budgets := rfl
@[simp] theorem State.setPen_banks (s : State) (i : Nat) (v : Pen) : (s.setPen i v).banks = s.banks := rfl
@[simp] theorem State.setPen_rfms (s : State) (i : Nat) (v : Pen) : (s.setPen i v).rfms = s.rfms := rfl
@[simp] theorem State.setPen_links (s : State) (i : Nat) (v : Pen) : (s.setPen i v).links = s.links := rfl
@[simp] theorem State.setPen_ioWins (s : State) (i : Nat) (v : Pen) : (s.setPen i v).ioWins = s.ioWins := rfl
@[simp] theorem State.setPen_outbox (s : State) (i : Nat) (v : Pen) : (s.setPen i v).outbox = s.outbox := rfl
@[simp] theorem State.setPen_inq (s : State) (i : Nat) (v : Pen) : (s.setPen i v).inq = s.inq := rfl
@[simp] theorem State.setPen_engNow (s : State) (i : Nat) (v : Pen) : (s.setPen i v).engNow = s.engNow := rfl
@[simp] theorem State.setPen_sents (s : State) (i : Nat) (v : Pen) : (s.setPen i v).sents = s.sents := rfl
@[simp] theorem State.setPen_lates (s : State) (i : Nat) (v : Pen) : (s.setPen i v).lates = s.lates := rfl
@[simp] theorem State.setPen_fws (s : State) (i : Nat) (v : Pen) : (s.setPen i v).fws = s.fws := rfl
@[simp] theorem State.setPen_safe (s : State) (i : Nat) (v : Pen) : (s.setPen i v).safe = s.safe := rfl
@[simp] theorem State.setPen_evl (s : State) (i : Nat) (v : Pen) : (s.setPen i v).evl = s.evl := rfl
@[simp] theorem State.setPen_mbxs (s : State) (i : Nat) (v : Pen) : (s.setPen i v).mbxs = s.mbxs := rfl
@[simp] theorem State.setPen_mbxNext (s : State) (i : Nat) (v : Pen) : (s.setPen i v).mbxNext = s.mbxNext := rfl
@[simp] theorem State.setPen_penQ (s : State) (i : Nat) (v : Pen) : (s.setPen i v).penQ = s.penQ := rfl
@[simp] theorem State.setPen_corrected (s : State) (i : Nat) (v : Pen) : (s.setPen i v).corrected = s.corrected := rfl
@[simp] theorem State.setPen_leaf (s : State) (i : Nat) (v : Pen) : (s.setPen i v).leaf = s.leaf := rfl
@[simp] theorem State.setPen_physRead (s : State) (i : Nat) (v : Pen) (a n : Nat) :
    (s.setPen i v).physRead a n = s.physRead a n := rfl

/-! ### The record of the bundle -/

@[simp] theorem State.ctx_withIssue (s : State) (x : Issue) (i : Nat) : State.ctx { s with issue := x } i = s.ctx i := rfl
@[simp] theorem State.setCtx_withIssue (s : State) (x : Issue) (i : Nat) (v : Ctx) :
    State.setCtx { s with issue := x } i v = { s.setCtx i v with issue := x } := rfl
@[simp] theorem State.core_withIssue (s : State) (x : Issue) (i : Nat) : State.core { s with issue := x } i = s.core i := rfl
@[simp] theorem State.setCore_withIssue (s : State) (x : Issue) (i : Nat) (v : Core) :
    State.setCore { s with issue := x } i v = { s.setCore i v with issue := x } := rfl
@[simp] theorem State.cluster_withIssue (s : State) (x : Issue) (i : Nat) : State.cluster { s with issue := x } i = s.cluster i := rfl
@[simp] theorem State.setCluster_withIssue (s : State) (x : Issue) (i : Nat) (v : Cluster) :
    State.setCluster { s with issue := x } i v = { s.setCluster i v with issue := x } := rfl
@[simp] theorem State.pen_withIssue (s : State) (x : Issue) (i : Nat) : State.pen { s with issue := x } i = s.pen i := rfl
@[simp] theorem State.setPen_withIssue (s : State) (x : Issue) (i : Nat) (v : Pen) :
    State.setPen { s with issue := x } i v = { s.setPen i v with issue := x } := rfl
@[simp] theorem State.physRead_withIssue (s : State) (x : Issue) (a n : Nat) :
    State.physRead { s with issue := x } a n = s.physRead a n := rfl

/-! ### Registers of a context -/

@[simp] theorem Ctx.setP_st (c : Ctx) (i : BitVec 4) (v : Bool) : (c.setP i v).st = c.st := rfl
@[simp] theorem Ctx.setP_task (c : Ctx) (i : BitVec 4) (v : Bool) : (c.setP i v).task = c.task := rfl
@[simp] theorem Ctx.setP_pc (c : Ctx) (i : BitVec 4) (v : Bool) : (c.setP i v).pc = c.pc := rfl
@[simp] theorem Ctx.setP_xs (c : Ctx) (i : BitVec 4) (v : Bool) : (c.setP i v).xs = c.xs := rfl
@[simp] theorem Ctx.setP_vs (c : Ctx) (i : BitVec 4) (v : Bool) : (c.setP i v).vs = c.vs := rfl
@[simp] theorem Ctx.setP_ms (c : Ctx) (i : BitVec 4) (v : Bool) : (c.setP i v).ms = c.ms := rfl
@[simp] theorem Ctx.setP_es (c : Ctx) (i : BitVec 4) (v : Bool) : (c.setP i v).es = c.es := rfl
@[simp] theorem Ctx.setP_acc (c : Ctx) (i : BitVec 4) (v : Bool) : (c.setP i v).acc = c.acc := rfl
@[simp] theorem Ctx.setP_latch (c : Ctx) (i : BitVec 4) (v : Bool) : (c.setP i v).latch = c.latch := rfl
@[simp] theorem Ctx.setP_fpflags (c : Ctx) (i : BitVec 4) (v : Bool) : (c.setP i v).fpflags = c.fpflags := rfl
@[simp] theorem Ctx.setP_fprec (c : Ctx) (i : BitVec 4) (v : Bool) : (c.setP i v).fprec = c.fprec := rfl
@[simp] theorem Ctx.setP_loops (c : Ctx) (i : BitVec 4) (v : Bool) : (c.setP i v).loops = c.loops := rfl
@[simp] theorem Ctx.setP_region (c : Ctx) (i : BitVec 4) (v : Bool) : (c.setP i v).region = c.region := rfl
@[simp] theorem Ctx.setP_hct (c : Ctx) (i : BitVec 4) (v : Bool) : (c.setP i v).hct = c.hct := rfl
@[simp] theorem Ctx.setP_wid (c : Ctx) (i : BitVec 4) (v : Bool) : (c.setP i v).wid = c.wid := rfl
@[simp] theorem Ctx.setP_pen (c : Ctx) (i : BitVec 4) (v : Bool) : (c.setP i v).pen = c.pen := rfl
@[simp] theorem Ctx.setP_prio (c : Ctx) (i : BitVec 4) (v : Bool) : (c.setP i v).prio = c.prio := rfl
@[simp] theorem Ctx.setP_mpc (c : Ctx) (i : BitVec 4) (v : Bool) : (c.setP i v).mpc = c.mpc := rfl
@[simp] theorem Ctx.setP_waitlim (c : Ctx) (i : BitVec 4) (v : Bool) : (c.setP i v).waitlim = c.waitlim := rfl
@[simp] theorem Ctx.setP_mft (c : Ctx) (i : BitVec 4) (v : Bool) : (c.setP i v).mft = c.mft := rfl
@[simp] theorem Ctx.setP_nextcid (c : Ctx) (i : BitVec 4) (v : Bool) : (c.setP i v).nextcid = c.nextcid := rfl
@[simp] theorem Ctx.setP_rings (c : Ctx) (i : BitVec 4) (v : Bool) : (c.setP i v).rings = c.rings := rfl
@[simp] theorem Ctx.setP_mcbase (c : Ctx) (i : BitVec 4) (v : Bool) : (c.setP i v).mcbase = c.mcbase := rfl
@[simp] theorem Ctx.setP_mcmask (c : Ctx) (i : BitVec 4) (v : Bool) : (c.setP i v).mcmask = c.mcmask := rfl
@[simp] theorem Ctx.setP_eng (c : Ctx) (i : BitVec 4) (v : Bool) : (c.setP i v).eng = c.eng := rfl
@[simp] theorem Ctx.setP_ports (c : Ctx) (i : BitVec 4) (v : Bool) : (c.setP i v).ports = c.ports := rfl
@[simp] theorem Ctx.setP_status (c : Ctx) (i : BitVec 4) (v : Bool) : (c.setP i v).status = c.status := rfl
@[simp] theorem Ctx.setP_arrivals (c : Ctx) (i : BitVec 4) (v : Bool) : (c.setP i v).arrivals = c.arrivals := rfl
@[simp] theorem Ctx.setP_denial (c : Ctx) (i : BitVec 4) (v : Bool) : (c.setP i v).denial = c.denial := rfl
@[simp] theorem Ctx.setP_sole (c : Ctx) (i : BitVec 4) (v : Bool) : (c.setP i v).sole = c.sole := rfl
@[simp] theorem Ctx.setP_yielded (c : Ctx) (i : BitVec 4) (v : Bool) : (c.setP i v).yielded = c.yielded := rfl
@[simp] theorem Ctx.setP_sb (c : Ctx) (i : BitVec 4) (v : Bool) : (c.setP i v).sb = c.sb := rfl
@[simp] theorem Ctx.setP_divFree (c : Ctx) (i : BitVec 4) (v : Bool) : (c.setP i v).divFree = c.divFree := rfl
@[simp] theorem Ctx.setP_sfuDue (c : Ctx) (i : BitVec 4) (v : Bool) : (c.setP i v).sfuDue = c.sfuDue := rfl
@[simp] theorem Ctx.setP_scl (c : Ctx) (i : BitVec 4) (v : Bool) : (c.setP i v).scl = c.scl := rfl
@[simp] theorem Ctx.setP_gath (c : Ctx) (i : BitVec 4) (v : Bool) : (c.setP i v).gath = c.gath := rfl
@[simp] theorem Ctx.setP_tlbshBusy (c : Ctx) (i : BitVec 4) (v : Bool) : (c.setP i v).tlbshBusy = c.tlbshBusy := rfl
@[simp] theorem Ctx.setP_cacheBusy (c : Ctx) (i : BitVec 4) (v : Bool) : (c.setP i v).cacheBusy = c.cacheBusy := rfl
@[simp] theorem Ctx.setP_ans (c : Ctx) (i : BitVec 4) (v : Bool) : (c.setP i v).ans = c.ans := rfl
@[simp] theorem Ctx.setP_remote (c : Ctx) (i : BitVec 4) (v : Bool) : (c.setP i v).remote = c.remote := rfl
@[simp] theorem Ctx.setP_acks (c : Ctx) (i : BitVec 4) (v : Bool) : (c.setP i v).acks = c.acks := rfl
@[simp] theorem Ctx.setP_drain (c : Ctx) (i : BitVec 4) (v : Bool) : (c.setP i v).drain = c.drain := rfl
@[simp] theorem Ctx.setP_fence (c : Ctx) (i : BitVec 4) (v : Bool) : (c.setP i v).fence = c.fence := rfl
@[simp] theorem Ctx.setP_fdrop (c : Ctx) (i : BitVec 4) (v : Bool) : (c.setP i v).fdrop = c.fdrop := rfl
@[simp] theorem Ctx.setP_paid (c : Ctx) (i : BitVec 4) (v : Bool) : (c.setP i v).paid = c.paid := rfl
@[simp] theorem Ctx.setP_leave (c : Ctx) (i : BitVec 4) (v : Bool) : (c.setP i v).leave = c.leave := rfl
@[simp] theorem Ctx.setP_cause (c : Ctx) (i : BitVec 4) (v : Bool) : (c.setP i v).cause = c.cause := rfl
@[simp] theorem Ctx.setP_halted (c : Ctx) (i : BitVec 4) (v : Bool) : (c.setP i v).halted = c.halted := rfl
@[simp] theorem Ctx.setP_todo (c : Ctx) (i : BitVec 4) (v : Bool) : (c.setP i v).todo = c.todo := rfl
@[simp] theorem Ctx.setP_rearm (c : Ctx) (i : BitVec 4) (v : Bool) : (c.setP i v).rearm = c.rearm := rfl

@[simp] theorem Ctx.setV_st (c : Ctx) (i : BitVec 6) (v : VWord) : (c.setV i v).st = c.st := rfl
@[simp] theorem Ctx.setV_task (c : Ctx) (i : BitVec 6) (v : VWord) : (c.setV i v).task = c.task := rfl
@[simp] theorem Ctx.setV_pc (c : Ctx) (i : BitVec 6) (v : VWord) : (c.setV i v).pc = c.pc := rfl
@[simp] theorem Ctx.setV_xs (c : Ctx) (i : BitVec 6) (v : VWord) : (c.setV i v).xs = c.xs := rfl
@[simp] theorem Ctx.setV_ps (c : Ctx) (i : BitVec 6) (v : VWord) : (c.setV i v).ps = c.ps := rfl
@[simp] theorem Ctx.setV_ms (c : Ctx) (i : BitVec 6) (v : VWord) : (c.setV i v).ms = c.ms := rfl
@[simp] theorem Ctx.setV_es (c : Ctx) (i : BitVec 6) (v : VWord) : (c.setV i v).es = c.es := rfl
@[simp] theorem Ctx.setV_acc (c : Ctx) (i : BitVec 6) (v : VWord) : (c.setV i v).acc = c.acc := rfl
@[simp] theorem Ctx.setV_latch (c : Ctx) (i : BitVec 6) (v : VWord) : (c.setV i v).latch = c.latch := rfl
@[simp] theorem Ctx.setV_fpflags (c : Ctx) (i : BitVec 6) (v : VWord) : (c.setV i v).fpflags = c.fpflags := rfl
@[simp] theorem Ctx.setV_fprec (c : Ctx) (i : BitVec 6) (v : VWord) : (c.setV i v).fprec = c.fprec := rfl
@[simp] theorem Ctx.setV_loops (c : Ctx) (i : BitVec 6) (v : VWord) : (c.setV i v).loops = c.loops := rfl
@[simp] theorem Ctx.setV_region (c : Ctx) (i : BitVec 6) (v : VWord) : (c.setV i v).region = c.region := rfl
@[simp] theorem Ctx.setV_hct (c : Ctx) (i : BitVec 6) (v : VWord) : (c.setV i v).hct = c.hct := rfl
@[simp] theorem Ctx.setV_wid (c : Ctx) (i : BitVec 6) (v : VWord) : (c.setV i v).wid = c.wid := rfl
@[simp] theorem Ctx.setV_pen (c : Ctx) (i : BitVec 6) (v : VWord) : (c.setV i v).pen = c.pen := rfl
@[simp] theorem Ctx.setV_prio (c : Ctx) (i : BitVec 6) (v : VWord) : (c.setV i v).prio = c.prio := rfl
@[simp] theorem Ctx.setV_mpc (c : Ctx) (i : BitVec 6) (v : VWord) : (c.setV i v).mpc = c.mpc := rfl
@[simp] theorem Ctx.setV_waitlim (c : Ctx) (i : BitVec 6) (v : VWord) : (c.setV i v).waitlim = c.waitlim := rfl
@[simp] theorem Ctx.setV_mft (c : Ctx) (i : BitVec 6) (v : VWord) : (c.setV i v).mft = c.mft := rfl
@[simp] theorem Ctx.setV_nextcid (c : Ctx) (i : BitVec 6) (v : VWord) : (c.setV i v).nextcid = c.nextcid := rfl
@[simp] theorem Ctx.setV_rings (c : Ctx) (i : BitVec 6) (v : VWord) : (c.setV i v).rings = c.rings := rfl
@[simp] theorem Ctx.setV_mcbase (c : Ctx) (i : BitVec 6) (v : VWord) : (c.setV i v).mcbase = c.mcbase := rfl
@[simp] theorem Ctx.setV_mcmask (c : Ctx) (i : BitVec 6) (v : VWord) : (c.setV i v).mcmask = c.mcmask := rfl
@[simp] theorem Ctx.setV_eng (c : Ctx) (i : BitVec 6) (v : VWord) : (c.setV i v).eng = c.eng := rfl
@[simp] theorem Ctx.setV_ports (c : Ctx) (i : BitVec 6) (v : VWord) : (c.setV i v).ports = c.ports := rfl
@[simp] theorem Ctx.setV_status (c : Ctx) (i : BitVec 6) (v : VWord) : (c.setV i v).status = c.status := rfl
@[simp] theorem Ctx.setV_arrivals (c : Ctx) (i : BitVec 6) (v : VWord) : (c.setV i v).arrivals = c.arrivals := rfl
@[simp] theorem Ctx.setV_denial (c : Ctx) (i : BitVec 6) (v : VWord) : (c.setV i v).denial = c.denial := rfl
@[simp] theorem Ctx.setV_sole (c : Ctx) (i : BitVec 6) (v : VWord) : (c.setV i v).sole = c.sole := rfl
@[simp] theorem Ctx.setV_yielded (c : Ctx) (i : BitVec 6) (v : VWord) : (c.setV i v).yielded = c.yielded := rfl
@[simp] theorem Ctx.setV_sb (c : Ctx) (i : BitVec 6) (v : VWord) : (c.setV i v).sb = c.sb := rfl
@[simp] theorem Ctx.setV_divFree (c : Ctx) (i : BitVec 6) (v : VWord) : (c.setV i v).divFree = c.divFree := rfl
@[simp] theorem Ctx.setV_sfuDue (c : Ctx) (i : BitVec 6) (v : VWord) : (c.setV i v).sfuDue = c.sfuDue := rfl
@[simp] theorem Ctx.setV_scl (c : Ctx) (i : BitVec 6) (v : VWord) : (c.setV i v).scl = c.scl := rfl
@[simp] theorem Ctx.setV_gath (c : Ctx) (i : BitVec 6) (v : VWord) : (c.setV i v).gath = c.gath.filter (fun r => r.vd != i) := rfl
@[simp] theorem Ctx.setV_tlbshBusy (c : Ctx) (i : BitVec 6) (v : VWord) : (c.setV i v).tlbshBusy = c.tlbshBusy := rfl
@[simp] theorem Ctx.setV_cacheBusy (c : Ctx) (i : BitVec 6) (v : VWord) : (c.setV i v).cacheBusy = c.cacheBusy := rfl
@[simp] theorem Ctx.setV_ans (c : Ctx) (i : BitVec 6) (v : VWord) : (c.setV i v).ans = c.ans := rfl
@[simp] theorem Ctx.setV_remote (c : Ctx) (i : BitVec 6) (v : VWord) : (c.setV i v).remote = c.remote := rfl
@[simp] theorem Ctx.setV_acks (c : Ctx) (i : BitVec 6) (v : VWord) : (c.setV i v).acks = c.acks := rfl
@[simp] theorem Ctx.setV_drain (c : Ctx) (i : BitVec 6) (v : VWord) : (c.setV i v).drain = c.drain := rfl
@[simp] theorem Ctx.setV_fence (c : Ctx) (i : BitVec 6) (v : VWord) : (c.setV i v).fence = c.fence := rfl
@[simp] theorem Ctx.setV_fdrop (c : Ctx) (i : BitVec 6) (v : VWord) : (c.setV i v).fdrop = c.fdrop := rfl
@[simp] theorem Ctx.setV_paid (c : Ctx) (i : BitVec 6) (v : VWord) : (c.setV i v).paid = c.paid := rfl
@[simp] theorem Ctx.setV_leave (c : Ctx) (i : BitVec 6) (v : VWord) : (c.setV i v).leave = c.leave := rfl
@[simp] theorem Ctx.setV_cause (c : Ctx) (i : BitVec 6) (v : VWord) : (c.setV i v).cause = c.cause := rfl
@[simp] theorem Ctx.setV_halted (c : Ctx) (i : BitVec 6) (v : VWord) : (c.setV i v).halted = c.halted := rfl
@[simp] theorem Ctx.setV_todo (c : Ctx) (i : BitVec 6) (v : VWord) : (c.setV i v).todo = c.todo := rfl
@[simp] theorem Ctx.setV_rearm (c : Ctx) (i : BitVec 6) (v : VWord) : (c.setV i v).rearm = c.rearm := rfl

@[simp] theorem Ctx.setE_st (c : Ctx) (i : BitVec 4) (v : BitVec 512) : (c.setE i v).st = c.st := rfl
@[simp] theorem Ctx.setE_task (c : Ctx) (i : BitVec 4) (v : BitVec 512) : (c.setE i v).task = c.task := rfl
@[simp] theorem Ctx.setE_pc (c : Ctx) (i : BitVec 4) (v : BitVec 512) : (c.setE i v).pc = c.pc := rfl
@[simp] theorem Ctx.setE_xs (c : Ctx) (i : BitVec 4) (v : BitVec 512) : (c.setE i v).xs = c.xs := rfl
@[simp] theorem Ctx.setE_ps (c : Ctx) (i : BitVec 4) (v : BitVec 512) : (c.setE i v).ps = c.ps := rfl
@[simp] theorem Ctx.setE_vs (c : Ctx) (i : BitVec 4) (v : BitVec 512) : (c.setE i v).vs = c.vs := rfl
@[simp] theorem Ctx.setE_ms (c : Ctx) (i : BitVec 4) (v : BitVec 512) : (c.setE i v).ms = c.ms := rfl
@[simp] theorem Ctx.setE_acc (c : Ctx) (i : BitVec 4) (v : BitVec 512) : (c.setE i v).acc = c.acc := rfl
@[simp] theorem Ctx.setE_latch (c : Ctx) (i : BitVec 4) (v : BitVec 512) : (c.setE i v).latch = c.latch := rfl
@[simp] theorem Ctx.setE_fpflags (c : Ctx) (i : BitVec 4) (v : BitVec 512) : (c.setE i v).fpflags = c.fpflags := rfl
@[simp] theorem Ctx.setE_fprec (c : Ctx) (i : BitVec 4) (v : BitVec 512) : (c.setE i v).fprec = c.fprec := rfl
@[simp] theorem Ctx.setE_loops (c : Ctx) (i : BitVec 4) (v : BitVec 512) : (c.setE i v).loops = c.loops := rfl
@[simp] theorem Ctx.setE_region (c : Ctx) (i : BitVec 4) (v : BitVec 512) : (c.setE i v).region = c.region := rfl
@[simp] theorem Ctx.setE_hct (c : Ctx) (i : BitVec 4) (v : BitVec 512) : (c.setE i v).hct = c.hct := rfl
@[simp] theorem Ctx.setE_wid (c : Ctx) (i : BitVec 4) (v : BitVec 512) : (c.setE i v).wid = c.wid := rfl
@[simp] theorem Ctx.setE_pen (c : Ctx) (i : BitVec 4) (v : BitVec 512) : (c.setE i v).pen = c.pen := rfl
@[simp] theorem Ctx.setE_prio (c : Ctx) (i : BitVec 4) (v : BitVec 512) : (c.setE i v).prio = c.prio := rfl
@[simp] theorem Ctx.setE_mpc (c : Ctx) (i : BitVec 4) (v : BitVec 512) : (c.setE i v).mpc = c.mpc := rfl
@[simp] theorem Ctx.setE_waitlim (c : Ctx) (i : BitVec 4) (v : BitVec 512) : (c.setE i v).waitlim = c.waitlim := rfl
@[simp] theorem Ctx.setE_mft (c : Ctx) (i : BitVec 4) (v : BitVec 512) : (c.setE i v).mft = c.mft := rfl
@[simp] theorem Ctx.setE_nextcid (c : Ctx) (i : BitVec 4) (v : BitVec 512) : (c.setE i v).nextcid = c.nextcid := rfl
@[simp] theorem Ctx.setE_rings (c : Ctx) (i : BitVec 4) (v : BitVec 512) : (c.setE i v).rings = c.rings := rfl
@[simp] theorem Ctx.setE_mcbase (c : Ctx) (i : BitVec 4) (v : BitVec 512) : (c.setE i v).mcbase = c.mcbase := rfl
@[simp] theorem Ctx.setE_mcmask (c : Ctx) (i : BitVec 4) (v : BitVec 512) : (c.setE i v).mcmask = c.mcmask := rfl
@[simp] theorem Ctx.setE_eng (c : Ctx) (i : BitVec 4) (v : BitVec 512) : (c.setE i v).eng = c.eng := rfl
@[simp] theorem Ctx.setE_ports (c : Ctx) (i : BitVec 4) (v : BitVec 512) : (c.setE i v).ports = c.ports := rfl
@[simp] theorem Ctx.setE_status (c : Ctx) (i : BitVec 4) (v : BitVec 512) : (c.setE i v).status = c.status := rfl
@[simp] theorem Ctx.setE_arrivals (c : Ctx) (i : BitVec 4) (v : BitVec 512) : (c.setE i v).arrivals = c.arrivals := rfl
@[simp] theorem Ctx.setE_denial (c : Ctx) (i : BitVec 4) (v : BitVec 512) : (c.setE i v).denial = c.denial := rfl
@[simp] theorem Ctx.setE_sole (c : Ctx) (i : BitVec 4) (v : BitVec 512) : (c.setE i v).sole = c.sole := rfl
@[simp] theorem Ctx.setE_yielded (c : Ctx) (i : BitVec 4) (v : BitVec 512) : (c.setE i v).yielded = c.yielded := rfl
@[simp] theorem Ctx.setE_sb (c : Ctx) (i : BitVec 4) (v : BitVec 512) : (c.setE i v).sb = c.sb := rfl
@[simp] theorem Ctx.setE_divFree (c : Ctx) (i : BitVec 4) (v : BitVec 512) : (c.setE i v).divFree = c.divFree := rfl
@[simp] theorem Ctx.setE_sfuDue (c : Ctx) (i : BitVec 4) (v : BitVec 512) : (c.setE i v).sfuDue = c.sfuDue := rfl
@[simp] theorem Ctx.setE_scl (c : Ctx) (i : BitVec 4) (v : BitVec 512) : (c.setE i v).scl = c.scl := rfl
@[simp] theorem Ctx.setE_gath (c : Ctx) (i : BitVec 4) (v : BitVec 512) : (c.setE i v).gath = c.gath := rfl
@[simp] theorem Ctx.setE_tlbshBusy (c : Ctx) (i : BitVec 4) (v : BitVec 512) : (c.setE i v).tlbshBusy = c.tlbshBusy := rfl
@[simp] theorem Ctx.setE_cacheBusy (c : Ctx) (i : BitVec 4) (v : BitVec 512) : (c.setE i v).cacheBusy = c.cacheBusy := rfl
@[simp] theorem Ctx.setE_ans (c : Ctx) (i : BitVec 4) (v : BitVec 512) : (c.setE i v).ans = c.ans := rfl
@[simp] theorem Ctx.setE_remote (c : Ctx) (i : BitVec 4) (v : BitVec 512) : (c.setE i v).remote = c.remote := rfl
@[simp] theorem Ctx.setE_acks (c : Ctx) (i : BitVec 4) (v : BitVec 512) : (c.setE i v).acks = c.acks := rfl
@[simp] theorem Ctx.setE_drain (c : Ctx) (i : BitVec 4) (v : BitVec 512) : (c.setE i v).drain = c.drain := rfl
@[simp] theorem Ctx.setE_fence (c : Ctx) (i : BitVec 4) (v : BitVec 512) : (c.setE i v).fence = c.fence := rfl
@[simp] theorem Ctx.setE_fdrop (c : Ctx) (i : BitVec 4) (v : BitVec 512) : (c.setE i v).fdrop = c.fdrop := rfl
@[simp] theorem Ctx.setE_paid (c : Ctx) (i : BitVec 4) (v : BitVec 512) : (c.setE i v).paid = c.paid := rfl
@[simp] theorem Ctx.setE_leave (c : Ctx) (i : BitVec 4) (v : BitVec 512) : (c.setE i v).leave = c.leave := rfl
@[simp] theorem Ctx.setE_cause (c : Ctx) (i : BitVec 4) (v : BitVec 512) : (c.setE i v).cause = c.cause := rfl
@[simp] theorem Ctx.setE_halted (c : Ctx) (i : BitVec 4) (v : BitVec 512) : (c.setE i v).halted = c.halted := rfl
@[simp] theorem Ctx.setE_todo (c : Ctx) (i : BitVec 4) (v : BitVec 512) : (c.setE i v).todo = c.todo := rfl
@[simp] theorem Ctx.setE_rearm (c : Ctx) (i : BitVec 4) (v : BitVec 512) : (c.setE i v).rearm = c.rearm := rfl

@[simp] theorem Ctx.setBank_st (c : Ctx) (i : BitVec 2) (v : VWord) : (c.setBank i v).st = c.st := rfl
@[simp] theorem Ctx.setBank_task (c : Ctx) (i : BitVec 2) (v : VWord) : (c.setBank i v).task = c.task := rfl
@[simp] theorem Ctx.setBank_pc (c : Ctx) (i : BitVec 2) (v : VWord) : (c.setBank i v).pc = c.pc := rfl
@[simp] theorem Ctx.setBank_xs (c : Ctx) (i : BitVec 2) (v : VWord) : (c.setBank i v).xs = c.xs := rfl
@[simp] theorem Ctx.setBank_ps (c : Ctx) (i : BitVec 2) (v : VWord) : (c.setBank i v).ps = c.ps := rfl
@[simp] theorem Ctx.setBank_vs (c : Ctx) (i : BitVec 2) (v : VWord) : (c.setBank i v).vs = c.vs := rfl
@[simp] theorem Ctx.setBank_ms (c : Ctx) (i : BitVec 2) (v : VWord) : (c.setBank i v).ms = c.ms := rfl
@[simp] theorem Ctx.setBank_es (c : Ctx) (i : BitVec 2) (v : VWord) : (c.setBank i v).es = c.es := rfl
@[simp] theorem Ctx.setBank_latch (c : Ctx) (i : BitVec 2) (v : VWord) : (c.setBank i v).latch = c.latch := rfl
@[simp] theorem Ctx.setBank_fpflags (c : Ctx) (i : BitVec 2) (v : VWord) : (c.setBank i v).fpflags = c.fpflags := rfl
@[simp] theorem Ctx.setBank_fprec (c : Ctx) (i : BitVec 2) (v : VWord) : (c.setBank i v).fprec = c.fprec := rfl
@[simp] theorem Ctx.setBank_loops (c : Ctx) (i : BitVec 2) (v : VWord) : (c.setBank i v).loops = c.loops := rfl
@[simp] theorem Ctx.setBank_region (c : Ctx) (i : BitVec 2) (v : VWord) : (c.setBank i v).region = c.region := rfl
@[simp] theorem Ctx.setBank_hct (c : Ctx) (i : BitVec 2) (v : VWord) : (c.setBank i v).hct = c.hct := rfl
@[simp] theorem Ctx.setBank_wid (c : Ctx) (i : BitVec 2) (v : VWord) : (c.setBank i v).wid = c.wid := rfl
@[simp] theorem Ctx.setBank_pen (c : Ctx) (i : BitVec 2) (v : VWord) : (c.setBank i v).pen = c.pen := rfl
@[simp] theorem Ctx.setBank_prio (c : Ctx) (i : BitVec 2) (v : VWord) : (c.setBank i v).prio = c.prio := rfl
@[simp] theorem Ctx.setBank_mpc (c : Ctx) (i : BitVec 2) (v : VWord) : (c.setBank i v).mpc = c.mpc := rfl
@[simp] theorem Ctx.setBank_waitlim (c : Ctx) (i : BitVec 2) (v : VWord) : (c.setBank i v).waitlim = c.waitlim := rfl
@[simp] theorem Ctx.setBank_mft (c : Ctx) (i : BitVec 2) (v : VWord) : (c.setBank i v).mft = c.mft := rfl
@[simp] theorem Ctx.setBank_nextcid (c : Ctx) (i : BitVec 2) (v : VWord) : (c.setBank i v).nextcid = c.nextcid := rfl
@[simp] theorem Ctx.setBank_rings (c : Ctx) (i : BitVec 2) (v : VWord) : (c.setBank i v).rings = c.rings := rfl
@[simp] theorem Ctx.setBank_mcbase (c : Ctx) (i : BitVec 2) (v : VWord) : (c.setBank i v).mcbase = c.mcbase := rfl
@[simp] theorem Ctx.setBank_mcmask (c : Ctx) (i : BitVec 2) (v : VWord) : (c.setBank i v).mcmask = c.mcmask := rfl
@[simp] theorem Ctx.setBank_eng (c : Ctx) (i : BitVec 2) (v : VWord) : (c.setBank i v).eng = c.eng := rfl
@[simp] theorem Ctx.setBank_ports (c : Ctx) (i : BitVec 2) (v : VWord) : (c.setBank i v).ports = c.ports := rfl
@[simp] theorem Ctx.setBank_status (c : Ctx) (i : BitVec 2) (v : VWord) : (c.setBank i v).status = c.status := rfl
@[simp] theorem Ctx.setBank_arrivals (c : Ctx) (i : BitVec 2) (v : VWord) : (c.setBank i v).arrivals = c.arrivals := rfl
@[simp] theorem Ctx.setBank_denial (c : Ctx) (i : BitVec 2) (v : VWord) : (c.setBank i v).denial = c.denial := rfl
@[simp] theorem Ctx.setBank_sole (c : Ctx) (i : BitVec 2) (v : VWord) : (c.setBank i v).sole = c.sole := rfl
@[simp] theorem Ctx.setBank_yielded (c : Ctx) (i : BitVec 2) (v : VWord) : (c.setBank i v).yielded = c.yielded := rfl
@[simp] theorem Ctx.setBank_sb (c : Ctx) (i : BitVec 2) (v : VWord) : (c.setBank i v).sb = c.sb := rfl
@[simp] theorem Ctx.setBank_divFree (c : Ctx) (i : BitVec 2) (v : VWord) : (c.setBank i v).divFree = c.divFree := rfl
@[simp] theorem Ctx.setBank_sfuDue (c : Ctx) (i : BitVec 2) (v : VWord) : (c.setBank i v).sfuDue = c.sfuDue := rfl
@[simp] theorem Ctx.setBank_scl (c : Ctx) (i : BitVec 2) (v : VWord) : (c.setBank i v).scl = c.scl := rfl
@[simp] theorem Ctx.setBank_gath (c : Ctx) (i : BitVec 2) (v : VWord) : (c.setBank i v).gath = c.gath := rfl
@[simp] theorem Ctx.setBank_tlbshBusy (c : Ctx) (i : BitVec 2) (v : VWord) : (c.setBank i v).tlbshBusy = c.tlbshBusy := rfl
@[simp] theorem Ctx.setBank_cacheBusy (c : Ctx) (i : BitVec 2) (v : VWord) : (c.setBank i v).cacheBusy = c.cacheBusy := rfl
@[simp] theorem Ctx.setBank_ans (c : Ctx) (i : BitVec 2) (v : VWord) : (c.setBank i v).ans = c.ans := rfl
@[simp] theorem Ctx.setBank_remote (c : Ctx) (i : BitVec 2) (v : VWord) : (c.setBank i v).remote = c.remote := rfl
@[simp] theorem Ctx.setBank_acks (c : Ctx) (i : BitVec 2) (v : VWord) : (c.setBank i v).acks = c.acks := rfl
@[simp] theorem Ctx.setBank_drain (c : Ctx) (i : BitVec 2) (v : VWord) : (c.setBank i v).drain = c.drain := rfl
@[simp] theorem Ctx.setBank_fence (c : Ctx) (i : BitVec 2) (v : VWord) : (c.setBank i v).fence = c.fence := rfl
@[simp] theorem Ctx.setBank_fdrop (c : Ctx) (i : BitVec 2) (v : VWord) : (c.setBank i v).fdrop = c.fdrop := rfl
@[simp] theorem Ctx.setBank_paid (c : Ctx) (i : BitVec 2) (v : VWord) : (c.setBank i v).paid = c.paid := rfl
@[simp] theorem Ctx.setBank_leave (c : Ctx) (i : BitVec 2) (v : VWord) : (c.setBank i v).leave = c.leave := rfl
@[simp] theorem Ctx.setBank_cause (c : Ctx) (i : BitVec 2) (v : VWord) : (c.setBank i v).cause = c.cause := rfl
@[simp] theorem Ctx.setBank_halted (c : Ctx) (i : BitVec 2) (v : VWord) : (c.setBank i v).halted = c.halted := rfl
@[simp] theorem Ctx.setBank_todo (c : Ctx) (i : BitVec 2) (v : VWord) : (c.setBank i v).todo = c.todo := rfl
@[simp] theorem Ctx.setBank_rearm (c : Ctx) (i : BitVec 2) (v : VWord) : (c.setBank i v).rearm = c.rearm := rfl

@[simp] theorem Ctx.setRing_st (c : Ctx) (i : BitVec 4) (v : Ring) : (c.setRing i v).st = c.st := rfl
@[simp] theorem Ctx.setRing_task (c : Ctx) (i : BitVec 4) (v : Ring) : (c.setRing i v).task = c.task := rfl
@[simp] theorem Ctx.setRing_pc (c : Ctx) (i : BitVec 4) (v : Ring) : (c.setRing i v).pc = c.pc := rfl
@[simp] theorem Ctx.setRing_xs (c : Ctx) (i : BitVec 4) (v : Ring) : (c.setRing i v).xs = c.xs := rfl
@[simp] theorem Ctx.setRing_ps (c : Ctx) (i : BitVec 4) (v : Ring) : (c.setRing i v).ps = c.ps := rfl
@[simp] theorem Ctx.setRing_vs (c : Ctx) (i : BitVec 4) (v : Ring) : (c.setRing i v).vs = c.vs := rfl
@[simp] theorem Ctx.setRing_ms (c : Ctx) (i : BitVec 4) (v : Ring) : (c.setRing i v).ms = c.ms := rfl
@[simp] theorem Ctx.setRing_es (c : Ctx) (i : BitVec 4) (v : Ring) : (c.setRing i v).es = c.es := rfl
@[simp] theorem Ctx.setRing_acc (c : Ctx) (i : BitVec 4) (v : Ring) : (c.setRing i v).acc = c.acc := rfl
@[simp] theorem Ctx.setRing_latch (c : Ctx) (i : BitVec 4) (v : Ring) : (c.setRing i v).latch = c.latch := rfl
@[simp] theorem Ctx.setRing_fpflags (c : Ctx) (i : BitVec 4) (v : Ring) : (c.setRing i v).fpflags = c.fpflags := rfl
@[simp] theorem Ctx.setRing_fprec (c : Ctx) (i : BitVec 4) (v : Ring) : (c.setRing i v).fprec = c.fprec := rfl
@[simp] theorem Ctx.setRing_loops (c : Ctx) (i : BitVec 4) (v : Ring) : (c.setRing i v).loops = c.loops := rfl
@[simp] theorem Ctx.setRing_region (c : Ctx) (i : BitVec 4) (v : Ring) : (c.setRing i v).region = c.region := rfl
@[simp] theorem Ctx.setRing_hct (c : Ctx) (i : BitVec 4) (v : Ring) : (c.setRing i v).hct = c.hct := rfl
@[simp] theorem Ctx.setRing_wid (c : Ctx) (i : BitVec 4) (v : Ring) : (c.setRing i v).wid = c.wid := rfl
@[simp] theorem Ctx.setRing_pen (c : Ctx) (i : BitVec 4) (v : Ring) : (c.setRing i v).pen = c.pen := rfl
@[simp] theorem Ctx.setRing_prio (c : Ctx) (i : BitVec 4) (v : Ring) : (c.setRing i v).prio = c.prio := rfl
@[simp] theorem Ctx.setRing_mpc (c : Ctx) (i : BitVec 4) (v : Ring) : (c.setRing i v).mpc = c.mpc := rfl
@[simp] theorem Ctx.setRing_waitlim (c : Ctx) (i : BitVec 4) (v : Ring) : (c.setRing i v).waitlim = c.waitlim := rfl
@[simp] theorem Ctx.setRing_mft (c : Ctx) (i : BitVec 4) (v : Ring) : (c.setRing i v).mft = c.mft := rfl
@[simp] theorem Ctx.setRing_nextcid (c : Ctx) (i : BitVec 4) (v : Ring) : (c.setRing i v).nextcid = c.nextcid := rfl
@[simp] theorem Ctx.setRing_mcbase (c : Ctx) (i : BitVec 4) (v : Ring) : (c.setRing i v).mcbase = c.mcbase := rfl
@[simp] theorem Ctx.setRing_mcmask (c : Ctx) (i : BitVec 4) (v : Ring) : (c.setRing i v).mcmask = c.mcmask := rfl
@[simp] theorem Ctx.setRing_eng (c : Ctx) (i : BitVec 4) (v : Ring) : (c.setRing i v).eng = c.eng := rfl
@[simp] theorem Ctx.setRing_ports (c : Ctx) (i : BitVec 4) (v : Ring) : (c.setRing i v).ports = c.ports := rfl
@[simp] theorem Ctx.setRing_status (c : Ctx) (i : BitVec 4) (v : Ring) : (c.setRing i v).status = c.status := rfl
@[simp] theorem Ctx.setRing_arrivals (c : Ctx) (i : BitVec 4) (v : Ring) : (c.setRing i v).arrivals = c.arrivals := rfl
@[simp] theorem Ctx.setRing_denial (c : Ctx) (i : BitVec 4) (v : Ring) : (c.setRing i v).denial = c.denial := rfl
@[simp] theorem Ctx.setRing_sole (c : Ctx) (i : BitVec 4) (v : Ring) : (c.setRing i v).sole = c.sole := rfl
@[simp] theorem Ctx.setRing_yielded (c : Ctx) (i : BitVec 4) (v : Ring) : (c.setRing i v).yielded = c.yielded := rfl
@[simp] theorem Ctx.setRing_sb (c : Ctx) (i : BitVec 4) (v : Ring) : (c.setRing i v).sb = c.sb := rfl
@[simp] theorem Ctx.setRing_divFree (c : Ctx) (i : BitVec 4) (v : Ring) : (c.setRing i v).divFree = c.divFree := rfl
@[simp] theorem Ctx.setRing_sfuDue (c : Ctx) (i : BitVec 4) (v : Ring) : (c.setRing i v).sfuDue = c.sfuDue := rfl
@[simp] theorem Ctx.setRing_scl (c : Ctx) (i : BitVec 4) (v : Ring) : (c.setRing i v).scl = c.scl := rfl
@[simp] theorem Ctx.setRing_gath (c : Ctx) (i : BitVec 4) (v : Ring) : (c.setRing i v).gath = c.gath := rfl
@[simp] theorem Ctx.setRing_tlbshBusy (c : Ctx) (i : BitVec 4) (v : Ring) : (c.setRing i v).tlbshBusy = c.tlbshBusy := rfl
@[simp] theorem Ctx.setRing_cacheBusy (c : Ctx) (i : BitVec 4) (v : Ring) : (c.setRing i v).cacheBusy = c.cacheBusy := rfl
@[simp] theorem Ctx.setRing_ans (c : Ctx) (i : BitVec 4) (v : Ring) : (c.setRing i v).ans = c.ans := rfl
@[simp] theorem Ctx.setRing_remote (c : Ctx) (i : BitVec 4) (v : Ring) : (c.setRing i v).remote = c.remote := rfl
@[simp] theorem Ctx.setRing_acks (c : Ctx) (i : BitVec 4) (v : Ring) : (c.setRing i v).acks = c.acks := rfl
@[simp] theorem Ctx.setRing_drain (c : Ctx) (i : BitVec 4) (v : Ring) : (c.setRing i v).drain = c.drain := rfl
@[simp] theorem Ctx.setRing_fence (c : Ctx) (i : BitVec 4) (v : Ring) : (c.setRing i v).fence = c.fence := rfl
@[simp] theorem Ctx.setRing_fdrop (c : Ctx) (i : BitVec 4) (v : Ring) : (c.setRing i v).fdrop = c.fdrop := rfl
@[simp] theorem Ctx.setRing_paid (c : Ctx) (i : BitVec 4) (v : Ring) : (c.setRing i v).paid = c.paid := rfl
@[simp] theorem Ctx.setRing_leave (c : Ctx) (i : BitVec 4) (v : Ring) : (c.setRing i v).leave = c.leave := rfl
@[simp] theorem Ctx.setRing_cause (c : Ctx) (i : BitVec 4) (v : Ring) : (c.setRing i v).cause = c.cause := rfl
@[simp] theorem Ctx.setRing_halted (c : Ctx) (i : BitVec 4) (v : Ring) : (c.setRing i v).halted = c.halted := rfl
@[simp] theorem Ctx.setRing_todo (c : Ctx) (i : BitVec 4) (v : Ring) : (c.setRing i v).todo = c.todo := rfl
@[simp] theorem Ctx.setRing_rearm (c : Ctx) (i : BitVec 4) (v : Ring) : (c.setRing i v).rearm = c.rearm := rfl

@[simp] theorem Ctx.setStat_st (c : Ctx) (i : BitVec 16) (v : Word) : (c.setStat i v).st = c.st := rfl
@[simp] theorem Ctx.setStat_task (c : Ctx) (i : BitVec 16) (v : Word) : (c.setStat i v).task = c.task := rfl
@[simp] theorem Ctx.setStat_pc (c : Ctx) (i : BitVec 16) (v : Word) : (c.setStat i v).pc = c.pc := rfl
@[simp] theorem Ctx.setStat_xs (c : Ctx) (i : BitVec 16) (v : Word) : (c.setStat i v).xs = c.xs := rfl
@[simp] theorem Ctx.setStat_ps (c : Ctx) (i : BitVec 16) (v : Word) : (c.setStat i v).ps = c.ps := rfl
@[simp] theorem Ctx.setStat_vs (c : Ctx) (i : BitVec 16) (v : Word) : (c.setStat i v).vs = c.vs := rfl
@[simp] theorem Ctx.setStat_ms (c : Ctx) (i : BitVec 16) (v : Word) : (c.setStat i v).ms = c.ms := rfl
@[simp] theorem Ctx.setStat_es (c : Ctx) (i : BitVec 16) (v : Word) : (c.setStat i v).es = c.es := rfl
@[simp] theorem Ctx.setStat_acc (c : Ctx) (i : BitVec 16) (v : Word) : (c.setStat i v).acc = c.acc := rfl
@[simp] theorem Ctx.setStat_latch (c : Ctx) (i : BitVec 16) (v : Word) : (c.setStat i v).latch = c.latch := rfl
@[simp] theorem Ctx.setStat_fpflags (c : Ctx) (i : BitVec 16) (v : Word) : (c.setStat i v).fpflags = c.fpflags := rfl
@[simp] theorem Ctx.setStat_fprec (c : Ctx) (i : BitVec 16) (v : Word) : (c.setStat i v).fprec = c.fprec := rfl
@[simp] theorem Ctx.setStat_loops (c : Ctx) (i : BitVec 16) (v : Word) : (c.setStat i v).loops = c.loops := rfl
@[simp] theorem Ctx.setStat_region (c : Ctx) (i : BitVec 16) (v : Word) : (c.setStat i v).region = c.region := rfl
@[simp] theorem Ctx.setStat_hct (c : Ctx) (i : BitVec 16) (v : Word) : (c.setStat i v).hct = c.hct := rfl
@[simp] theorem Ctx.setStat_wid (c : Ctx) (i : BitVec 16) (v : Word) : (c.setStat i v).wid = c.wid := rfl
@[simp] theorem Ctx.setStat_pen (c : Ctx) (i : BitVec 16) (v : Word) : (c.setStat i v).pen = c.pen := rfl
@[simp] theorem Ctx.setStat_prio (c : Ctx) (i : BitVec 16) (v : Word) : (c.setStat i v).prio = c.prio := rfl
@[simp] theorem Ctx.setStat_mpc (c : Ctx) (i : BitVec 16) (v : Word) : (c.setStat i v).mpc = c.mpc := rfl
@[simp] theorem Ctx.setStat_waitlim (c : Ctx) (i : BitVec 16) (v : Word) : (c.setStat i v).waitlim = c.waitlim := rfl
@[simp] theorem Ctx.setStat_mft (c : Ctx) (i : BitVec 16) (v : Word) : (c.setStat i v).mft = c.mft := rfl
@[simp] theorem Ctx.setStat_nextcid (c : Ctx) (i : BitVec 16) (v : Word) : (c.setStat i v).nextcid = c.nextcid := rfl
@[simp] theorem Ctx.setStat_rings (c : Ctx) (i : BitVec 16) (v : Word) : (c.setStat i v).rings = c.rings := rfl
@[simp] theorem Ctx.setStat_mcbase (c : Ctx) (i : BitVec 16) (v : Word) : (c.setStat i v).mcbase = c.mcbase := rfl
@[simp] theorem Ctx.setStat_mcmask (c : Ctx) (i : BitVec 16) (v : Word) : (c.setStat i v).mcmask = c.mcmask := rfl
@[simp] theorem Ctx.setStat_eng (c : Ctx) (i : BitVec 16) (v : Word) : (c.setStat i v).eng = c.eng := rfl
@[simp] theorem Ctx.setStat_ports (c : Ctx) (i : BitVec 16) (v : Word) : (c.setStat i v).ports = c.ports := rfl
@[simp] theorem Ctx.setStat_arrivals (c : Ctx) (i : BitVec 16) (v : Word) : (c.setStat i v).arrivals = c.arrivals := rfl
@[simp] theorem Ctx.setStat_denial (c : Ctx) (i : BitVec 16) (v : Word) : (c.setStat i v).denial = c.denial := rfl
@[simp] theorem Ctx.setStat_sole (c : Ctx) (i : BitVec 16) (v : Word) : (c.setStat i v).sole = c.sole := rfl
@[simp] theorem Ctx.setStat_yielded (c : Ctx) (i : BitVec 16) (v : Word) : (c.setStat i v).yielded = c.yielded := rfl
@[simp] theorem Ctx.setStat_sb (c : Ctx) (i : BitVec 16) (v : Word) : (c.setStat i v).sb = c.sb := rfl
@[simp] theorem Ctx.setStat_divFree (c : Ctx) (i : BitVec 16) (v : Word) : (c.setStat i v).divFree = c.divFree := rfl
@[simp] theorem Ctx.setStat_sfuDue (c : Ctx) (i : BitVec 16) (v : Word) : (c.setStat i v).sfuDue = c.sfuDue := rfl
@[simp] theorem Ctx.setStat_scl (c : Ctx) (i : BitVec 16) (v : Word) : (c.setStat i v).scl = c.scl := rfl
@[simp] theorem Ctx.setStat_gath (c : Ctx) (i : BitVec 16) (v : Word) : (c.setStat i v).gath = c.gath := rfl
@[simp] theorem Ctx.setStat_tlbshBusy (c : Ctx) (i : BitVec 16) (v : Word) : (c.setStat i v).tlbshBusy = c.tlbshBusy := rfl
@[simp] theorem Ctx.setStat_cacheBusy (c : Ctx) (i : BitVec 16) (v : Word) : (c.setStat i v).cacheBusy = c.cacheBusy := rfl
@[simp] theorem Ctx.setStat_ans (c : Ctx) (i : BitVec 16) (v : Word) : (c.setStat i v).ans = c.ans := rfl
@[simp] theorem Ctx.setStat_remote (c : Ctx) (i : BitVec 16) (v : Word) : (c.setStat i v).remote = c.remote := rfl
@[simp] theorem Ctx.setStat_acks (c : Ctx) (i : BitVec 16) (v : Word) : (c.setStat i v).acks = c.acks := rfl
@[simp] theorem Ctx.setStat_drain (c : Ctx) (i : BitVec 16) (v : Word) : (c.setStat i v).drain = c.drain := rfl
@[simp] theorem Ctx.setStat_fence (c : Ctx) (i : BitVec 16) (v : Word) : (c.setStat i v).fence = c.fence := rfl
@[simp] theorem Ctx.setStat_fdrop (c : Ctx) (i : BitVec 16) (v : Word) : (c.setStat i v).fdrop = c.fdrop := rfl
@[simp] theorem Ctx.setStat_paid (c : Ctx) (i : BitVec 16) (v : Word) : (c.setStat i v).paid = c.paid := rfl
@[simp] theorem Ctx.setStat_leave (c : Ctx) (i : BitVec 16) (v : Word) : (c.setStat i v).leave = c.leave := rfl
@[simp] theorem Ctx.setStat_cause (c : Ctx) (i : BitVec 16) (v : Word) : (c.setStat i v).cause = c.cause := rfl
@[simp] theorem Ctx.setStat_halted (c : Ctx) (i : BitVec 16) (v : Word) : (c.setStat i v).halted = c.halted := rfl
@[simp] theorem Ctx.setStat_todo (c : Ctx) (i : BitVec 16) (v : Word) : (c.setStat i v).todo = c.todo := rfl
@[simp] theorem Ctx.setStat_rearm (c : Ctx) (i : BitVec 16) (v : Word) : (c.setStat i v).rearm = c.rearm := rfl

@[simp] theorem Ctx.setHct_st (c : Ctx) (i : Nat) (v : HctEnt) : (c.setHct i v).st = c.st := rfl
@[simp] theorem Ctx.setHct_task (c : Ctx) (i : Nat) (v : HctEnt) : (c.setHct i v).task = c.task := rfl
@[simp] theorem Ctx.setHct_pc (c : Ctx) (i : Nat) (v : HctEnt) : (c.setHct i v).pc = c.pc := rfl
@[simp] theorem Ctx.setHct_xs (c : Ctx) (i : Nat) (v : HctEnt) : (c.setHct i v).xs = c.xs := rfl
@[simp] theorem Ctx.setHct_ps (c : Ctx) (i : Nat) (v : HctEnt) : (c.setHct i v).ps = c.ps := rfl
@[simp] theorem Ctx.setHct_vs (c : Ctx) (i : Nat) (v : HctEnt) : (c.setHct i v).vs = c.vs := rfl
@[simp] theorem Ctx.setHct_ms (c : Ctx) (i : Nat) (v : HctEnt) : (c.setHct i v).ms = c.ms := rfl
@[simp] theorem Ctx.setHct_es (c : Ctx) (i : Nat) (v : HctEnt) : (c.setHct i v).es = c.es := rfl
@[simp] theorem Ctx.setHct_acc (c : Ctx) (i : Nat) (v : HctEnt) : (c.setHct i v).acc = c.acc := rfl
@[simp] theorem Ctx.setHct_latch (c : Ctx) (i : Nat) (v : HctEnt) : (c.setHct i v).latch = c.latch := rfl
@[simp] theorem Ctx.setHct_fpflags (c : Ctx) (i : Nat) (v : HctEnt) : (c.setHct i v).fpflags = c.fpflags := rfl
@[simp] theorem Ctx.setHct_fprec (c : Ctx) (i : Nat) (v : HctEnt) : (c.setHct i v).fprec = c.fprec := rfl
@[simp] theorem Ctx.setHct_loops (c : Ctx) (i : Nat) (v : HctEnt) : (c.setHct i v).loops = c.loops := rfl
@[simp] theorem Ctx.setHct_region (c : Ctx) (i : Nat) (v : HctEnt) : (c.setHct i v).region = c.region := rfl
@[simp] theorem Ctx.setHct_wid (c : Ctx) (i : Nat) (v : HctEnt) : (c.setHct i v).wid = c.wid := rfl
@[simp] theorem Ctx.setHct_pen (c : Ctx) (i : Nat) (v : HctEnt) : (c.setHct i v).pen = c.pen := rfl
@[simp] theorem Ctx.setHct_prio (c : Ctx) (i : Nat) (v : HctEnt) : (c.setHct i v).prio = c.prio := rfl
@[simp] theorem Ctx.setHct_mpc (c : Ctx) (i : Nat) (v : HctEnt) : (c.setHct i v).mpc = c.mpc := rfl
@[simp] theorem Ctx.setHct_waitlim (c : Ctx) (i : Nat) (v : HctEnt) : (c.setHct i v).waitlim = c.waitlim := rfl
@[simp] theorem Ctx.setHct_mft (c : Ctx) (i : Nat) (v : HctEnt) : (c.setHct i v).mft = c.mft := rfl
@[simp] theorem Ctx.setHct_nextcid (c : Ctx) (i : Nat) (v : HctEnt) : (c.setHct i v).nextcid = c.nextcid := rfl
@[simp] theorem Ctx.setHct_rings (c : Ctx) (i : Nat) (v : HctEnt) : (c.setHct i v).rings = c.rings := rfl
@[simp] theorem Ctx.setHct_mcbase (c : Ctx) (i : Nat) (v : HctEnt) : (c.setHct i v).mcbase = c.mcbase := rfl
@[simp] theorem Ctx.setHct_mcmask (c : Ctx) (i : Nat) (v : HctEnt) : (c.setHct i v).mcmask = c.mcmask := rfl
@[simp] theorem Ctx.setHct_eng (c : Ctx) (i : Nat) (v : HctEnt) : (c.setHct i v).eng = c.eng := rfl
@[simp] theorem Ctx.setHct_ports (c : Ctx) (i : Nat) (v : HctEnt) : (c.setHct i v).ports = c.ports := rfl
@[simp] theorem Ctx.setHct_status (c : Ctx) (i : Nat) (v : HctEnt) : (c.setHct i v).status = c.status := rfl
@[simp] theorem Ctx.setHct_arrivals (c : Ctx) (i : Nat) (v : HctEnt) : (c.setHct i v).arrivals = c.arrivals := rfl
@[simp] theorem Ctx.setHct_denial (c : Ctx) (i : Nat) (v : HctEnt) : (c.setHct i v).denial = c.denial := rfl
@[simp] theorem Ctx.setHct_sole (c : Ctx) (i : Nat) (v : HctEnt) : (c.setHct i v).sole = c.sole := rfl
@[simp] theorem Ctx.setHct_yielded (c : Ctx) (i : Nat) (v : HctEnt) : (c.setHct i v).yielded = c.yielded := rfl
@[simp] theorem Ctx.setHct_sb (c : Ctx) (i : Nat) (v : HctEnt) : (c.setHct i v).sb = c.sb := rfl
@[simp] theorem Ctx.setHct_divFree (c : Ctx) (i : Nat) (v : HctEnt) : (c.setHct i v).divFree = c.divFree := rfl
@[simp] theorem Ctx.setHct_sfuDue (c : Ctx) (i : Nat) (v : HctEnt) : (c.setHct i v).sfuDue = c.sfuDue := rfl
@[simp] theorem Ctx.setHct_scl (c : Ctx) (i : Nat) (v : HctEnt) : (c.setHct i v).scl = c.scl := rfl
@[simp] theorem Ctx.setHct_gath (c : Ctx) (i : Nat) (v : HctEnt) : (c.setHct i v).gath = c.gath := rfl
@[simp] theorem Ctx.setHct_tlbshBusy (c : Ctx) (i : Nat) (v : HctEnt) : (c.setHct i v).tlbshBusy = c.tlbshBusy := rfl
@[simp] theorem Ctx.setHct_cacheBusy (c : Ctx) (i : Nat) (v : HctEnt) : (c.setHct i v).cacheBusy = c.cacheBusy := rfl
@[simp] theorem Ctx.setHct_ans (c : Ctx) (i : Nat) (v : HctEnt) : (c.setHct i v).ans = c.ans := rfl
@[simp] theorem Ctx.setHct_remote (c : Ctx) (i : Nat) (v : HctEnt) : (c.setHct i v).remote = c.remote := rfl
@[simp] theorem Ctx.setHct_acks (c : Ctx) (i : Nat) (v : HctEnt) : (c.setHct i v).acks = c.acks := rfl
@[simp] theorem Ctx.setHct_drain (c : Ctx) (i : Nat) (v : HctEnt) : (c.setHct i v).drain = c.drain := rfl
@[simp] theorem Ctx.setHct_fence (c : Ctx) (i : Nat) (v : HctEnt) : (c.setHct i v).fence = c.fence := rfl
@[simp] theorem Ctx.setHct_fdrop (c : Ctx) (i : Nat) (v : HctEnt) : (c.setHct i v).fdrop = c.fdrop := rfl
@[simp] theorem Ctx.setHct_paid (c : Ctx) (i : Nat) (v : HctEnt) : (c.setHct i v).paid = c.paid := rfl
@[simp] theorem Ctx.setHct_leave (c : Ctx) (i : Nat) (v : HctEnt) : (c.setHct i v).leave = c.leave := rfl
@[simp] theorem Ctx.setHct_cause (c : Ctx) (i : Nat) (v : HctEnt) : (c.setHct i v).cause = c.cause := rfl
@[simp] theorem Ctx.setHct_halted (c : Ctx) (i : Nat) (v : HctEnt) : (c.setHct i v).halted = c.halted := rfl
@[simp] theorem Ctx.setHct_todo (c : Ctx) (i : Nat) (v : HctEnt) : (c.setHct i v).todo = c.todo := rfl
@[simp] theorem Ctx.setHct_rearm (c : Ctx) (i : Nat) (v : HctEnt) : (c.setHct i v).rearm = c.rearm := rfl

@[simp] theorem Ctx.setX_st (c : Ctx) (i : BitVec 6) (v : Word) : (c.setX i v).st = c.st := by
  unfold Ctx.setX; split <;> rfl
@[simp] theorem Ctx.setX_task (c : Ctx) (i : BitVec 6) (v : Word) : (c.setX i v).task = c.task := by
  unfold Ctx.setX; split <;> rfl
@[simp] theorem Ctx.setX_pc (c : Ctx) (i : BitVec 6) (v : Word) : (c.setX i v).pc = c.pc := by
  unfold Ctx.setX; split <;> rfl
@[simp] theorem Ctx.setX_ps (c : Ctx) (i : BitVec 6) (v : Word) : (c.setX i v).ps = c.ps := by
  unfold Ctx.setX; split <;> rfl
@[simp] theorem Ctx.setX_vs (c : Ctx) (i : BitVec 6) (v : Word) : (c.setX i v).vs = c.vs := by
  unfold Ctx.setX; split <;> rfl
@[simp] theorem Ctx.setX_ms (c : Ctx) (i : BitVec 6) (v : Word) : (c.setX i v).ms = c.ms := by
  unfold Ctx.setX; split <;> rfl
@[simp] theorem Ctx.setX_es (c : Ctx) (i : BitVec 6) (v : Word) : (c.setX i v).es = c.es := by
  unfold Ctx.setX; split <;> rfl
@[simp] theorem Ctx.setX_acc (c : Ctx) (i : BitVec 6) (v : Word) : (c.setX i v).acc = c.acc := by
  unfold Ctx.setX; split <;> rfl
@[simp] theorem Ctx.setX_latch (c : Ctx) (i : BitVec 6) (v : Word) : (c.setX i v).latch = c.latch := by
  unfold Ctx.setX; split <;> rfl
@[simp] theorem Ctx.setX_fpflags (c : Ctx) (i : BitVec 6) (v : Word) : (c.setX i v).fpflags = c.fpflags := by
  unfold Ctx.setX; split <;> rfl
@[simp] theorem Ctx.setX_fprec (c : Ctx) (i : BitVec 6) (v : Word) : (c.setX i v).fprec = c.fprec := by
  unfold Ctx.setX; split <;> rfl
@[simp] theorem Ctx.setX_loops (c : Ctx) (i : BitVec 6) (v : Word) : (c.setX i v).loops = c.loops := by
  unfold Ctx.setX; split <;> rfl
@[simp] theorem Ctx.setX_region (c : Ctx) (i : BitVec 6) (v : Word) : (c.setX i v).region = c.region := by
  unfold Ctx.setX; split <;> rfl
@[simp] theorem Ctx.setX_hct (c : Ctx) (i : BitVec 6) (v : Word) : (c.setX i v).hct = c.hct := by
  unfold Ctx.setX; split <;> rfl
@[simp] theorem Ctx.setX_wid (c : Ctx) (i : BitVec 6) (v : Word) : (c.setX i v).wid = c.wid := by
  unfold Ctx.setX; split <;> rfl
@[simp] theorem Ctx.setX_pen (c : Ctx) (i : BitVec 6) (v : Word) : (c.setX i v).pen = c.pen := by
  unfold Ctx.setX; split <;> rfl
@[simp] theorem Ctx.setX_prio (c : Ctx) (i : BitVec 6) (v : Word) : (c.setX i v).prio = c.prio := by
  unfold Ctx.setX; split <;> rfl
@[simp] theorem Ctx.setX_mpc (c : Ctx) (i : BitVec 6) (v : Word) : (c.setX i v).mpc = c.mpc := by
  unfold Ctx.setX; split <;> rfl
@[simp] theorem Ctx.setX_waitlim (c : Ctx) (i : BitVec 6) (v : Word) : (c.setX i v).waitlim = c.waitlim := by
  unfold Ctx.setX; split <;> rfl
@[simp] theorem Ctx.setX_mft (c : Ctx) (i : BitVec 6) (v : Word) : (c.setX i v).mft = c.mft := by
  unfold Ctx.setX; split <;> rfl
@[simp] theorem Ctx.setX_nextcid (c : Ctx) (i : BitVec 6) (v : Word) : (c.setX i v).nextcid = c.nextcid := by
  unfold Ctx.setX; split <;> rfl
@[simp] theorem Ctx.setX_rings (c : Ctx) (i : BitVec 6) (v : Word) : (c.setX i v).rings = c.rings := by
  unfold Ctx.setX; split <;> rfl
@[simp] theorem Ctx.setX_mcbase (c : Ctx) (i : BitVec 6) (v : Word) : (c.setX i v).mcbase = c.mcbase := by
  unfold Ctx.setX; split <;> rfl
@[simp] theorem Ctx.setX_mcmask (c : Ctx) (i : BitVec 6) (v : Word) : (c.setX i v).mcmask = c.mcmask := by
  unfold Ctx.setX; split <;> rfl
@[simp] theorem Ctx.setX_eng (c : Ctx) (i : BitVec 6) (v : Word) : (c.setX i v).eng = c.eng := by
  unfold Ctx.setX; split <;> rfl
@[simp] theorem Ctx.setX_ports (c : Ctx) (i : BitVec 6) (v : Word) : (c.setX i v).ports = c.ports := by
  unfold Ctx.setX; split <;> rfl
@[simp] theorem Ctx.setX_status (c : Ctx) (i : BitVec 6) (v : Word) : (c.setX i v).status = c.status := by
  unfold Ctx.setX; split <;> rfl
@[simp] theorem Ctx.setX_arrivals (c : Ctx) (i : BitVec 6) (v : Word) : (c.setX i v).arrivals = c.arrivals := by
  unfold Ctx.setX; split <;> rfl
@[simp] theorem Ctx.setX_denial (c : Ctx) (i : BitVec 6) (v : Word) : (c.setX i v).denial = c.denial := by
  unfold Ctx.setX; split <;> rfl
@[simp] theorem Ctx.setX_sole (c : Ctx) (i : BitVec 6) (v : Word) : (c.setX i v).sole = c.sole := by
  unfold Ctx.setX; split <;> rfl
@[simp] theorem Ctx.setX_yielded (c : Ctx) (i : BitVec 6) (v : Word) : (c.setX i v).yielded = c.yielded := by
  unfold Ctx.setX; split <;> rfl
@[simp] theorem Ctx.setX_sb (c : Ctx) (i : BitVec 6) (v : Word) : (c.setX i v).sb = c.sb := by
  unfold Ctx.setX; split <;> rfl
@[simp] theorem Ctx.setX_divFree (c : Ctx) (i : BitVec 6) (v : Word) : (c.setX i v).divFree = c.divFree := by
  unfold Ctx.setX; split <;> rfl
@[simp] theorem Ctx.setX_sfuDue (c : Ctx) (i : BitVec 6) (v : Word) : (c.setX i v).sfuDue = c.sfuDue := by
  unfold Ctx.setX; split <;> rfl
@[simp] theorem Ctx.setX_scl (c : Ctx) (i : BitVec 6) (v : Word) : (c.setX i v).scl = c.scl := by
  unfold Ctx.setX; split <;> rfl
@[simp] theorem Ctx.setX_gath (c : Ctx) (i : BitVec 6) (v : Word) : (c.setX i v).gath = c.gath := by
  unfold Ctx.setX; split <;> rfl
@[simp] theorem Ctx.setX_tlbshBusy (c : Ctx) (i : BitVec 6) (v : Word) : (c.setX i v).tlbshBusy = c.tlbshBusy := by
  unfold Ctx.setX; split <;> rfl
@[simp] theorem Ctx.setX_cacheBusy (c : Ctx) (i : BitVec 6) (v : Word) : (c.setX i v).cacheBusy = c.cacheBusy := by
  unfold Ctx.setX; split <;> rfl
@[simp] theorem Ctx.setX_ans (c : Ctx) (i : BitVec 6) (v : Word) : (c.setX i v).ans = c.ans := by
  unfold Ctx.setX; split <;> rfl
@[simp] theorem Ctx.setX_remote (c : Ctx) (i : BitVec 6) (v : Word) : (c.setX i v).remote = c.remote := by
  unfold Ctx.setX; split <;> rfl
@[simp] theorem Ctx.setX_acks (c : Ctx) (i : BitVec 6) (v : Word) : (c.setX i v).acks = c.acks := by
  unfold Ctx.setX; split <;> rfl
@[simp] theorem Ctx.setX_drain (c : Ctx) (i : BitVec 6) (v : Word) : (c.setX i v).drain = c.drain := by
  unfold Ctx.setX; split <;> rfl
@[simp] theorem Ctx.setX_fence (c : Ctx) (i : BitVec 6) (v : Word) : (c.setX i v).fence = c.fence := by
  unfold Ctx.setX; split <;> rfl
@[simp] theorem Ctx.setX_fdrop (c : Ctx) (i : BitVec 6) (v : Word) : (c.setX i v).fdrop = c.fdrop := by
  unfold Ctx.setX; split <;> rfl
@[simp] theorem Ctx.setX_paid (c : Ctx) (i : BitVec 6) (v : Word) : (c.setX i v).paid = c.paid := by
  unfold Ctx.setX; split <;> rfl
@[simp] theorem Ctx.setX_leave (c : Ctx) (i : BitVec 6) (v : Word) : (c.setX i v).leave = c.leave := by
  unfold Ctx.setX; split <;> rfl
@[simp] theorem Ctx.setX_cause (c : Ctx) (i : BitVec 6) (v : Word) : (c.setX i v).cause = c.cause := by
  unfold Ctx.setX; split <;> rfl
@[simp] theorem Ctx.setX_halted (c : Ctx) (i : BitVec 6) (v : Word) : (c.setX i v).halted = c.halted := by
  unfold Ctx.setX; split <;> rfl
@[simp] theorem Ctx.setX_todo (c : Ctx) (i : BitVec 6) (v : Word) : (c.setX i v).todo = c.todo := by
  unfold Ctx.setX; split <;> rfl
@[simp] theorem Ctx.setX_rearm (c : Ctx) (i : BitVec 6) (v : Word) : (c.setX i v).rearm = c.rearm := by
  unfold Ctx.setX; split <;> rfl

@[simp] theorem Ctx.setM_st (c : Ctx) (i : BitVec 4) (v : BitVec 64) : (c.setM i v).st = c.st := by
  unfold Ctx.setM; split <;> rfl
@[simp] theorem Ctx.setM_task (c : Ctx) (i : BitVec 4) (v : BitVec 64) : (c.setM i v).task = c.task := by
  unfold Ctx.setM; split <;> rfl
@[simp] theorem Ctx.setM_pc (c : Ctx) (i : BitVec 4) (v : BitVec 64) : (c.setM i v).pc = c.pc := by
  unfold Ctx.setM; split <;> rfl
@[simp] theorem Ctx.setM_xs (c : Ctx) (i : BitVec 4) (v : BitVec 64) : (c.setM i v).xs = c.xs := by
  unfold Ctx.setM; split <;> rfl
@[simp] theorem Ctx.setM_ps (c : Ctx) (i : BitVec 4) (v : BitVec 64) : (c.setM i v).ps = c.ps := by
  unfold Ctx.setM; split <;> rfl
@[simp] theorem Ctx.setM_vs (c : Ctx) (i : BitVec 4) (v : BitVec 64) : (c.setM i v).vs = c.vs := by
  unfold Ctx.setM; split <;> rfl
@[simp] theorem Ctx.setM_es (c : Ctx) (i : BitVec 4) (v : BitVec 64) : (c.setM i v).es = c.es := by
  unfold Ctx.setM; split <;> rfl
@[simp] theorem Ctx.setM_acc (c : Ctx) (i : BitVec 4) (v : BitVec 64) : (c.setM i v).acc = c.acc := by
  unfold Ctx.setM; split <;> rfl
@[simp] theorem Ctx.setM_latch (c : Ctx) (i : BitVec 4) (v : BitVec 64) : (c.setM i v).latch = c.latch := by
  unfold Ctx.setM; split <;> rfl
@[simp] theorem Ctx.setM_fpflags (c : Ctx) (i : BitVec 4) (v : BitVec 64) : (c.setM i v).fpflags = c.fpflags := by
  unfold Ctx.setM; split <;> rfl
@[simp] theorem Ctx.setM_fprec (c : Ctx) (i : BitVec 4) (v : BitVec 64) : (c.setM i v).fprec = c.fprec := by
  unfold Ctx.setM; split <;> rfl
@[simp] theorem Ctx.setM_loops (c : Ctx) (i : BitVec 4) (v : BitVec 64) : (c.setM i v).loops = c.loops := by
  unfold Ctx.setM; split <;> rfl
@[simp] theorem Ctx.setM_region (c : Ctx) (i : BitVec 4) (v : BitVec 64) : (c.setM i v).region = c.region := by
  unfold Ctx.setM; split <;> rfl
@[simp] theorem Ctx.setM_hct (c : Ctx) (i : BitVec 4) (v : BitVec 64) : (c.setM i v).hct = c.hct := by
  unfold Ctx.setM; split <;> rfl
@[simp] theorem Ctx.setM_wid (c : Ctx) (i : BitVec 4) (v : BitVec 64) : (c.setM i v).wid = c.wid := by
  unfold Ctx.setM; split <;> rfl
@[simp] theorem Ctx.setM_pen (c : Ctx) (i : BitVec 4) (v : BitVec 64) : (c.setM i v).pen = c.pen := by
  unfold Ctx.setM; split <;> rfl
@[simp] theorem Ctx.setM_prio (c : Ctx) (i : BitVec 4) (v : BitVec 64) : (c.setM i v).prio = c.prio := by
  unfold Ctx.setM; split <;> rfl
@[simp] theorem Ctx.setM_mpc (c : Ctx) (i : BitVec 4) (v : BitVec 64) : (c.setM i v).mpc = c.mpc := by
  unfold Ctx.setM; split <;> rfl
@[simp] theorem Ctx.setM_waitlim (c : Ctx) (i : BitVec 4) (v : BitVec 64) : (c.setM i v).waitlim = c.waitlim := by
  unfold Ctx.setM; split <;> rfl
@[simp] theorem Ctx.setM_mft (c : Ctx) (i : BitVec 4) (v : BitVec 64) : (c.setM i v).mft = c.mft := by
  unfold Ctx.setM; split <;> rfl
@[simp] theorem Ctx.setM_nextcid (c : Ctx) (i : BitVec 4) (v : BitVec 64) : (c.setM i v).nextcid = c.nextcid := by
  unfold Ctx.setM; split <;> rfl
@[simp] theorem Ctx.setM_rings (c : Ctx) (i : BitVec 4) (v : BitVec 64) : (c.setM i v).rings = c.rings := by
  unfold Ctx.setM; split <;> rfl
@[simp] theorem Ctx.setM_mcbase (c : Ctx) (i : BitVec 4) (v : BitVec 64) : (c.setM i v).mcbase = c.mcbase := by
  unfold Ctx.setM; split <;> rfl
@[simp] theorem Ctx.setM_mcmask (c : Ctx) (i : BitVec 4) (v : BitVec 64) : (c.setM i v).mcmask = c.mcmask := by
  unfold Ctx.setM; split <;> rfl
@[simp] theorem Ctx.setM_eng (c : Ctx) (i : BitVec 4) (v : BitVec 64) : (c.setM i v).eng = c.eng := by
  unfold Ctx.setM; split <;> rfl
@[simp] theorem Ctx.setM_ports (c : Ctx) (i : BitVec 4) (v : BitVec 64) : (c.setM i v).ports = c.ports := by
  unfold Ctx.setM; split <;> rfl
@[simp] theorem Ctx.setM_status (c : Ctx) (i : BitVec 4) (v : BitVec 64) : (c.setM i v).status = c.status := by
  unfold Ctx.setM; split <;> rfl
@[simp] theorem Ctx.setM_arrivals (c : Ctx) (i : BitVec 4) (v : BitVec 64) : (c.setM i v).arrivals = c.arrivals := by
  unfold Ctx.setM; split <;> rfl
@[simp] theorem Ctx.setM_denial (c : Ctx) (i : BitVec 4) (v : BitVec 64) : (c.setM i v).denial = c.denial := by
  unfold Ctx.setM; split <;> rfl
@[simp] theorem Ctx.setM_sole (c : Ctx) (i : BitVec 4) (v : BitVec 64) : (c.setM i v).sole = c.sole := by
  unfold Ctx.setM; split <;> rfl
@[simp] theorem Ctx.setM_yielded (c : Ctx) (i : BitVec 4) (v : BitVec 64) : (c.setM i v).yielded = c.yielded := by
  unfold Ctx.setM; split <;> rfl
@[simp] theorem Ctx.setM_sb (c : Ctx) (i : BitVec 4) (v : BitVec 64) : (c.setM i v).sb = c.sb := by
  unfold Ctx.setM; split <;> rfl
@[simp] theorem Ctx.setM_divFree (c : Ctx) (i : BitVec 4) (v : BitVec 64) : (c.setM i v).divFree = c.divFree := by
  unfold Ctx.setM; split <;> rfl
@[simp] theorem Ctx.setM_sfuDue (c : Ctx) (i : BitVec 4) (v : BitVec 64) : (c.setM i v).sfuDue = c.sfuDue := by
  unfold Ctx.setM; split <;> rfl
@[simp] theorem Ctx.setM_scl (c : Ctx) (i : BitVec 4) (v : BitVec 64) : (c.setM i v).scl = c.scl := by
  unfold Ctx.setM; split <;> rfl
@[simp] theorem Ctx.setM_gath (c : Ctx) (i : BitVec 4) (v : BitVec 64) : (c.setM i v).gath = c.gath := by
  unfold Ctx.setM; split <;> rfl
@[simp] theorem Ctx.setM_tlbshBusy (c : Ctx) (i : BitVec 4) (v : BitVec 64) : (c.setM i v).tlbshBusy = c.tlbshBusy := by
  unfold Ctx.setM; split <;> rfl
@[simp] theorem Ctx.setM_cacheBusy (c : Ctx) (i : BitVec 4) (v : BitVec 64) : (c.setM i v).cacheBusy = c.cacheBusy := by
  unfold Ctx.setM; split <;> rfl
@[simp] theorem Ctx.setM_ans (c : Ctx) (i : BitVec 4) (v : BitVec 64) : (c.setM i v).ans = c.ans := by
  unfold Ctx.setM; split <;> rfl
@[simp] theorem Ctx.setM_remote (c : Ctx) (i : BitVec 4) (v : BitVec 64) : (c.setM i v).remote = c.remote := by
  unfold Ctx.setM; split <;> rfl
@[simp] theorem Ctx.setM_acks (c : Ctx) (i : BitVec 4) (v : BitVec 64) : (c.setM i v).acks = c.acks := by
  unfold Ctx.setM; split <;> rfl
@[simp] theorem Ctx.setM_drain (c : Ctx) (i : BitVec 4) (v : BitVec 64) : (c.setM i v).drain = c.drain := by
  unfold Ctx.setM; split <;> rfl
@[simp] theorem Ctx.setM_fence (c : Ctx) (i : BitVec 4) (v : BitVec 64) : (c.setM i v).fence = c.fence := by
  unfold Ctx.setM; split <;> rfl
@[simp] theorem Ctx.setM_fdrop (c : Ctx) (i : BitVec 4) (v : BitVec 64) : (c.setM i v).fdrop = c.fdrop := by
  unfold Ctx.setM; split <;> rfl
@[simp] theorem Ctx.setM_paid (c : Ctx) (i : BitVec 4) (v : BitVec 64) : (c.setM i v).paid = c.paid := by
  unfold Ctx.setM; split <;> rfl
@[simp] theorem Ctx.setM_leave (c : Ctx) (i : BitVec 4) (v : BitVec 64) : (c.setM i v).leave = c.leave := by
  unfold Ctx.setM; split <;> rfl
@[simp] theorem Ctx.setM_cause (c : Ctx) (i : BitVec 4) (v : BitVec 64) : (c.setM i v).cause = c.cause := by
  unfold Ctx.setM; split <;> rfl
@[simp] theorem Ctx.setM_halted (c : Ctx) (i : BitVec 4) (v : BitVec 64) : (c.setM i v).halted = c.halted := by
  unfold Ctx.setM; split <;> rfl
@[simp] theorem Ctx.setM_todo (c : Ctx) (i : BitVec 4) (v : BitVec 64) : (c.setM i v).todo = c.todo := by
  unfold Ctx.setM; split <;> rfl
@[simp] theorem Ctx.setM_rearm (c : Ctx) (i : BitVec 4) (v : BitVec 64) : (c.setM i v).rearm = c.rearm := by
  unfold Ctx.setM; split <;> rfl

@[simp] theorem Ctx.avail_st (c : Ctx) (k n l : Nat) : (c.avail k n l).st = c.st := rfl
@[simp] theorem Ctx.avail_task (c : Ctx) (k n l : Nat) : (c.avail k n l).task = c.task := rfl
@[simp] theorem Ctx.avail_pc (c : Ctx) (k n l : Nat) : (c.avail k n l).pc = c.pc := rfl
@[simp] theorem Ctx.avail_xs (c : Ctx) (k n l : Nat) : (c.avail k n l).xs = c.xs := rfl
@[simp] theorem Ctx.avail_ps (c : Ctx) (k n l : Nat) : (c.avail k n l).ps = c.ps := rfl
@[simp] theorem Ctx.avail_vs (c : Ctx) (k n l : Nat) : (c.avail k n l).vs = c.vs := rfl
@[simp] theorem Ctx.avail_ms (c : Ctx) (k n l : Nat) : (c.avail k n l).ms = c.ms := rfl
@[simp] theorem Ctx.avail_es (c : Ctx) (k n l : Nat) : (c.avail k n l).es = c.es := rfl
@[simp] theorem Ctx.avail_acc (c : Ctx) (k n l : Nat) : (c.avail k n l).acc = c.acc := rfl
@[simp] theorem Ctx.avail_latch (c : Ctx) (k n l : Nat) : (c.avail k n l).latch = c.latch := rfl
@[simp] theorem Ctx.avail_fpflags (c : Ctx) (k n l : Nat) : (c.avail k n l).fpflags = c.fpflags := rfl
@[simp] theorem Ctx.avail_fprec (c : Ctx) (k n l : Nat) : (c.avail k n l).fprec = c.fprec := rfl
@[simp] theorem Ctx.avail_loops (c : Ctx) (k n l : Nat) : (c.avail k n l).loops = c.loops := rfl
@[simp] theorem Ctx.avail_region (c : Ctx) (k n l : Nat) : (c.avail k n l).region = c.region := rfl
@[simp] theorem Ctx.avail_hct (c : Ctx) (k n l : Nat) : (c.avail k n l).hct = c.hct := rfl
@[simp] theorem Ctx.avail_wid (c : Ctx) (k n l : Nat) : (c.avail k n l).wid = c.wid := rfl
@[simp] theorem Ctx.avail_pen (c : Ctx) (k n l : Nat) : (c.avail k n l).pen = c.pen := rfl
@[simp] theorem Ctx.avail_prio (c : Ctx) (k n l : Nat) : (c.avail k n l).prio = c.prio := rfl
@[simp] theorem Ctx.avail_mpc (c : Ctx) (k n l : Nat) : (c.avail k n l).mpc = c.mpc := rfl
@[simp] theorem Ctx.avail_waitlim (c : Ctx) (k n l : Nat) : (c.avail k n l).waitlim = c.waitlim := rfl
@[simp] theorem Ctx.avail_mft (c : Ctx) (k n l : Nat) : (c.avail k n l).mft = c.mft := rfl
@[simp] theorem Ctx.avail_nextcid (c : Ctx) (k n l : Nat) : (c.avail k n l).nextcid = c.nextcid := rfl
@[simp] theorem Ctx.avail_rings (c : Ctx) (k n l : Nat) : (c.avail k n l).rings = c.rings := rfl
@[simp] theorem Ctx.avail_mcbase (c : Ctx) (k n l : Nat) : (c.avail k n l).mcbase = c.mcbase := rfl
@[simp] theorem Ctx.avail_mcmask (c : Ctx) (k n l : Nat) : (c.avail k n l).mcmask = c.mcmask := rfl
@[simp] theorem Ctx.avail_eng (c : Ctx) (k n l : Nat) : (c.avail k n l).eng = c.eng := rfl
@[simp] theorem Ctx.avail_ports (c : Ctx) (k n l : Nat) : (c.avail k n l).ports = c.ports := rfl
@[simp] theorem Ctx.avail_status (c : Ctx) (k n l : Nat) : (c.avail k n l).status = c.status := rfl
@[simp] theorem Ctx.avail_arrivals (c : Ctx) (k n l : Nat) : (c.avail k n l).arrivals = c.arrivals := rfl
@[simp] theorem Ctx.avail_denial (c : Ctx) (k n l : Nat) : (c.avail k n l).denial = c.denial := rfl
@[simp] theorem Ctx.avail_sole (c : Ctx) (k n l : Nat) : (c.avail k n l).sole = c.sole := rfl
@[simp] theorem Ctx.avail_yielded (c : Ctx) (k n l : Nat) : (c.avail k n l).yielded = c.yielded := rfl
@[simp] theorem Ctx.avail_divFree (c : Ctx) (k n l : Nat) : (c.avail k n l).divFree = c.divFree := rfl
@[simp] theorem Ctx.avail_sfuDue (c : Ctx) (k n l : Nat) : (c.avail k n l).sfuDue = c.sfuDue := rfl
@[simp] theorem Ctx.avail_scl (c : Ctx) (k n l : Nat) : (c.avail k n l).scl = c.scl := rfl
@[simp] theorem Ctx.avail_gath (c : Ctx) (k n l : Nat) : (c.avail k n l).gath = c.gath := rfl
@[simp] theorem Ctx.avail_tlbshBusy (c : Ctx) (k n l : Nat) : (c.avail k n l).tlbshBusy = c.tlbshBusy := rfl
@[simp] theorem Ctx.avail_cacheBusy (c : Ctx) (k n l : Nat) : (c.avail k n l).cacheBusy = c.cacheBusy := rfl
@[simp] theorem Ctx.avail_ans (c : Ctx) (k n l : Nat) : (c.avail k n l).ans = c.ans := rfl
@[simp] theorem Ctx.avail_remote (c : Ctx) (k n l : Nat) : (c.avail k n l).remote = c.remote := rfl
@[simp] theorem Ctx.avail_acks (c : Ctx) (k n l : Nat) : (c.avail k n l).acks = c.acks := rfl
@[simp] theorem Ctx.avail_drain (c : Ctx) (k n l : Nat) : (c.avail k n l).drain = c.drain := rfl
@[simp] theorem Ctx.avail_fence (c : Ctx) (k n l : Nat) : (c.avail k n l).fence = c.fence := rfl
@[simp] theorem Ctx.avail_fdrop (c : Ctx) (k n l : Nat) : (c.avail k n l).fdrop = c.fdrop := rfl
@[simp] theorem Ctx.avail_paid (c : Ctx) (k n l : Nat) : (c.avail k n l).paid = c.paid := rfl
@[simp] theorem Ctx.avail_leave (c : Ctx) (k n l : Nat) : (c.avail k n l).leave = c.leave := rfl
@[simp] theorem Ctx.avail_cause (c : Ctx) (k n l : Nat) : (c.avail k n l).cause = c.cause := rfl
@[simp] theorem Ctx.avail_halted (c : Ctx) (k n l : Nat) : (c.avail k n l).halted = c.halted := rfl
@[simp] theorem Ctx.avail_todo (c : Ctx) (k n l : Nat) : (c.avail k n l).todo = c.todo := rfl
@[simp] theorem Ctx.avail_rearm (c : Ctx) (k n l : Nat) : (c.avail k n l).rearm = c.rearm := rfl

@[simp] theorem Ctx.raise_st (c : Ctx) (g : Nat) (fl : Flags) (p : BitVec 60) : (c.raise g fl p).st = c.st := by
  unfold Ctx.raise; split <;> rfl
@[simp] theorem Ctx.raise_task (c : Ctx) (g : Nat) (fl : Flags) (p : BitVec 60) : (c.raise g fl p).task = c.task := by
  unfold Ctx.raise; split <;> rfl
@[simp] theorem Ctx.raise_pc (c : Ctx) (g : Nat) (fl : Flags) (p : BitVec 60) : (c.raise g fl p).pc = c.pc := by
  unfold Ctx.raise; split <;> rfl
@[simp] theorem Ctx.raise_xs (c : Ctx) (g : Nat) (fl : Flags) (p : BitVec 60) : (c.raise g fl p).xs = c.xs := by
  unfold Ctx.raise; split <;> rfl
@[simp] theorem Ctx.raise_ps (c : Ctx) (g : Nat) (fl : Flags) (p : BitVec 60) : (c.raise g fl p).ps = c.ps := by
  unfold Ctx.raise; split <;> rfl
@[simp] theorem Ctx.raise_vs (c : Ctx) (g : Nat) (fl : Flags) (p : BitVec 60) : (c.raise g fl p).vs = c.vs := by
  unfold Ctx.raise; split <;> rfl
@[simp] theorem Ctx.raise_ms (c : Ctx) (g : Nat) (fl : Flags) (p : BitVec 60) : (c.raise g fl p).ms = c.ms := by
  unfold Ctx.raise; split <;> rfl
@[simp] theorem Ctx.raise_es (c : Ctx) (g : Nat) (fl : Flags) (p : BitVec 60) : (c.raise g fl p).es = c.es := by
  unfold Ctx.raise; split <;> rfl
@[simp] theorem Ctx.raise_acc (c : Ctx) (g : Nat) (fl : Flags) (p : BitVec 60) : (c.raise g fl p).acc = c.acc := by
  unfold Ctx.raise; split <;> rfl
@[simp] theorem Ctx.raise_latch (c : Ctx) (g : Nat) (fl : Flags) (p : BitVec 60) : (c.raise g fl p).latch = c.latch := by
  unfold Ctx.raise; split <;> rfl
@[simp] theorem Ctx.raise_loops (c : Ctx) (g : Nat) (fl : Flags) (p : BitVec 60) : (c.raise g fl p).loops = c.loops := by
  unfold Ctx.raise; split <;> rfl
@[simp] theorem Ctx.raise_region (c : Ctx) (g : Nat) (fl : Flags) (p : BitVec 60) : (c.raise g fl p).region = c.region := by
  unfold Ctx.raise; split <;> rfl
@[simp] theorem Ctx.raise_hct (c : Ctx) (g : Nat) (fl : Flags) (p : BitVec 60) : (c.raise g fl p).hct = c.hct := by
  unfold Ctx.raise; split <;> rfl
@[simp] theorem Ctx.raise_wid (c : Ctx) (g : Nat) (fl : Flags) (p : BitVec 60) : (c.raise g fl p).wid = c.wid := by
  unfold Ctx.raise; split <;> rfl
@[simp] theorem Ctx.raise_pen (c : Ctx) (g : Nat) (fl : Flags) (p : BitVec 60) : (c.raise g fl p).pen = c.pen := by
  unfold Ctx.raise; split <;> rfl
@[simp] theorem Ctx.raise_prio (c : Ctx) (g : Nat) (fl : Flags) (p : BitVec 60) : (c.raise g fl p).prio = c.prio := by
  unfold Ctx.raise; split <;> rfl
@[simp] theorem Ctx.raise_mpc (c : Ctx) (g : Nat) (fl : Flags) (p : BitVec 60) : (c.raise g fl p).mpc = c.mpc := by
  unfold Ctx.raise; split <;> rfl
@[simp] theorem Ctx.raise_waitlim (c : Ctx) (g : Nat) (fl : Flags) (p : BitVec 60) : (c.raise g fl p).waitlim = c.waitlim := by
  unfold Ctx.raise; split <;> rfl
@[simp] theorem Ctx.raise_mft (c : Ctx) (g : Nat) (fl : Flags) (p : BitVec 60) : (c.raise g fl p).mft = c.mft := by
  unfold Ctx.raise; split <;> rfl
@[simp] theorem Ctx.raise_nextcid (c : Ctx) (g : Nat) (fl : Flags) (p : BitVec 60) : (c.raise g fl p).nextcid = c.nextcid := by
  unfold Ctx.raise; split <;> rfl
@[simp] theorem Ctx.raise_rings (c : Ctx) (g : Nat) (fl : Flags) (p : BitVec 60) : (c.raise g fl p).rings = c.rings := by
  unfold Ctx.raise; split <;> rfl
@[simp] theorem Ctx.raise_mcbase (c : Ctx) (g : Nat) (fl : Flags) (p : BitVec 60) : (c.raise g fl p).mcbase = c.mcbase := by
  unfold Ctx.raise; split <;> rfl
@[simp] theorem Ctx.raise_mcmask (c : Ctx) (g : Nat) (fl : Flags) (p : BitVec 60) : (c.raise g fl p).mcmask = c.mcmask := by
  unfold Ctx.raise; split <;> rfl
@[simp] theorem Ctx.raise_eng (c : Ctx) (g : Nat) (fl : Flags) (p : BitVec 60) : (c.raise g fl p).eng = c.eng := by
  unfold Ctx.raise; split <;> rfl
@[simp] theorem Ctx.raise_ports (c : Ctx) (g : Nat) (fl : Flags) (p : BitVec 60) : (c.raise g fl p).ports = c.ports := by
  unfold Ctx.raise; split <;> rfl
@[simp] theorem Ctx.raise_status (c : Ctx) (g : Nat) (fl : Flags) (p : BitVec 60) : (c.raise g fl p).status = c.status := by
  unfold Ctx.raise; split <;> rfl
@[simp] theorem Ctx.raise_arrivals (c : Ctx) (g : Nat) (fl : Flags) (p : BitVec 60) : (c.raise g fl p).arrivals = c.arrivals := by
  unfold Ctx.raise; split <;> rfl
@[simp] theorem Ctx.raise_denial (c : Ctx) (g : Nat) (fl : Flags) (p : BitVec 60) : (c.raise g fl p).denial = c.denial := by
  unfold Ctx.raise; split <;> rfl
@[simp] theorem Ctx.raise_sole (c : Ctx) (g : Nat) (fl : Flags) (p : BitVec 60) : (c.raise g fl p).sole = c.sole := by
  unfold Ctx.raise; split <;> rfl
@[simp] theorem Ctx.raise_yielded (c : Ctx) (g : Nat) (fl : Flags) (p : BitVec 60) : (c.raise g fl p).yielded = c.yielded := by
  unfold Ctx.raise; split <;> rfl
@[simp] theorem Ctx.raise_sb (c : Ctx) (g : Nat) (fl : Flags) (p : BitVec 60) : (c.raise g fl p).sb = c.sb := by
  unfold Ctx.raise; split <;> rfl
@[simp] theorem Ctx.raise_divFree (c : Ctx) (g : Nat) (fl : Flags) (p : BitVec 60) : (c.raise g fl p).divFree = c.divFree := by
  unfold Ctx.raise; split <;> rfl
@[simp] theorem Ctx.raise_sfuDue (c : Ctx) (g : Nat) (fl : Flags) (p : BitVec 60) : (c.raise g fl p).sfuDue = c.sfuDue := by
  unfold Ctx.raise; split <;> rfl
@[simp] theorem Ctx.raise_scl (c : Ctx) (g : Nat) (fl : Flags) (p : BitVec 60) : (c.raise g fl p).scl = c.scl := by
  unfold Ctx.raise; split <;> rfl
@[simp] theorem Ctx.raise_gath (c : Ctx) (g : Nat) (fl : Flags) (p : BitVec 60) : (c.raise g fl p).gath = c.gath := by
  unfold Ctx.raise; split <;> rfl
@[simp] theorem Ctx.raise_tlbshBusy (c : Ctx) (g : Nat) (fl : Flags) (p : BitVec 60) : (c.raise g fl p).tlbshBusy = c.tlbshBusy := by
  unfold Ctx.raise; split <;> rfl
@[simp] theorem Ctx.raise_cacheBusy (c : Ctx) (g : Nat) (fl : Flags) (p : BitVec 60) : (c.raise g fl p).cacheBusy = c.cacheBusy := by
  unfold Ctx.raise; split <;> rfl
@[simp] theorem Ctx.raise_ans (c : Ctx) (g : Nat) (fl : Flags) (p : BitVec 60) : (c.raise g fl p).ans = c.ans := by
  unfold Ctx.raise; split <;> rfl
@[simp] theorem Ctx.raise_remote (c : Ctx) (g : Nat) (fl : Flags) (p : BitVec 60) : (c.raise g fl p).remote = c.remote := by
  unfold Ctx.raise; split <;> rfl
@[simp] theorem Ctx.raise_acks (c : Ctx) (g : Nat) (fl : Flags) (p : BitVec 60) : (c.raise g fl p).acks = c.acks := by
  unfold Ctx.raise; split <;> rfl
@[simp] theorem Ctx.raise_drain (c : Ctx) (g : Nat) (fl : Flags) (p : BitVec 60) : (c.raise g fl p).drain = c.drain := by
  unfold Ctx.raise; split <;> rfl
@[simp] theorem Ctx.raise_fence (c : Ctx) (g : Nat) (fl : Flags) (p : BitVec 60) : (c.raise g fl p).fence = c.fence := by
  unfold Ctx.raise; split <;> rfl
@[simp] theorem Ctx.raise_fdrop (c : Ctx) (g : Nat) (fl : Flags) (p : BitVec 60) : (c.raise g fl p).fdrop = c.fdrop := by
  unfold Ctx.raise; split <;> rfl
@[simp] theorem Ctx.raise_paid (c : Ctx) (g : Nat) (fl : Flags) (p : BitVec 60) : (c.raise g fl p).paid = c.paid := by
  unfold Ctx.raise; split <;> rfl
@[simp] theorem Ctx.raise_leave (c : Ctx) (g : Nat) (fl : Flags) (p : BitVec 60) : (c.raise g fl p).leave = c.leave := by
  unfold Ctx.raise; split <;> rfl
@[simp] theorem Ctx.raise_cause (c : Ctx) (g : Nat) (fl : Flags) (p : BitVec 60) : (c.raise g fl p).cause = c.cause := by
  unfold Ctx.raise; split <;> rfl
@[simp] theorem Ctx.raise_halted (c : Ctx) (g : Nat) (fl : Flags) (p : BitVec 60) : (c.raise g fl p).halted = c.halted := by
  unfold Ctx.raise; split <;> rfl
@[simp] theorem Ctx.raise_todo (c : Ctx) (g : Nat) (fl : Flags) (p : BitVec 60) : (c.raise g fl p).todo = c.todo := by
  unfold Ctx.raise; split <;> rfl
@[simp] theorem Ctx.raise_rearm (c : Ctx) (g : Nat) (fl : Flags) (p : BitVec 60) : (c.raise g fl p).rearm = c.rearm := by
  unfold Ctx.raise; split <;> rfl

/-! ### A register after a write -/

theorem toNat_ne6 {i j : BitVec 6} (h : j ≠ i) : j.toNat ≠ i.toNat := fun e => h (BitVec.eq_of_toNat_eq e)
theorem toNat_ne4 {i j : BitVec 4} (h : j ≠ i) : j.toNat ≠ i.toNat := fun e => h (BitVec.eq_of_toNat_eq e)

/-- x0 reads as zero whatever is written (R117). -/
theorem Ctx.x_zero (c : Ctx) : c.x 0 = 0 := if_pos rfl

theorem Ctx.x_setX (c : Ctx) (i j : BitVec 6) (v : Word) :
    (c.setX i v).x j = if j = i ∧ j ≠ 0 then v else c.x j := by
  unfold Ctx.x Ctx.setX
  by_cases hj : j = 0
  · rw [if_pos hj, if_pos hj, if_neg (fun h => h.2 hj)]
  · rw [if_neg hj, if_neg hj]
    by_cases hi : i = 0
    · rw [if_pos hi, if_neg (fun h => hj (h.1.trans hi))]
    · rw [if_neg hi]
      by_cases h : j = i
      · subst h; rw [if_pos ⟨rfl, hj⟩]; exact sget_sput_same _ _ _ _
      · rw [if_neg (fun k => h k.1)]; exact sget_sput_other _ _ _ (toNat_ne6 h)

theorem Ctx.v_setV (c : Ctx) (i j : BitVec 6) (w : VWord) : (c.setV i w).v j = if j = i then w else c.v j := by
  unfold Ctx.v Ctx.setV
  by_cases h : j = i
  · subst h; rw [if_pos rfl]; exact sget_sput_same _ _ _ _
  · rw [if_neg h]; exact sget_sput_other _ _ _ (toNat_ne6 h)

/-- m0 reads as all ones whatever is written (R139). -/
theorem Ctx.m_zero (c : Ctx) : c.m 0 = BitVec.allOnes 64 := if_pos rfl

theorem Ctx.m_setM (c : Ctx) (i j : BitVec 4) (w : BitVec 64) :
    (c.setM i w).m j = if j = i ∧ j ≠ 0 then w else c.m j := by
  unfold Ctx.m Ctx.setM
  by_cases hj : j = 0
  · rw [if_pos hj, if_pos hj, if_neg (fun h => h.2 hj)]
  · rw [if_neg hj, if_neg hj]
    by_cases hi : i = 0
    · rw [if_pos hi, if_neg (fun h => hj (h.1.trans hi))]
    · rw [if_neg hi]
      by_cases h : j = i
      · subst h; rw [if_pos ⟨rfl, hj⟩]; exact sget_sput_same _ _ _ _
      · rw [if_neg (fun k => h k.1)]; exact sget_sput_other _ _ _ (toNat_ne4 h)

/-- p0 reads as true (R117). -/
theorem Ctx.p_zero (c : Ctx) : c.p 0 = true := by simp [Ctx.p]

theorem setPred_getLsbD (ps : BitVec 16) (i j : BitVec 4) (v : Bool) :
    (setPred ps i v).getLsbD j.toNat = if j = i ∧ i ≠ 0 then v else ps.getLsbD j.toNat := by
  have key : ∀ (i j : BitVec 4), (1#16 <<< i.toNat).getLsbD j.toNat = decide (j = i) := by decide
  have hj := j.isLt
  unfold setPred
  by_cases h0 : i = 0
  · rw [if_pos h0, if_neg (fun h => h.2 h0)]
  · rw [if_neg h0]
    have hd : (j = i ∧ i ≠ 0) ↔ j = i := ⟨fun h => h.1, fun h => ⟨h, h0⟩⟩
    cases v
    · show (ps &&& ~~~(1#16 <<< i.toNat)).getLsbD j.toNat = _
      rw [BitVec.getLsbD_and, BitVec.getLsbD_not, key i j]
      by_cases h : j = i
      · rw [if_pos (hd.mpr h)]; simp [h]
      · simp [h, show j.toNat < 16 by omega]
    · show (ps ||| (1#16 <<< i.toNat)).getLsbD j.toNat = _
      rw [BitVec.getLsbD_or, key i j]
      by_cases h : j = i
      · rw [if_pos (hd.mpr h)]; simp [h]
      · simp [h]

theorem Ctx.p_setP (c : Ctx) (i j : BitVec 4) (v : Bool) :
    (c.setP i v).p j = if j = i ∧ i ≠ 0 then v else c.p j := by
  unfold Ctx.p Ctx.setP
  simp only [setPred_getLsbD]
  by_cases hj : j = 0
  · have hn : ¬(j = i ∧ i ≠ 0) := fun h => h.2 (h.1.symm.trans hj)
    rw [if_neg hn, if_neg hn]
  · by_cases h : j = i ∧ i ≠ 0
    · rw [if_pos h, if_pos h]; simp only [hj, decide_false, Bool.false_or]
    · rw [if_neg h, if_neg h]

end Sys2Proof.Machine
end

