-- ==== Sys2Proof/Laws/Memory.lean ====
section
/-! SUPPORT. Memory: its operations keep the canonical form, a read after a write gives the value written, and a write
leaves every other byte alone. -/

namespace Sys2Proof.Machine

theorem memory_wf_reset : Memory.wf State.reset.mem = true := rfl

/-- A fold whose every step leaves a projection alone leaves it alone. -/
theorem foldl_keeps {σ β γ : Type} (p : σ → γ) (f : σ → β → σ) (h : ∀ s b, p (f s b) = p s) (l : List β) (s : σ) :
    p (l.foldl f s) = p s := by
  induction l generalizing s with
  | nil => rfl
  | cons b r ih => rw [List.foldl_cons, ih, h]

@[simp] theorem State.invalidateLine_mem (s : State) (c : Option Nat) (pa : Nat) :
    (s.invalidateLine c pa).mem = s.mem := by
  unfold State.invalidateLine
  refine foldl_keeps State.mem _ ?_ _ _
  intro s kc
  split
  · rfl
  · split <;> rfl

@[simp] theorem State.invalidateOthers_mem (s : State) (c : Option Nat) (pa n : Nat) :
    (s.invalidateOthers c pa n).mem = s.mem :=
  foldl_keeps State.mem _ (fun s _ => s.invalidateLine_mem c _) _ _

@[simp] theorem State.wakeMons_mem (s : State) (pa n : Nat) : (s.wakeMons pa n).mem = s.mem := by
  unfold State.wakeMons
  refine foldl_keeps State.mem _ ?_ _ _
  intro s kc
  refine foldl_keeps State.mem _ ?_ _ _
  intro s m
  rfl

/-- What `physWrite` does to memory. -/
theorem State.physWrite_mem (s : State) (c : Option Nat) (pa n v : Nat) :
    (s.physWrite c pa n v).mem = if n = 0 then s.mem else cellsWrite s.mem 52 (s.home pa) n v := by
  unfold State.physWrite
  split
  · rfl
  · rw [State.wakeMons_mem]
    simp

/-- A coherent write keeps the canonical form. -/
theorem State.physWrite_wf (s : State) (c : Option Nat) (pa n v : Nat) (h : Memory.wf s.mem = true) :
    Memory.wf (s.physWrite c pa n v).mem = true := by
  rw [State.physWrite_mem]
  split
  · exact h
  · exact swf_cellsWrite _ _ _ _ _ h

@[simp] theorem State.invalidateLine_pkg (s : State) (c : Option Nat) (pa : Nat) :
    (s.invalidateLine c pa).pkg = s.pkg := by
  unfold State.invalidateLine
  refine foldl_keeps State.pkg _ ?_ _ _
  intro s kc
  split
  · rfl
  · split <;> rfl

@[simp] theorem State.invalidateOthers_pkg (s : State) (c : Option Nat) (pa n : Nat) :
    (s.invalidateOthers c pa n).pkg = s.pkg :=
  foldl_keeps State.pkg _ (fun s _ => s.invalidateLine_pkg c _) _ _

@[simp] theorem State.wakeMons_pkg (s : State) (pa n : Nat) : (s.wakeMons pa n).pkg = s.pkg := by
  unfold State.wakeMons
  refine foldl_keeps State.pkg _ ?_ _ _
  intro s kc
  refine foldl_keeps State.pkg _ ?_ _ _
  intro s m
  rfl

@[simp] theorem State.physWrite_pkg (s : State) (c : Option Nat) (pa n v : Nat) : (s.physWrite c pa n v).pkg = s.pkg := by
  unfold State.physWrite
  split
  · rfl
  · rw [State.wakeMons_pkg]; simp

/-- A physical address names the same cells in two states of one package. -/
theorem State.home_congr {s t : State} (h : t.pkg = s.pkg) (pa : Nat) : t.home pa = s.home pa := by
  unfold State.home; rw [h]

/-- Equal memories read equally. -/
theorem State.physRead_congr {s t : State} (hp : t.pkg = s.pkg) (hm : t.mem = s.mem) (pa n : Nat) :
    t.physRead pa n = s.physRead pa n := by
  unfold State.physRead
  rw [State.home_congr hp, hm]

/-- A read after a write to the same place. -/
theorem State.physRead_physWrite (s : State) (c : Option Nat) (pa n v : Nat) (hn : n ≤ 2 ^ 52) :
    (s.physWrite c pa n v).physRead pa n = v % 256 ^ n := by
  unfold State.physRead
  rw [State.home_congr (s.physWrite_pkg c pa n v), State.physWrite_mem]
  split
  · rename_i h; subst h; simp [cellsRead, Nat.mod_one]
  · exact cellsRead_cellsWrite _ _ _ _ _ hn

/-- A write leaves every other byte alone. -/
theorem State.physRead_physWrite_other (s : State) (c : Option Nat) (pa n v a : Nat)
    (h : ∀ k < n, s.home a % 2 ^ 52 ≠ (s.home pa + k) % 2 ^ 52) :
    (s.physWrite c pa n v).physRead a 1 = s.physRead a 1 := by
  unfold State.physRead
  rw [State.home_congr (s.physWrite_pkg c pa n v), State.physWrite_mem]
  split
  · rfl
  · refine cellsRead_cellsWrite_other _ _ _ _ _ _ _ ?_
    intro i hi j hj
    have : i = 0 := by omega
    subst this
    exact h j hj

/-- The near address of a near address is itself (R217). -/
theorem State.home_home (s : State) (pa : Nat) : s.home (s.home pa) = s.home pa := by
  unfold State.home
  split
  · rename_i h
    have hlt : pa % 2 ^ 40 < 2 ^ 39 := by
      have h1 := h.1
      unfold tierOf at h1
      split at h1
      · simp at h1
      · split at h1
        · simp at h1
        · split at h1
          · simp at h1
          · split at h1
            · rename_i hh; exact hh.2.2
            · simp at h1
    have h0 : tierOf (pa % 2 ^ 40) = some 0 := if_pos hlt
    rw [if_neg (fun k => by rw [h0] at k; exact absurd k.1 (by decide))]
  · rfl

@[simp] theorem State.loseMons_mem (s : State) (cl : Nat) (ms : List Mon) : (s.loseMons cl ms).mem = s.mem := by
  refine foldl_keeps State.mem _ ?_ _ _
  intro s m
  rfl

@[simp] theorem State.dirtyL2_mem (s : State) (cl cpol pa n : Nat) : (s.dirtyL2 cl cpol pa n).mem = s.mem := rfl

end Sys2Proof.Machine
end

