-- ==== Sys2Proof/Laws/Ops.lean ====
section
/-! SUPPORT. What the shared operations of slot operations can do: the guard, the register writes, the flags. -/

namespace Sys2Proof.Machine

/-- A guarded operation always answers a next state. -/
theorem guarded_next (g : BitVec 4) (f : State → State) (s : State) :
    guarded g f s = .next (if s.issue.pre.p g then f s else s) := rfl

@[simp] theorem guarded_true (g : BitVec 4) (f : State → State) (s : State) (h : s.issue.pre.p g = true) :
    guarded g f s = .next (f s) := by simp [guarded, h]

@[simp] theorem guarded_false (g : BitVec 4) (f : State → State) (s : State) (h : s.issue.pre.p g = false) :
    guarded g f s = .next s := by simp [guarded, h]

/-- Writing a context back as it is (in a state whose context table is canonical, the state itself). -/
theorem State.ctx_putX (s : State) (rd : BitVec 6) (v : Word) (lat i : Nat) :
    (s.putX rd v lat).ctx i =
      if i = s.issue.ctx then (s.cur.setX rd v).avail (keyX rd) (s.now s.issue.ctx) lat else s.ctx i :=
  State.ctx_setCtx _ _ _ _

/-- A register write changes nothing but x[rd] and its interlock mark. -/
theorem State.putX_eq (s : State) (rd : BitVec 6) (v : Word) (lat : Nat) :
    s.putX rd v lat = s.setCtx s.issue.ctx { s.cur with
      xs := (s.putX rd v lat).cur.xs
      sb := (s.putX rd v lat).cur.sb } := by
  have h : (s.putX rd v lat).cur = (s.cur.setX rd v).avail (keyX rd) (s.now s.issue.ctx) lat := by
    show (State.setCtx _ _ _).ctx _ = _
    exact State.ctx_setCtx_same _ _ _
  rw [h]
  show State.setCtx _ _ _ = _
  congr 1
  show (s.cur.setX rd v).avail _ _ _ = _
  unfold Ctx.setX Ctx.avail
  split <;> rfl

theorem State.putX_x (s : State) (rd j : BitVec 6) (v : Word) (lat : Nat) :
    (s.putX rd v lat).cur.x j = if j = rd ∧ j ≠ 0 then v else s.cur.x j := by
  have h : (s.putX rd v lat).cur = (s.cur.setX rd v).avail (keyX rd) (s.now s.issue.ctx) lat := by
    show (State.setCtx _ _ _).ctx _ = _
    exact State.ctx_setCtx_same _ _ _
  rw [h]
  exact Ctx.x_setX _ _ _ _

theorem State.putV_eq (s : State) (vd : BitVec 6) (v : VWord) (lat : Nat) :
    s.putV vd v lat = s.setCtx s.issue.ctx { s.cur with
      vs := (s.putV vd v lat).cur.vs
      gath := s.cur.gath.filter (fun r => r.vd != vd)
      sb := (s.putV vd v lat).cur.sb } := by
  have h : (s.putV vd v lat).cur = (s.cur.setV vd v).avail (keyV vd) (s.now s.issue.ctx) lat := by
    show (State.setCtx _ _ _).ctx _ = _
    exact State.ctx_setCtx_same _ _ _
  rw [h]
  rfl

theorem State.putV_v (s : State) (vd j : BitVec 6) (v : VWord) (lat : Nat) :
    (s.putV vd v lat).cur.v j = if j = vd then v else s.cur.v j := by
  have h : (s.putV vd v lat).cur = (s.cur.setV vd v).avail (keyV vd) (s.now s.issue.ctx) lat := by
    show (State.setCtx _ _ _).ctx _ = _
    exact State.ctx_setCtx_same _ _ _
  rw [h]
  exact Ctx.v_setV _ _ _ _

theorem State.putM_eq (s : State) (md : BitVec 4) (v : BitVec 64) (lat : Nat) :
    s.putM md v lat = s.setCtx s.issue.ctx { s.cur with
      ms := (s.putM md v lat).cur.ms
      sb := (s.putM md v lat).cur.sb } := by
  have h : (s.putM md v lat).cur = (s.cur.setM md v).avail (keyM md) (s.now s.issue.ctx) lat := by
    show (State.setCtx _ _ _).ctx _ = _
    exact State.ctx_setCtx_same _ _ _
  rw [h]
  show State.setCtx _ _ _ = _
  congr 1
  show (s.cur.setM md v).avail _ _ _ = _
  unfold Ctx.setM Ctx.avail
  split <;> rfl

theorem State.putM_m (s : State) (md j : BitVec 4) (v : BitVec 64) (lat : Nat) :
    (s.putM md v lat).cur.m j = if j = md ∧ j ≠ 0 then v else s.cur.m j := by
  have h : (s.putM md v lat).cur = (s.cur.setM md v).avail (keyM md) (s.now s.issue.ctx) lat := by
    show (State.setCtx _ _ _).ctx _ = _
    exact State.ctx_setCtx_same _ _ _
  rw [h]
  exact Ctx.m_setM _ _ _ _

/-- The bundle waits: nothing but the record of the bundle has changed. -/
@[simp] theorem State.stall_eq (s : State) : s.stall = { s with issue := { s.issue with status := .stall } } := rfl
@[simp] theorem State.stallFor_eq (s : State) (p : Post) :
    s.stallFor p = { s with issue := { s.issue with status := .stall, post := some p } } := rfl
@[simp] theorem State.fail_status (s : State) (f : FaultInfo) : (s.fail f).issue.status = .fault f := rfl
@[simp] theorem State.faultAt_status (s : State) (c : Code) (a : Nat) :
    (s.faultAt c a).issue.status = .fault ⟨c, a, s.issue.slot, none, none, false, 0, 0⟩ := rfl

end Sys2Proof.Machine
end

