-- ==== Sys2Proof/Tests/Slice0.lean ====
section
/-! SUPPORT. Tests: what WellFormed refuses, words written out from the encoding tables with the instruction they
decode to, and for each statement a state that meets its hypotheses. -/

open Sys2Proof Sys2Proof.Machine
namespace Sys2Proof.Tests

-- The theorems are checked one after the other: together they would need a thread each.
set_option Elab.async false

/-! ### WellFormed: an ill-formed term for each check -/

/-- R30, R38, R25, R122, R136: control and scalar checks, each just past its limit. -/
theorem test_wf_control_and_scalar :
    Instr.WellFormed (.brX ⟨0, 7, 0⟩) = false ∧ Instr.WellFormed (.brX ⟨0, 0, 0⟩) = false ∧
    Instr.WellFormed (.loop ⟨0, 1, 0⟩) = false ∧ Instr.WellFormed (.loopi ⟨0, 1, 0⟩) = false ∧
    Instr.WellFormed (.shli ⟨0, 1, 1, 64⟩) = false ∧ Instr.WellFormed (.shri ⟨0, 1, 1, 64⟩) = false ∧
    Instr.WellFormed (.srai ⟨0, 1, 1, 1023⟩) = false ∧ Instr.WellFormed (.mfsr ⟨0, 1, 5⟩) = false ∧
    Instr.WellFormed (.mtsr ⟨0, 1, 0x31⟩) = false ∧ Instr.WellFormed (.fcvt ⟨0, 1, 1, 11, 0⟩) = false ∧
    Instr.WellFormed (.fcvt ⟨0, 1, 1, 0, 11⟩) = false ∧ Instr.WellFormed (.brX ⟨15, 6, 0⟩) = true := by
  decide +kernel

/-- R26, R27, R49, R264: memory, cache, atomic and fence checks. -/
theorem test_wf_memory :
    Instr.WellFormed (.ld ⟨0, 1, 1, 4, 0⟩) = false ∧ Instr.WellFormed (.st ⟨0, 1, 1, 5, 0⟩) = false ∧
    Instr.WellFormed (.ldAcq ⟨0, 1, 1, 3, 6⟩) = false ∧ Instr.WellFormed (.stRel ⟨0, 3, 1, 4, 0⟩) = false ∧
    Instr.WellFormed (.vbx ⟨0, 0, 1, 1, 1⟩) = false ∧ Instr.WellFormed (.mldDevice ⟨0, 0, 1⟩) = false ∧
    Instr.WellFormed (.mldScratchpad ⟨0, 0, 1⟩) = false ∧ Instr.WellFormed (.cfl ⟨0, 3, 1, 1⟩) = false ∧
    Instr.WellFormed (.cinv ⟨0, 3, 1, 1⟩) = false ∧ Instr.WellFormed (.cpf ⟨0, 3, 1, 1⟩) = false ∧
    Instr.WellFormed (.cwb ⟨0, 3, 1, 1⟩) = false ∧ Instr.WellFormed (.atom ⟨0, 1, 1, 9, 1, 0, 0⟩) = false ∧
    Instr.WellFormed (.atomF ⟨0, 1, 1, 0, 1, 6, 0⟩) = false ∧ Instr.WellFormed (.cas ⟨0, 2, 1, 1, 1, 0, 0⟩) = false ∧
    Instr.WellFormed (.cas ⟨0, 3, 1, 0, 1, 0, 0⟩) = false ∧ Instr.WellFormed (.fence ⟨0, 6, 0⟩) = false ∧
    Instr.WellFormed (.fence ⟨0, 0, 3⟩) = false ∧ Instr.WellFormed (.ld ⟨0, 62, 63, 4, 127⟩) = true := by
  decide +kernel

/-- R266, R267, R391: engine, queue and tensor checks. -/
theorem test_wf_engines :
    Instr.WellFormed (.xfer ⟨0, 1, 1, 0, 3⟩) = false ∧ Instr.WellFormed (.xferQ1 ⟨0, 1, 1, 0, 3⟩) = false ∧
    Instr.WellFormed (.tmov ⟨0, 7, 1, 0⟩) = false ∧ Instr.WellFormed (.tmov ⟨0, 6, 1, 3⟩) = false ∧
    Instr.WellFormed (.conv ⟨0, 1, 1, 3⟩) = false ∧ Instr.WellFormed (.kvfree ⟨0, 1, 1, 0, 0⟩) = false ∧
    Instr.WellFormed (.kvres ⟨0, 1, 1, 0, 3⟩) = false ∧ Instr.WellFormed (.erd ⟨0, 1, 0x10B⟩) = false ∧
    Instr.WellFormed (.ewr ⟨0, 1, 0x13⟩) = false ∧ Instr.WellFormed (.pop ⟨0, 3, 1, 1⟩) = false ∧
    Instr.WellFormed (.popTry ⟨0, 2, 1, 3⟩) = false ∧ Instr.WellFormed (.push ⟨1, 0, 0, 0⟩) = false ∧
    Instr.WellFormed (.drain ⟨0, 15, 0, 0⟩) = false ∧ Instr.WellFormed (.sfuExp2 ⟨0, 0, 0, 3⟩) = false ∧
    Instr.WellFormed (.erd ⟨15, 63, 0x10F⟩) = true := by
  decide +kernel

/-- R146 to R157, R196, R345: one ill-formed term for each of the checks of the vector operations. -/
theorem test_wf_vector :
    Instr.WellFormed (.vadd ⟨0, 1, 2, 3, 0, 0, 0, 0⟩) = false ∧ Instr.WellFormed (.vabs ⟨6, 1, 2, 3, 0, 0, 0, 0⟩) = false ∧
    Instr.WellFormed (.vnarrow ⟨10, 1, 2, 3, 0, 0, 0, 0⟩) = false ∧ Instr.WellFormed (.vwiden ⟨6, 1, 2, 0, 0, 0, 0, 0⟩) = false ∧
    Instr.WellFormed (.vcmp ⟨6, 1, 2, 3, 0, 0, 1, 0⟩) = false ∧ Instr.WellFormed (.vfcmp ⟨6, 1, 2, 3, 0, 0, 0, 0⟩) = false ∧
    Instr.WellFormed (.vsel ⟨0, 1, 2, 3, 1, 0, 0, 0⟩) = false ∧ Instr.WellFormed (.vmov ⟨3, 1, 2, 0, 0, 0, 0, 0⟩) = false ∧
    Instr.WellFormed (.vimm ⟨1, 1, 4, 0, 0, 0, 0, 0⟩) = false ∧ Instr.WellFormed (.vfadd ⟨10, 1, 2, 3, 0, 0, 0, 0⟩) = false ∧
    Instr.WellFormed (.vfma ⟨3, 1, 2, 3, 4, 0, 0, 0⟩) = false ∧ Instr.WellFormed (.vfmin ⟨0, 1, 2, 3, 0, 0, 0, 1⟩) = false ∧
    Instr.WellFormed (.vround ⟨0, 1, 2, 0, 0, 0, 0, 5⟩) = false ∧ Instr.WellFormed (.vcvt ⟨0, 1, 2, 0, 11, 0, 0, 0⟩) = false ∧
    Instr.WellFormed (.vscale ⟨0, 1, 2, 16, 0, 0, 0, 0⟩) = false ∧ Instr.WellFormed (.vbcast ⟨0, 1, 2, 0, 64, 0, 0, 0⟩) = false ∧
    Instr.WellFormed (.vperm ⟨0, 1, 2, 3, 1, 0, 0, 0⟩) = false ∧ Instr.WellFormed (.vslide ⟨0, 1, 2, 3, 64, 0, 0, 0⟩) = false ∧
    Instr.WellFormed (.vzip ⟨0, 1, 2, 3, 0, 0, 0, 2⟩) = false ∧ Instr.WellFormed (.vcompress ⟨6, 1, 2, 0, 0, 0, 0, 0⟩) = false ∧
    Instr.WellFormed (.viota ⟨0, 1, 0, 0, 0, 0, 0, 0⟩) = false ∧ Instr.WellFormed (.vredmax ⟨6, 1, 2, 0, 0, 0, 0, 0⟩) = false ∧
    Instr.WellFormed (.vredsum ⟨0, 1, 2, 0, 0, 0, 0, 1⟩) = false ∧ Instr.WellFormed (.vredand ⟨0, 1, 2, 0, 0, 0, 0, 0⟩) = false ∧
    Instr.WellFormed (.mand ⟨0, 0, 1, 2, 0, 0, 0, 0⟩) = false ∧ Instr.WellFormed (.mnot ⟨0, 1, 1, 2, 0, 0, 0, 0⟩) = false ∧
    Instr.WellFormed (.mrange ⟨0, 1, 64, 0, 0, 0, 0, 0⟩) = false := by
  decide +kernel

/-- R196, R345, R371: the attention, seed and logit checks. -/
theorem test_wf_attention_and_logit :
    Instr.WellFormed (.vsmax ⟨0, 1, 2, 3, 0, 0, 0, 1⟩) = false ∧ Instr.WellFormed (.vsmaxInit ⟨0, 1, 0, 0, 0, 0, 0, 0⟩) = false ∧
    Instr.WellFormed (.vsmaxE ⟨0, 1, 2, 0, 0, 1, 0, 2⟩) = false ∧ Instr.WellFormed (.vsmaxD ⟨0, 1, 2, 1, 0, 0, 0, 3⟩) = false ∧
    Instr.WellFormed (.vmass ⟨0, 1, 2, 3, 16, 0, 0, 2⟩) = false ∧ Instr.WellFormed (.vsfin ⟨6, 1, 2, 3, 0, 0, 0, 0⟩) = false ∧
    Instr.WellFormed (.vseedexp ⟨0, 1, 2, 1, 0, 0, 0, 0⟩) = false ∧ Instr.WellFormed (.vseedfit ⟨0, 1, 2, 3, 4, 1, 0, 0⟩) = false ∧
    Instr.WellFormed (.vgen ⟨3, 1, 2, 0, 0, 0, 0, 0⟩) = false ∧ Instr.WellFormed (.lld ⟨0, 1, 0, 0⟩) = false ∧
    Instr.WellFormed (.lbias ⟨0, 1, 1, 0⟩) = false ∧ Instr.WellFormed (.ladd ⟨0, 1, 1, 1⟩) = false ∧
    Instr.WellFormed (.lpen ⟨0, 0, 0, 256⟩) = false ∧ Instr.WellFormed (.lamax ⟨1, 0, 0, 0⟩) = false ∧
    Instr.WellFormed (.lmerge ⟨0, 1, 0, 0⟩) = false ∧ Instr.WellFormed (.lsel ⟨0, 0, 0, 16⟩) = false ∧
    Instr.WellFormed (.lcmp ⟨0, 0, 0, 8⟩) = false ∧ Instr.WellFormed (.limm ⟨0, 3, 0, 0⟩) = false ∧
    Instr.WellFormed (.lmov ⟨0, 0, 0, 4⟩) = false ∧ Instr.WellFormed (.lput ⟨1, 0, 0, 0⟩) = false ∧
    Instr.WellFormed (.lend ⟨1, 0, 0, 0⟩) = false := by
  decide +kernel

/-- R12, R15, R137: an event just past the things the part has. -/
theorem test_wf_events :
    Instr.WellFormed (.denialSoleIssue 1024) = false ∧ Instr.WellFormed (.faultRecordHeldWrite 64) = false ∧
    Instr.WellFormed (.launch 128) = false ∧ Instr.WellFormed (.graphNodeStep 64) = false ∧
    Instr.WellFormed (.taskPlacement 512) = false ∧ Instr.WellFormed (.preemption 0) = false ∧
    Instr.WellFormed (.commandStart 1024 0) = false ∧ Instr.WellFormed (.commandRetire 0 65536) = false ∧
    Instr.WellFormed (.multicastArrival 32) = false ∧ Instr.WellFormed (.workQueueCycle 256 []) = false ∧
    Instr.WellFormed (.queueSpillRefill 1024) = false ∧ Instr.WellFormed (.heatRefresh 8) = false ∧
    Instr.WellFormed (.droverPageMove 4) = false ∧ Instr.WellFormed (.groomRequest 32) = false ∧
    Instr.WellFormed (.regRead 65) = false ∧ Instr.WellFormed (.registerWrite 65 0 0) = false ∧
    Instr.WellFormed (.userQueueMap 0 0) = false ∧ Instr.WellFormed (.budgetPeriodBoundary 64) = false ∧
    Instr.WellFormed (.taskPlacement 511) = true := by
  decide +kernel

/-! ### Words of the encoding tables -/

theorem test_decode_control :
  decodeAs .syllable 0x13 = some (.region ⟨3⟩) ∧
  decodeAs .syllable 0x23 = some (.commit ⟨3⟩) ∧
  decodeAs .syllable 0x14033 = some (.ret ⟨3, 5⟩) ∧
  decodeAs .syllable 0x43 = some (.lpop ⟨3⟩) ∧
  decodeAs .syllable 0x53 = some (.yield ⟨3⟩) ∧
  decodeAs .syllable 0x14063 = some (.jr ⟨3, 5⟩) ∧
  decodeAs .syllable 0x14773 = some (.twait ⟨3, 5, 7⟩) ∧
  decodeAs .syllable 0x6123453 = some (.br ⟨3, 2171717⟩) ∧
  decodeAs .syllable 0xA123453 = some (.call ⟨3, 2171717⟩) ∧
  decodeAs .syllable 0xD412343 = some (.brX ⟨3, 2, 266804⟩) ∧
  decodeAs .syllable 0x10A12343 = some (.loop ⟨3, 10, 4660⟩) ∧
  decodeAs .syllable 0x1448C773 = some (.loopi ⟨3, 291, 119⟩) ∧
  decodeAs .syllable 0x18612343 = some (.brv ⟨3, 6, 4660⟩) ∧
  decodeAs .syllable 0x19612343 = some (.brvAny ⟨3, 6, 4660⟩) ∧
  decodeAs .syllable 0x1A612343 = some (.brvAll ⟨3, 6, 4660⟩) ∧
  decodeAs .syllable 0x1C0ABCD3 = some (.trap ⟨3, 43981⟩) ∧
  decodeAs .syllable 0x1C1ABCD3 = some (.sys ⟨3, 43981⟩) ∧
  decodeAs .syllable 0x3 = some (.nop ⟨3⟩) :=
  ⟨rfl, rfl, rfl, rfl, rfl, rfl, rfl, rfl, rfl, rfl, rfl, rfl, rfl, rfl, rfl, rfl, rfl, rfl⟩

theorem test_decode_integer :
  decodeAs .syllable 0x20A14703 = some (.add ⟨3, 10, 5, 7⟩) ∧
  decodeAs .syllable 0x20A14713 = some (.sub ⟨3, 10, 5, 7⟩) ∧
  decodeAs .syllable 0x20A14723 = some (.and_ ⟨3, 10, 5, 7⟩) ∧
  decodeAs .syllable 0x20A14733 = some (.or_ ⟨3, 10, 5, 7⟩) ∧
  decodeAs .syllable 0x20A14743 = some (.xor ⟨3, 10, 5, 7⟩) ∧
  decodeAs .syllable 0x20A14753 = some (.andn ⟨3, 10, 5, 7⟩) ∧
  decodeAs .syllable 0x20A14763 = some (.shl ⟨3, 10, 5, 7⟩) ∧
  decodeAs .syllable 0x20A14773 = some (.shr ⟨3, 10, 5, 7⟩) ∧
  decodeAs .syllable 0x20A14783 = some (.sra ⟨3, 10, 5, 7⟩) ∧
  decodeAs .syllable 0x20A14793 = some (.rot ⟨3, 10, 5, 7⟩) ∧
  decodeAs .syllable 0x20A147A3 = some (.min ⟨3, 10, 5, 7⟩) ∧
  decodeAs .syllable 0x20A147B3 = some (.max ⟨3, 10, 5, 7⟩) ∧
  decodeAs .syllable 0x20A147C3 = some (.minu ⟨3, 10, 5, 7⟩) ∧
  decodeAs .syllable 0x20A147D3 = some (.maxu ⟨3, 10, 5, 7⟩) ∧
  decodeAs .syllable 0x24A14703 = some (.mul ⟨3, 10, 5, 7⟩) ∧
  decodeAs .syllable 0x24A14713 = some (.mulh ⟨3, 10, 5, 7⟩) ∧
  decodeAs .syllable 0x24A14723 = some (.mulhu ⟨3, 10, 5, 7⟩) ∧
  decodeAs .syllable 0x24A14733 = some (.div ⟨3, 10, 5, 7⟩) ∧
  decodeAs .syllable 0x24A14743 = some (.divu ⟨3, 10, 5, 7⟩) ∧
  decodeAs .syllable 0x24A14753 = some (.rem ⟨3, 10, 5, 7⟩) ∧
  decodeAs .syllable 0x24A14763 = some (.remu ⟨3, 10, 5, 7⟩) ∧
  decodeAs .syllable 0x28A14793 = some (.sel ⟨3, 9, 10, 5, 7⟩) ∧
  decodeAs .syllable 0x2CA14003 = some (.clz ⟨3, 10, 5⟩) ∧
  decodeAs .syllable 0x2CA14013 = some (.ctz ⟨3, 10, 5⟩) ∧
  decodeAs .syllable 0x2CA14023 = some (.popc ⟨3, 10, 5⟩) ∧
  decodeAs .syllable 0x2CA14033 = some (.extB ⟨3, 10, 5⟩) ∧
  decodeAs .syllable 0x2CA14043 = some (.extH ⟨3, 10, 5⟩) ∧
  decodeAs .syllable 0x2CA14053 = some (.extW ⟨3, 10, 5⟩) ∧
  decodeAs .syllable 0x2CA14063 = some (.extBu ⟨3, 10, 5⟩) ∧
  decodeAs .syllable 0x2CA14073 = some (.extHu ⟨3, 10, 5⟩) ∧
  decodeAs .syllable 0x2CA14083 = some (.extWu ⟨3, 10, 5⟩) ∧
  decodeAs .syllable 0x2CA14793 = some (.bfx ⟨3, 10, 5, 7⟩) ∧
  decodeAs .syllable 0x2CA147A3 = some (.bfi ⟨3, 10, 5, 7⟩) ∧
  decodeAs .syllable 0x30A142B3 = some (.addi ⟨3, 10, 5, 43⟩) ∧
  decodeAs .syllable 0x34A142B3 = some (.andi ⟨3, 10, 5, 43⟩) ∧
  decodeAs .syllable 0x38A142B3 = some (.ori ⟨3, 10, 5, 43⟩) ∧
  decodeAs .syllable 0x3CA142B3 = some (.xori ⟨3, 10, 5, 43⟩) ∧
  decodeAs .syllable 0x40A142B3 = some (.shli ⟨3, 10, 5, 43⟩) ∧
  decodeAs .syllable 0x44A142B3 = some (.shri ⟨3, 10, 5, 43⟩) :=
  ⟨rfl, rfl, rfl, rfl, rfl, rfl, rfl, rfl, rfl, rfl, rfl, rfl, rfl, rfl, rfl, rfl, rfl, rfl, rfl, rfl, rfl, rfl, rfl, rfl, rfl, rfl, rfl, rfl, rfl, rfl, rfl, rfl, rfl, rfl, rfl, rfl, rfl, rfl, rfl⟩

theorem test_decode_immediate_compare_float :
  decodeAs .syllable 0x48A142B3 = some (.srai ⟨3, 10, 5, 43⟩) ∧
  decodeAs .syllable 0x4CABEEF3 = some (.lui ⟨3, 10, 48879⟩) ∧
  decodeAs .syllable 0x50A80013 = some (.addpc ⟨3, 10, 32769⟩) ∧
  decodeAs .syllable 0x629814B3 = some (.cmp ⟨3, 5, 1, 4, 5, 11⟩) ∧
  decodeAs .syllable 0x629914B3 = some (.cmpi ⟨3, 5, 1, 4, 5, 11⟩) ∧
  decodeAs .syllable 0x669314B3 = some (.tbit ⟨3, 5, 1, 1, 1, 5, 11⟩) ∧
  decodeAs .syllable 0x6A9814B3 = some (.fcmp ⟨3, 5, 1, 4, 5, 11⟩) ∧
  decodeAs .syllable 0x6C234003 = some (.pmov ⟨3, 2, 13⟩) ∧
  decodeAs .syllable 0x6C234013 = some (.pmovN ⟨3, 2, 13⟩) ∧
  decodeAs .syllable 0x6CB00023 = some (.pmovGet ⟨3, 11⟩) ∧
  decodeAs .syllable 0x6C02C033 = some (.pmovSet ⟨3, 11⟩) ∧
  decodeAs .syllable 0x70A00153 = some (.mfsr ⟨3, 10, 21⟩) ∧
  decodeAs .syllable 0x74A00273 = some (.mtsr ⟨3, 10, 39⟩) ∧
  decodeAs .syllable 0x78A14703 = some (.fadd ⟨3, 10, 5, 7⟩) ∧
  decodeAs .syllable 0x78A14713 = some (.fmul ⟨3, 10, 5, 7⟩) ∧
  decodeAs .syllable 0x78A14723 = some (.ffma ⟨3, 10, 5, 7⟩) ∧
  decodeAs .syllable 0x7CA14943 = some (.fcvt ⟨3, 10, 5, 9, 4⟩) :=
  ⟨rfl, rfl, rfl, rfl, rfl, rfl, rfl, rfl, rfl, rfl, rfl, rfl, rfl, rfl, rfl, rfl, rfl⟩

theorem test_decode_memory :
  decodeAs .syllable 0x80A162B3 = some (.ld ⟨3, 10, 5, 4, 43⟩) ∧
  decodeAs .syllable 0x84A14A03 = some (.ldAcq ⟨3, 10, 5, 1, 2⟩) ∧
  decodeAs .syllable 0x88A14AB3 = some (.st ⟨3, 10, 5, 1, 43⟩) ∧
  decodeAs .syllable 0x8CA14A03 = some (.stRel ⟨3, 10, 5, 1, 2⟩) :=
  ⟨rfl, rfl, rfl, rfl⟩

theorem test_decode_vector_memory :
  decodeAs .syllable 0x90A14703 = some (.vldDevice ⟨3, 10, 5, 7⟩) ∧
  decodeAs .syllable 0x94A14703 = some (.vldScratchpad ⟨3, 10, 5, 7⟩) ∧
  decodeAs .syllable 0x90A14713 = some (.vstDevice ⟨3, 10, 5, 7⟩) ∧
  decodeAs .syllable 0x94A14713 = some (.vstScratchpad ⟨3, 10, 5, 7⟩) ∧
  decodeAs .syllable 0x90A14723 = some (.vldsDevice ⟨3, 10, 5, 7⟩) ∧
  decodeAs .syllable 0x94A14723 = some (.vldsScratchpad ⟨3, 10, 5, 7⟩) ∧
  decodeAs .syllable 0x90A14733 = some (.vgatherDevice ⟨3, 10, 5, 7⟩) ∧
  decodeAs .syllable 0x94A14733 = some (.vgatherScratchpad ⟨3, 10, 5, 7⟩) ∧
  decodeAs .syllable 0x90A14743 = some (.vscatterDevice ⟨3, 10, 5, 7⟩) ∧
  decodeAs .syllable 0x94A14743 = some (.vscatterScratchpad ⟨3, 10, 5, 7⟩) ∧
  decodeAs .syllable 0x94A14753 = some (.vmvx ⟨3, 1, 10, 5, 7⟩) ∧
  decodeAs .syllable 0x94A14763 = some (.vmxv ⟨3, 1, 10, 5, 7⟩) ∧
  decodeAs .syllable 0x94A14073 = some (.vbx ⟨3, 1, 10, 5, 0⟩) ∧
  decodeAs .syllable 0x90614083 = some (.mldDevice ⟨3, 6, 5⟩) ∧
  decodeAs .syllable 0x94614083 = some (.mldScratchpad ⟨3, 6, 5⟩) ∧
  decodeAs .syllable 0x90614093 = some (.mstDevice ⟨3, 6, 5⟩) ∧
  decodeAs .syllable 0x94614093 = some (.mstScratchpad ⟨3, 6, 5⟩) ∧
  decodeAs .syllable 0x98214703 = some (.cfl ⟨3, 2, 5, 7⟩) ∧
  decodeAs .syllable 0x98214713 = some (.cinv ⟨3, 2, 5, 7⟩) ∧
  decodeAs .syllable 0x98214723 = some (.cpf ⟨3, 2, 5, 7⟩) ∧
  decodeAs .syllable 0x98214733 = some (.cwb ⟨3, 2, 5, 7⟩) :=
  ⟨rfl, rfl, rfl, rfl, rfl, rfl, rfl, rfl, rfl, rfl, rfl, rfl, rfl, rfl, rfl, rfl, rfl, rfl, rfl, rfl, rfl⟩

theorem test_decode_atomic_fence :
  decodeAs .syllable 0xA0A15EA3 = some (.atom ⟨3, 10, 5, 7, 1, 2, 2⟩) ∧
  decodeAs .syllable 0xA4A15EA3 = some (.atomF ⟨3, 10, 5, 7, 1, 2, 2⟩) ∧
  decodeAs .syllable 0xA8A142A3 = some (.cas ⟨3, 10, 5, 0, 1, 2, 2⟩) ∧
  decodeAs .syllable 0xAD400003 = some (.fence ⟨3, 2, 2⟩) ∧
  decodeAs .syllable 0xACA14713 = some (.waita ⟨3, 10, 5, 7⟩) ∧
  decodeAs .syllable 0xAC014723 = some (.tlbshRange ⟨3, 5, 7⟩) ∧
  decodeAs .syllable 0xAC100023 = some (.tlbshPen ⟨3⟩) ∧
  decodeAs .syllable 0xAC200023 = some (.tlbshPenG ⟨3⟩) :=
  ⟨rfl, rfl, rfl, rfl, rfl, rfl, rfl, rfl⟩

theorem test_decode_tile_ring :
  decodeAs .syllable 0xB0A14003 = some (.tlook ⟨3, 10, 5⟩) ∧
  decodeAs .syllable 0xB0014713 = some (.tset ⟨3, 5, 7⟩) ∧
  decodeAs .syllable 0xB0A14723 = some (.tread ⟨3, 10, 5, 7⟩) ∧
  decodeAs .syllable 0xB0014033 = some (.tclr ⟨3, 5⟩) ∧
  decodeAs .syllable 0xB4614703 = some (.rdef ⟨3, 6, 5, 7⟩) ∧
  decodeAs .syllable 0xB4614013 = some (.radv ⟨3, 6, 5⟩) ∧
  decodeAs .syllable 0xB4614023 = some (.padv ⟨3, 6, 5⟩) ∧
  decodeAs .syllable 0xB4A00633 = some (.rcnt ⟨3, 10, 6⟩) ∧
  decodeAs .syllable 0xB4014743 = some (.mcwin ⟨3, 5, 7⟩) :=
  ⟨rfl, rfl, rfl, rfl, rfl, rfl, rfl, rfl, rfl⟩

theorem test_decode_engine :
  decodeAs .syllable 0xC0014763 = some (.xfer ⟨3, 5, 7, 1, 2⟩) ∧
  decodeAs .syllable 0xC0114763 = some (.xferQ1 ⟨3, 5, 7, 1, 2⟩) ∧
  decodeAs .syllable 0xC4514023 = some (.tmov ⟨3, 5, 5, 2⟩) ∧
  decodeAs .syllable 0xC4014763 = some (.conv ⟨3, 5, 7, 2⟩) ∧
  decodeAs .syllable 0xC4114763 = some (.qfp8 ⟨3, 5, 7, 2⟩) ∧
  decodeAs .syllable 0xC4214763 = some (.qmx4 ⟨3, 5, 7, 2⟩) ∧
  decodeAs .syllable 0xC4314763 = some (.cmpr ⟨3, 5, 7, 2⟩) ∧
  decodeAs .syllable 0xC4414763 = some (.expd ⟨3, 5, 7, 2⟩) ∧
  decodeAs .syllable 0xC4514763 = some (.csum ⟨3, 5, 7, 2⟩) ∧
  decodeAs .syllable 0xC8014763 = some (.kvres ⟨3, 5, 7, 1, 2⟩) ∧
  decodeAs .syllable 0xC8114763 = some (.kvapp ⟨3, 5, 7, 1, 2⟩) ∧
  decodeAs .syllable 0xC8214763 = some (.kvfork ⟨3, 5, 7, 1, 2⟩) ∧
  decodeAs .syllable 0xC8314063 = some (.kvfree ⟨3, 5, 0, 1, 2⟩) ∧
  decodeAs .syllable 0xC8414763 = some (.kvcommit ⟨3, 5, 7, 1, 2⟩) ∧
  decodeAs .syllable 0xC8514763 = some (.kvtrunc ⟨3, 5, 7, 1, 2⟩) ∧
  decodeAs .syllable 0xC8614763 = some (.kvq ⟨3, 5, 7, 1, 2⟩) ∧
  decodeAs .syllable 0xC8714763 = some (.kvclass ⟨3, 5, 7, 1, 2⟩) ∧
  decodeAs .syllable 0xC8814763 = some (.kvatt ⟨3, 5, 7, 1, 2⟩) ∧
  decodeAs .syllable 0xCC014763 = some (.kvdemote ⟨3, 5, 7, 1, 2⟩) ∧
  decodeAs .syllable 0xCC114763 = some (.kvpromote ⟨3, 5, 7, 1, 2⟩) ∧
  decodeAs .syllable 0xCC214763 = some (.kvexport ⟨3, 5, 7, 1, 2⟩) ∧
  decodeAs .syllable 0xCC314763 = some (.kvimport ⟨3, 5, 7, 1, 2⟩) ∧
  decodeAs .syllable 0xD0014763 = some (.smpost ⟨3, 5, 7, 1, 2⟩) ∧
  decodeAs .syllable 0xD0114763 = some (.hctld ⟨3, 5, 7, 1, 2⟩) ∧
  decodeAs .syllable 0xD0214763 = some (.qpush ⟨3, 5, 7, 1, 2⟩) ∧
  decodeAs .syllable 0xD4A010A3 = some (.erd ⟨3, 10, 266⟩) ∧
  decodeAs .syllable 0xD8A02073 = some (.ewr ⟨3, 10, 519⟩) ∧
  decodeAs .syllable 0xDCA14003 = some (.xwait ⟨3, 10, 5⟩) ∧
  decodeAs .syllable 0xDCA14013 = some (.xpoll ⟨3, 10, 5⟩) ∧
  decodeAs .syllable 0xDCA14023 = some (.tget ⟨3, 10, 5⟩) ∧
  decodeAs .syllable 0xDC214033 = some (.publish ⟨3, 2, 5⟩) :=
  ⟨rfl, rfl, rfl, rfl, rfl, rfl, rfl, rfl, rfl, rfl, rfl, rfl, rfl, rfl, rfl, rfl, rfl, rfl, rfl, rfl, rfl, rfl, rfl, rfl, rfl, rfl, rfl, rfl, rfl, rfl, rfl⟩

theorem test_decode_barrier_job :
  decodeAs .syllable 0xE0014703 = some (.barInitReg ⟨3, 5, 7⟩) ∧
  decodeAs .syllable 0xE0014013 = some (.barArrReg ⟨3, 5⟩) ∧
  decodeAs .syllable 0xE0014023 = some (.barWaitReg ⟨3, 5⟩) ∧
  decodeAs .syllable 0xE0014033 = some (.barSyncReg ⟨3, 5⟩) ∧
  decodeAs .syllable 0xE4015553 = some (.barInitImm ⟨3, 5, 341⟩) ∧
  decodeAs .syllable 0xE4101553 = some (.barArrImm ⟨3, 341⟩) ∧
  decodeAs .syllable 0xE4201553 = some (.barWaitImm ⟨3, 341⟩) ∧
  decodeAs .syllable 0xE4301553 = some (.barSyncImm ⟨3, 341⟩) ∧
  decodeAs .syllable 0xE8A14703 = some (.pop ⟨3, 10, 5, 7⟩) ∧
  decodeAs .syllable 0xE8A14713 = some (.popTry ⟨3, 10, 5, 7⟩) ∧
  decodeAs .syllable 0xE8014023 = some (.jraise ⟨3, 5⟩) ∧
  decodeAs .syllable 0xE8000033 = some (.texit ⟨3⟩) :=
  ⟨rfl, rfl, rfl, rfl, rfl, rfl, rfl, rfl, rfl, rfl, rfl, rfl⟩

theorem test_decode_beats :
  decodeAs .beat 0x4097 = some (.push ⟨0, 9, 3, 1⟩) ∧
  decodeAs .beat 0xA907 = some (.mac ⟨2, 9, 3, 1⟩) ∧
  decodeAs .beat 0xE907 = some (.drain ⟨2, 9, 3, 1⟩) ∧
  decodeAs .beat 0xEF06 = some (.drainDiscard ⟨2, 3⟩) ∧
  decodeAs .scale 0x166554 = some (.scl ⟨6, 6, 341⟩) ∧
  decodeAs .scale 0x266554 = some (.sclTile ⟨6, 6, 341⟩) :=
  ⟨rfl, rfl, rfl, rfl, rfl, rfl⟩

theorem test_decode_sfu :
  decodeAs .sfu 0x4928640 = some (.sfuExp2 ⟨9, 20, 3, 1⟩) ∧
  decodeAs .sfu 0x8928640 = some (.sfuLog2 ⟨9, 20, 3, 1⟩) ∧
  decodeAs .sfu 0xC928640 = some (.sfuRcp ⟨9, 20, 3, 1⟩) ∧
  decodeAs .sfu 0x10928640 = some (.sfuRsqrt ⟨9, 20, 3, 1⟩) ∧
  decodeAs .sfu 0x14928640 = some (.sfuSqrt ⟨9, 20, 3, 1⟩) ∧
  decodeAs .sfu 0x18928640 = some (.sfuSin ⟨9, 20, 3, 1⟩) ∧
  decodeAs .sfu 0x1C928640 = some (.sfuCos ⟨9, 20, 3, 1⟩) ∧
  decodeAs .sfu 0x20928640 = some (.sfuTanh ⟨9, 20, 3, 1⟩) ∧
  decodeAs .sfu 0x24928640 = some (.sfuSigm ⟨9, 20, 3, 1⟩) ∧
  decodeAs .sfu 0x28928640 = some (.sfuSilu ⟨9, 20, 3, 1⟩) ∧
  decodeAs .sfu 0x2C928640 = some (.sfuGelu ⟨9, 20, 3, 1⟩) ∧
  decodeAs .sfu 0x30928640 = some (.sfuErf ⟨9, 20, 3, 1⟩) ∧
  decodeAs .sfu 0x34928640 = some (.sfuSexp ⟨9, 20, 3, 1⟩) :=
  ⟨rfl, rfl, rfl, rfl, rfl, rfl, rfl, rfl, rfl, rfl, rfl, rfl, rfl⟩

theorem test_decode_vector_integer :
  decodeAs .vector 0xC135028039 = some (.vadd ⟨8, 9, 84, 5, 0, 3, 1, 1⟩) ∧
  decodeAs .vector 0x14135028039 = some (.vsub ⟨8, 9, 84, 5, 0, 3, 1, 1⟩) ∧
  decodeAs .vector 0x1C135028039 = some (.vmul ⟨8, 9, 84, 5, 0, 3, 1, 1⟩) ∧
  decodeAs .vector 0x24935028038 = some (.vmulh ⟨9, 9, 84, 5, 0, 3, 1, 0⟩) ∧
  decodeAs .vector 0x2C935028038 = some (.vmin ⟨9, 9, 84, 5, 0, 3, 1, 0⟩) ∧
  decodeAs .vector 0x34935028038 = some (.vmax ⟨9, 9, 84, 5, 0, 3, 1, 0⟩) ∧
  decodeAs .vector 0x3B135000039 = some (.vabs ⟨6, 9, 84, 0, 0, 3, 1, 1⟩) ∧
  decodeAs .vector 0x44935028038 = some (.vand ⟨9, 9, 84, 5, 0, 3, 1, 0⟩) ∧
  decodeAs .vector 0x4C935028038 = some (.vor ⟨9, 9, 84, 5, 0, 3, 1, 0⟩) ∧
  decodeAs .vector 0x54935028038 = some (.vxor ⟨9, 9, 84, 5, 0, 3, 1, 0⟩) ∧
  decodeAs .vector 0x5C935028038 = some (.vandn ⟨9, 9, 84, 5, 0, 3, 1, 0⟩) ∧
  decodeAs .vector 0x65135028039 = some (.vshl ⟨10, 9, 84, 5, 0, 3, 1, 1⟩) ∧
  decodeAs .vector 0x6C935028038 = some (.vshr ⟨9, 9, 84, 5, 0, 3, 1, 0⟩) ∧
  decodeAs .vector 0x74935028038 = some (.vsra ⟨9, 9, 84, 5, 0, 3, 1, 0⟩) ∧
  decodeAs .vector 0x7C935000038 = some (.vclz ⟨9, 9, 84, 0, 0, 3, 1, 0⟩) ∧
  decodeAs .vector 0x84935000038 = some (.vpopc ⟨9, 9, 84, 0, 0, 3, 1, 0⟩) ∧
  decodeAs .vector 0x8C135028039 = some (.vnarrow ⟨8, 9, 84, 5, 0, 3, 1, 1⟩) ∧
  decodeAs .vector 0x9493500003B = some (.vwiden ⟨9, 9, 84, 0, 0, 3, 1, 3⟩) ∧
  decodeAs .vector 0x9D535028035 = some (.vcmp ⟨10, 41, 84, 5, 0, 3, 0, 5⟩) ∧
  decodeAs .vector 0xA0935028030 = some (.vsel ⟨1, 9, 84, 5, 0, 3, 0, 0⟩) ∧
  decodeAs .vector 0xAD135000038 = some (.vmov ⟨10, 9, 84, 0, 0, 3, 1, 0⟩) ∧
  decodeAs .vector 0xB013966A138 = some (.vimm ⟨0, 9, 101, 77, 33, 3, 1, 0⟩) :=
  ⟨rfl, rfl, rfl, rfl, rfl, rfl, rfl, rfl, rfl, rfl, rfl, rfl, rfl, rfl, rfl, rfl, rfl, rfl, rfl, rfl, rfl, rfl⟩

theorem test_decode_vector_float :
  decodeAs .vector 0x40113502803C = some (.vfadd ⟨2, 9, 84, 5, 0, 3, 1, 4⟩) ∧
  decodeAs .vector 0x40913502803C = some (.vfsub ⟨2, 9, 84, 5, 0, 3, 1, 4⟩) ∧
  decodeAs .vector 0x41113502803C = some (.vfmul ⟨2, 9, 84, 5, 0, 3, 1, 4⟩) ∧
  decodeAs .vector 0x41893502D83A = some (.vfma ⟨1, 9, 84, 5, 88, 3, 1, 2⟩) ∧
  decodeAs .vector 0x42093502D83A = some (.vfms ⟨1, 9, 84, 5, 88, 3, 1, 2⟩) ∧
  decodeAs .vector 0x42893502D83A = some (.vfnma ⟨1, 9, 84, 5, 88, 3, 1, 2⟩) ∧
  decodeAs .vector 0x431135028038 = some (.vfmin ⟨2, 9, 84, 5, 0, 3, 1, 0⟩) ∧
  decodeAs .vector 0x439135028038 = some (.vfmax ⟨2, 9, 84, 5, 0, 3, 1, 0⟩) ∧
  decodeAs .vector 0x440935000038 = some (.vfabs ⟨1, 9, 84, 0, 0, 3, 1, 0⟩) ∧
  decodeAs .vector 0x448935000038 = some (.vfneg ⟨1, 9, 84, 0, 0, 3, 1, 0⟩) ∧
  decodeAs .vector 0x451135028034 = some (.vfcmp ⟨2, 9, 84, 5, 0, 3, 0, 4⟩) ∧
  decodeAs .vector 0x458935000038 = some (.vfclass ⟨1, 9, 84, 0, 0, 3, 1, 0⟩) ∧
  decodeAs .vector 0x46013500003C = some (.vround ⟨0, 9, 84, 0, 0, 3, 1, 4⟩) ∧
  decodeAs .vector 0x46893500803B = some (.vcvt ⟨1, 9, 84, 1, 0, 3, 1, 3⟩) ∧
  decodeAs .vector 0x47093507813E = some (.vscale ⟨1, 9, 84, 15, 1, 3, 1, 6⟩) :=
  ⟨rfl, rfl, rfl, rfl, rfl, rfl, rfl, rfl, rfl, rfl, rfl, rfl, rfl, rfl, rfl⟩

theorem test_decode_vector_permute_reduce :
  decodeAs .vector 0x800935006438 = some (.vbcast ⟨1, 9, 84, 0, 100, 3, 1, 0⟩) ∧
  decodeAs .vector 0x80C135028038 = some (.vperm ⟨8, 9, 84, 5, 0, 3, 1, 0⟩) ∧
  decodeAs .vector 0x81093502BF38 = some (.vslide ⟨1, 9, 84, 5, 63, 3, 1, 0⟩) ∧
  decodeAs .vector 0x81C935028039 = some (.vzip ⟨9, 9, 84, 5, 0, 3, 1, 1⟩) ∧
  decodeAs .vector 0x824935028039 = some (.vunzip ⟨9, 9, 84, 5, 0, 3, 1, 1⟩) ∧
  decodeAs .vector 0x82D135000038 = some (.vcompress ⟨10, 9, 84, 0, 0, 3, 1, 0⟩) ∧
  decodeAs .vector 0x835135000038 = some (.vexpand ⟨10, 9, 84, 0, 0, 3, 1, 0⟩) ∧
  decodeAs .vector 0x83D120000030 = some (.viota ⟨10, 9, 0, 0, 0, 3, 0, 0⟩) ∧
  decodeAs .vector 0xA04935000031 = some (.vredsum ⟨9, 9, 84, 0, 0, 3, 0, 1⟩) ∧
  decodeAs .vector 0xA08935000030 = some (.vredmax ⟨1, 9, 84, 0, 0, 3, 0, 0⟩) ∧
  decodeAs .vector 0xA10935000030 = some (.vredmin ⟨1, 9, 84, 0, 0, 3, 0, 0⟩) ∧
  decodeAs .vector 0xA18935000030 = some (.vargmax ⟨1, 9, 84, 0, 0, 3, 0, 0⟩) ∧
  decodeAs .vector 0xA20935000030 = some (.vargmin ⟨1, 9, 84, 0, 0, 3, 0, 0⟩) ∧
  decodeAs .vector 0xA2D135000030 = some (.vredand ⟨10, 9, 84, 0, 0, 3, 0, 0⟩) ∧
  decodeAs .vector 0xA35135000030 = some (.vredor ⟨10, 9, 84, 0, 0, 3, 0, 0⟩) ∧
  decodeAs .vector 0xC001E1028038 = some (.mand ⟨0, 15, 4, 5, 0, 3, 1, 0⟩) ∧
  decodeAs .vector 0xC081E1028038 = some (.mor ⟨0, 15, 4, 5, 0, 3, 1, 0⟩) ∧
  decodeAs .vector 0xC101E1028038 = some (.mxor ⟨0, 15, 4, 5, 0, 3, 1, 0⟩) ∧
  decodeAs .vector 0xC181C1000038 = some (.mnot ⟨0, 14, 4, 0, 0, 3, 1, 0⟩) ∧
  decodeAs .vector 0xC201AFDF0038 = some (.mrange ⟨0, 13, 63, 62, 0, 3, 1, 0⟩) ∧
  decodeAs .vector 0xD00135028030 = some (.vsmax ⟨0, 9, 84, 5, 0, 3, 0, 0⟩) ∧
  decodeAs .vector 0xD00120000001 = some (.vsmaxInit ⟨0, 9, 0, 0, 0, 0, 0, 1⟩) ∧
  decodeAs .vector 0xD00135000002 = some (.vsmaxE ⟨0, 9, 84, 0, 0, 0, 0, 2⟩) ∧
  decodeAs .vector 0xD00135000003 = some (.vsmaxD ⟨0, 9, 84, 0, 0, 0, 0, 3⟩) ∧
  decodeAs .vector 0xD08135028F32 = some (.vmass ⟨0, 9, 84, 5, 15, 3, 0, 2⟩) ∧
  decodeAs .vector 0xD11135028031 = some (.vsfin ⟨2, 9, 84, 5, 0, 3, 0, 1⟩) ∧
  decodeAs .vector 0xE00135000000 = some (.vseedexp ⟨0, 9, 84, 0, 0, 0, 0, 0⟩) ∧
  decodeAs .vector 0xE08135028305 = some (.vseedscore ⟨0, 9, 84, 5, 3, 0, 0, 5⟩) ∧
  decodeAs .vector 0xE10135028305 = some (.vseedfit ⟨0, 9, 84, 5, 3, 0, 0, 5⟩) ∧
  decodeAs .vector 0xE18935000038 = some (.vgen ⟨1, 9, 84, 0, 0, 3, 1, 0⟩) :=
  ⟨rfl, rfl, rfl, rfl, rfl, rfl, rfl, rfl, rfl, rfl, rfl, rfl, rfl, rfl, rfl, rfl, rfl, rfl, rfl, rfl, rfl, rfl, rfl, rfl, rfl, rfl, rfl, rfl, rfl, rfl⟩

theorem test_decode_logit :
  decodeAs .logit 0x4400000 = some (.lld ⟨1, 0, 0, 0⟩) ∧
  decodeAs .logit 0x8480000 = some (.lbias ⟨1, 2, 0, 0⟩) ∧
  decodeAs .logit 0xC800000 = some (.lcnt ⟨2, 0, 0, 0⟩) ∧
  decodeAs .logit 0x10448032 = some (.lpen ⟨1, 1, 2, 50⟩) ∧
  decodeAs .logit 0x14440000 = some (.ltemp ⟨1, 1, 0, 0⟩) ∧
  decodeAs .logit 0x18440000 = some (.lmask ⟨1, 1, 0, 0⟩) ∧
  decodeAs .logit 0x1C440000 = some (.lnoise ⟨1, 1, 0, 0⟩) ∧
  decodeAs .logit 0x23040000 = some (.lamax ⟨12, 1, 0, 0⟩) ∧
  decodeAs .logit 0x27B00000 = some (.lmerge ⟨14, 12, 0, 0⟩) ∧
  decodeAs .logit 0x2848C000 = some (.ladd ⟨1, 2, 3, 0⟩) ∧
  decodeAs .logit 0x2C48C000 = some (.lsub ⟨1, 2, 3, 0⟩) ∧
  decodeAs .logit 0x3048C000 = some (.lmul ⟨1, 2, 3, 0⟩) ∧
  decodeAs .logit 0x3448C000 = some (.lfma ⟨1, 2, 3, 0⟩) ∧
  decodeAs .logit 0x3848C000 = some (.lmin ⟨1, 2, 3, 0⟩) ∧
  decodeAs .logit 0x3C48C000 = some (.lmax ⟨1, 2, 3, 0⟩) ∧
  decodeAs .logit 0x4048C005 = some (.lsel ⟨1, 2, 3, 5⟩) ∧
  decodeAs .logit 0x4548C004 = some (.lcmp ⟨5, 2, 3, 4⟩) ∧
  decodeAs .logit 0x48498000 = some (.lcap ⟨1, 2, 6, 0⟩) ∧
  decodeAs .logit 0x4D802FF0 = some (.limm ⟨6, 0, 0, 12272⟩) ∧
  decodeAs .logit 0x504C0001 = some (.lmov ⟨1, 3, 0, 1⟩) ∧
  decodeAs .logit 0x56400000 = some (.lacc ⟨9, 0, 0, 0⟩) ∧
  decodeAs .logit 0x58240000 = some (.lput ⟨0, 9, 0, 0⟩) ∧
  decodeAs .logit 0x5C000000 = some (.lbump ⟨0, 0, 0, 0⟩) ∧
  decodeAs .logit 0x60000000 = some (.lend ⟨0, 0, 0, 0⟩) :=
  ⟨rfl, rfl, rfl, rfl, rfl, rfl, rfl, rfl, rfl, rfl, rfl, rfl, rfl, rfl, rfl, rfl, rfl, rfl, rfl, rfl, rfl, rfl, rfl, rfl⟩

/-! ### States that meet the hypotheses of the statements

Each theorem is named for its statement; a state is built by the helpers below, its values at the ends of the ranges. -/

/-- A context with some x registers. -/
def ctxOf (xs : List (Nat × Word)) : Ctx := { placedCtx none with xs := xs }

/-- A job of one task. -/
def aJob : Job :=
  { pen := 0, prio := 0, seq := 0, jcb := 0, expected := 1, completed := 0, ended := 0, tasks := 1, st := .running,
    code := 0, fseq := 0, late := 0, signal := 0, queues := [], signalled := false, dseq := 0 }

/-- Context 0 issues as `c`, for task 1 of job 1, with a page of 1 GiB at address 0 in its core's TLB. -/
def stOf (c : Ctx) : State :=
  let s := { State.reset with
    booted := true, issue := { Issue.none with pre := c }, tasks := [(1, { placedTask with job := 1 })],
    jobs := [(1, aJob)] }
  ((s.setCtx 0 c).updCore 0 (fun k => { k with tlb := [wholePage] })).updPen 0 (fun p => { p with root := 1 })

/-- As `stOf`, with some x registers. -/
def stX (xs : List (Nat × Word)) : State := stOf (ctxOf xs)

/-- As `s`, with tile entries of core 0. -/
def tiled (s : State) (l : List (Nat × TileEnt)) : State :=
  { s.updCore 0 (fun k => { k with tiles := l }) with issue := { s.issue with preTiles := l } }

/-- A slot of some lines, of a format, group and state. -/
def slotOf (lines : BitVec 13) (fmt : BitVec 4) (group : BitVec 1) (st : TState) : TileEnt :=
  { TileEnt.reset with lines := lines, fmt := fmt, group := group, state := st }

/-- A region opened at bundle 0 with these buffered stores. -/
def regionOf (l : List SEnt) : Region := ⟨0, ⟨[], [], [], [], 0⟩, l, false⟩

/-- A buffered store of one byte at physical address 256 × n. -/
def buffered (n : Nat) : SEnt := ⟨.block (256 * n) [(256 * n, 1)] false false, [0], 0, 0, false, 0, [], 0⟩

/-- As `s`, the issuing context changed before and during the bundle. -/
def withCtx (s : State) (f : Ctx → Ctx) : State :=
  { s.setCtx 0 (f s.cur) with issue := { s.issue with pre := f s.pre } }

/-- Every port of the memory serves where no controller has been updated, and no budget holds a pen that has none. -/
theorem portFree (s : State) (h : s.fws = []) (pa : Nat) : s.portHeld pa = false := by
  simp [State.portHeld, State.updating, h, sget, Fw.reset]

theorem freeFor (s : State) (h : s.fws = []) (hb : s.budgets = []) (hp : s.posts = []) (pen : Nat) : s.FreeFor pen :=
  ⟨by simp [hb], by simp [hp], portFree s h⟩

theorem buffered_whole (n : Nat) : (buffered n).Whole := by
  intro pa bytes sealed so h
  injection h with h1 h2 h3 h4
  subst h1 h2 h4
  exact ⟨by simp, by simp; omega, by simp⟩

/-- The answer is a value of which `p` holds. -/
def okAnd {ε α : Type} (p : α → Bool) : Except ε α → Bool
  | .ok a => p a
  | .error _ => false

/-- Whether budgets admit a step, `State.Admits` as a test. -/
def admits {α : Type} (s : State) (kind sel paid : Nat) (f : State → α × State) : Bool :=
  s.tally.isNone && okAnd (fun _ => true) (s.metered kind sel true paid f).1

theorem admits_iff {α : Type} (s : State) (kind sel paid : Nat) (f : State → α × State) :
    admits s kind sel paid f = true ↔ s.Admits kind sel paid f := by
  unfold admits State.Admits
  rw [Bool.and_eq_true, Option.isNone_iff_eq_none]
  refine and_congr_right fun _ => ?_
  generalize s.metered kind sel true paid f = r
  obtain ⟨r | r, t⟩ := r <;> simp [okAnd]

/-- The answer is an error of which `p` holds. -/
def errAnd {ε α : Type} (p : ε → Bool) : Except ε α → Bool
  | .ok _ => false
  | .error e => p e

/-- Guard true; operands at the ends of 64 bits, a shift by 63 and by 64, x0 as source and as destination. -/
theorem test_witness_IntegerResults :
    let s := stX [(1, 2 ^ 63), (2, 64), (3, 63)]
    s.pre.p 0 = true ∧ s.pre.x 1 = 2 ^ 63 ∧ (s.pre.x 2).toNat % 64 = 0 ∧ (s.pre.x 3).toNat % 64 = 63 ∧ s.pre.x 0 = 0 := by
  decide +kernel

/-- Both clauses on the divisor: x2 = 3, x0 = 0. -/
theorem test_witness_MultiplyDivideResults :
    let s := stX [(1, 2 ^ 63), (2, 3)]
    s.pre.p 0 = true ∧ s.pre.x 0 = 0 ∧ s.pre.x 2 ≠ 0 := by
  decide +kernel

theorem test_witness_BitFieldResults : (stX [(1, 2 ^ 63)]).pre.p 0 = true ∧ (stX [(1, 2 ^ 63)]).pre.p 15 = false := by
  decide +kernel

/-- A true guard; and a false one of a `.gpair` compare. -/
theorem test_witness_ComparesAndPredicates :
    let s := stX [(1, 5)]
    let o : CmpOp := ⟨1, 7, 1, 0, 1, 2⟩
    s.pre.p 0 = true ∧ s.pre.p o.g = false ∧ o.ct = 1 ∧ ¬condTable 0 (s.pre.x 1) (s.pre.x 2) ∧
      condTable 7 (s.pre.x 1) (s.pre.x 2) := by
  refine ⟨by decide +kernel, by decide +kernel, rfl, ?_, ?_⟩
  · show ¬((stX [(1, 5)]).pre.x 1 = (stX [(1, 5)]).pre.x 2)
    decide +kernel
  · show ((stX [(1, 5)]).pre.x 1).toNat ≥ ((stX [(1, 5)]).pre.x 2).toNat
    decide +kernel

/-- Every index of Table 7 at the ends of its ranges is one that decodes, under a true guard. -/
theorem test_witness_SystemRegisters :
    (stX []).pre.p 0 = true ∧ ∀ i ∈ [0x000, 0x001, 0x002, 0x003, 0x004, 0x008, 0x009, 0x00A, 0x00B, 0x010, 0x015, 0x020,
      0x027, 0x030], Instr.WellFormed (.mfsr ⟨0, 1, BitVec.ofNat 12 i⟩) = true := by
  decide +kernel

/-- Target formats that are integers and that are not. -/
theorem test_witness_ScalarFloatResults :
    (stX []).pre.p 0 = true ∧ (ifmtOf 6).isSome = true ∧ (ifmtOf 0).isSome = false := by
  decide +kernel

/-- A guard that is true and one that is false; a target that is aligned; pop counts up to the stack; masks that are full,
empty and mixed. -/
theorem test_witness_Branches :
    let s := withCtx (stX [(1, 16), (2, 17)]) (fun c => { c with loops := [⟨0, 0, 1, 0⟩], ms := [(2, 5)] })
    s.pre.p 0 = true ∧ s.pre.p 15 = false ∧ (s.pre.x 1).toNat % 16 = 0 ∧ (1 : BitVec 3).toNat ≤ s.pre.loops.length ∧
      s.pre.m 0 = BitVec.allOnes 64 ∧ s.pre.m 1 = 0 ∧ s.pre.m 2 ≠ 0 ∧
      s.pre.m 2 ≠ BitVec.allOnes 64 := by
  decide +kernel

/-- A count of 0 and of 1; a stack that is empty, that has an entry, and that is full; a target that is not aligned, a pop
count past the stack, and a mixed mask. -/
theorem test_witness_LoopStack :
    let full := withCtx (stX []) (fun c => { c with loops := List.replicate 6 ⟨0, 0, 1, 0⟩ })
    let o : LoopiOp := ⟨0, 0, 1⟩
    let o' : LoopiOp := ⟨0, 1, 1⟩
    let one := withCtx (stX [(2, 17)]) (fun c => { c with loops := [⟨0, 0, 1, 0⟩], ms := [(2, 5)] })
    one.pre.p 0 = true ∧ (one.pre.x 2).toNat % 16 ≠ 0 ∧ one.pre.loops.length < (2 : BitVec 3).toNat ∧ one.pre.m 2 ≠ 0 ∧
      one.pre.m 2 ≠ BitVec.allOnes 64 ∧ one.pre.loops = ⟨0, 0, 1, 0⟩ :: [] ∧ full.pre.p 0 = true ∧ o.count.toNat = 0 ∧ o'.count.toNat ≠ 0 ∧ full.pre.loops.length = 6 ∧
      (stX []).pre.loops.length ≠ 6 ∧ (stX []).pre.loops = [] := by
  decide +kernel

theorem test_witness_NextBundle :
    (stX []).issue.branch = none ∧ { (stX []) with issue := { (stX []).issue with branch := some 5 } }.issue.branch = some 5 := by
  decide +kernel

theorem test_witness_RegionSyllables : (stX []).pre.p 0 = true ∧ (stX []).cur.region = none := by decide +kernel

/-- A region with two buffered blocks, and no slot waiting for release. -/
theorem test_witness_RegionRelease :
    let r := regionOf [buffered 0, buffered 1]
    let s := withCtx (stX []) (fun c => { c with region := some r })
    (s.ctx 0).region = some r ∧
    (∀ e ∈ r.sbuf, e.Whole ∧ ∃ pa bytes sealed so, e.kind = .block pa bytes sealed so ∧ ∀ b ∈ bytes, b.1 < 2 ^ 39) ∧
    (∀ i, (s.tile (coreOf 0) i).relpend = false) ∧ (s.ctx 0).drain = [] ∧ s.owed 0 = 0 ∧ s.budgets = [] ∧
    (∀ pa, s.portHeld pa = false) ∧ s.cmds = [] ∧
    (sbufStore r 512 8 1 false true ⟨0, 0, 0, 0, 0, 0, 1⟩).isSome = true := by
  refine ⟨by decide +kernel, ?_, fun i => rfl, by decide +kernel, by decide +kernel, by decide +kernel, portFree _ rfl,
    by decide +kernel⟩
  intro e h
  rcases List.mem_cons.1 h with rfl | h
  · exact ⟨buffered_whole 0, _, _, _, _, rfl, by decide⟩
  · rcases List.mem_singleton.1 h with rfl
    exact ⟨buffered_whole 1, _, _, _, _, rfl, by decide⟩

/-- A task on a context in a region. -/
theorem test_witness_RegionAbort :
    let r := regionOf [buffered 0]
    let s := withCtx (stX []) (fun c => { c with region := some r })
    (s.ctx 0).region = some r ∧ sfind s.tasks (s.ctx 0).task = some { placedTask with job := 1 } ∧
      ({ placedTask with job := 1 } : Task).st = .on 0 := by
  decide +kernel

/-- The near tier is where it says it is. -/
theorem home_near (s : State) (pa : Nat) (h : pa < 2 ^ 39) : s.home pa = pa := by
  have h0 : tierOf pa = some 0 := if_pos h
  exact if_neg (fun k => by rw [h0] at k; exact absurd k.1 (by decide))

/-- As `s`, with a fault queue of 16 records at 0 for pen 0 and a save frame of 256 KiB at 2^30. -/
def framed (s : State) : State :=
  s.updPen 0 (fun p => { p with fqCtl := 4, svBase := BitVec.ofNat 64 (2 ^ 30), svCtl := BitVec.ofNat 64 (2 ^ 16 + 64) })

/-- A pen with no frame and no fault queue; and one with both, the next record outside the frame. -/
theorem test_witness_TrapAndSys :
    let s := stX []
    let w := framed s
    let u (s : State) := s.releaseRegion s.issue.ctx
    (s.pre.p 0 = true ∧ sfind (u s).tasks (u s).cur.task = some { placedTask with job := 1 } ∧ (s.pen 0).fqOpen = false ∧
      (u s).frameFor 0 (u s).cur.latch.isSome ((u s).homeGang 0) = none) ∧
    (w.pre.p 0 = true ∧ sfind (u w).tasks (u w).cur.task = some { placedTask with job := 1 } ∧
      ((w.pen 0).fqOpen = true ∧ w.mayAsk 0 (w.pen 0).fqAt = true) ∧
      (u w).frameFor 0 (u w).cur.latch.isSome ((u w).homeGang 0) = some 0) ∧
    ((u w).pen 0).framePa 0 = 2 ^ 30 ∧ (u w).FqOutside 0 (2 ^ 30) (64 * 4096) := by
  refine ⟨by decide +kernel, by decide +kernel, by decide +kernel, ?_⟩
  intro j hj k hk
  have h : (((framed (stX [])).releaseRegion (framed (stX [])).issue.ctx).pen 0).fqAt = 0 := by decide +kernel
  rw [h, home_near _ _ (by omega), home_near _ _ (by omega)]
  omega

/-- A board of 2^16 entries: its last slot, reached and not reached; the slot after it; a size out of range. -/
theorem test_witness_TokenWait :
    let s := (stX [(1, 2 ^ 16 - 1), (2, 1), (3, 2 ^ 16)]).updPen 0 (fun p => { p with tbLsize := 16 })
    let t := (stX [(1, 0)]).updPen 0 (fun p => { p with tbLsize := 17 })
    let l := bits (s.pen s.pre.pen.toNat).tbLsize.toNat 4 0
    let w := s.physRead (64 * (s.pre.x 1).toNat) 8
    s.pre.p 0 = true ∧ (l ≤ 16 ∧ (s.pre.x 1).toNat < 2 ^ l) ∧ (w + 2 ^ 32 - (s.pre.x 0).toNat % 2 ^ 32) % 2 ^ 32 < 2 ^ 31 ∧
      ¬(w / 2 ^ 32 % 2 = 1 ∨ (w + 2 ^ 32 - (s.pre.x 2).toNat % 2 ^ 32) % 2 ^ 32 < 2 ^ 31) ∧
      ¬((s.pre.x 3).toNat < 2 ^ l) ∧ ¬(bits (t.pen t.pre.pen.toNat).tbLsize.toNat 4 0 ≤ 16) := by
  decide +kernel

theorem test_witness_MemoryReadAfterWrite : 0 ≤ 2 ^ 52 ∧ 2 ^ 52 ≤ 2 ^ 52 := by decide

/-- Page tables for address 0: frames 1 to 4 are nodes of levels 3 to 0, and the leaf is a page at frame 0. -/
def tables : State :=
  let s := (stX []).updCore 0 (fun k => { k with tlb := [] })
  let s := s.updPen 0 (fun p => { p with root := BitVec.ofNat 64 (2 ^ 16 + 1) })
  let s := { s with tframes := [1, 2, 3, 4] }
  { s with mem := cellsWrite (cellsWrite (cellsWrite (cellsWrite s.mem 52 (2 ^ 16) 8 (2 * 2 ^ 16 + 1)) 52
      (2 * 2 ^ 16) 8 (3 * 2 ^ 16 + 1)) 52 (3 * 2 ^ 16) 8 (4 * 2 ^ 16 + 1)) 52 (4 * 2 ^ 16) 8 (2 ^ 29 + 0xFFF1) }

/-- An access that walks, its caches empty; one that hits; a root that is not enabled; entries that each check refuses. -/
theorem test_witness_Translation :
    let s := tables
    let a := s.curAccess true false
    let off := s.updPen 0 (fun p => { p with root := 0 })
    a.w = false ∧ s.leafAddr a 0 = some (4 * 2 ^ 16) ∧ (tlbHit (s.nearTlb a) a.pen 0).isNone = true ∧
      a.cluster = some 0 ∧ (tlbHit (s.cluster 0).leaves a.pen 0).isNone = true ∧ okAnd (fun t => t.pa == 0) (s.xlate a 0).1 = true ∧
      (off.pen a.pen).root.getLsbD 0 = false ∧ tlbHit ((stX []).nearTlb a) a.pen (2 ^ 30 - 1) = some wholePage ∧
      permit { a with w := true } (2 ^ 60) = some .genWrite ∧ permit { a with unit := some 15 } 0 = some .engineMask ∧
      permit a 0 = some .permission ∧ permit a 0xFFFF = none := by
  decide +kernel

/-- A page of ordering kind UN. -/
def unPage : TlbEnt := ⟨0, 0, 2 ^ 30, BitVec.ofNat 64 (2 ^ 53 + 2 ^ 29 + 0xFFF9), 0⟩

/-- A released `atom` of the last word of the page. -/
def anAtom : SEnt := ⟨.atom (2 ^ 30 - 8) 0 8 1, [0], 0, 0, false, 0, [], 0⟩

/-- Loads of 8 bytes at the last word of an SO page, off alignment, and past the page (which faults); behind an entry of a
released region, behind a store that awaits its acknowledgement, and, on a page of kind UN, behind a released `atom` of its
bytes. -/

theorem test_witness_LoadResults :
    let s := stX [(1, 2 ^ 30 - 8), (2, 2 ^ 30), (3, 4)]
    let at_ (r : BitVec 6) : Nat := (((s.pre.x r).toInt + (0 : BitVec 7).toInt * 8) % 2 ^ 60).toNat
    let x (r : BitVec 6) := s.xlate (s.curAccess true false) (at_ r)
    let late := withCtx s (fun c => { c with drain := [buffered 0] })
    let sent := withCtx s (fun c => { c with acks := 1 })
    let atom := withCtx (s.updCore 0 (fun k => { k with tlb := [unPage] })) (fun c => { c with drain := [anAtom] })
    let behind := atom.xlate (atom.curAccess true false) (at_ 1)
    s.pre.p 0 = true ∧ (8 : Nat) = 2 ^ (3 : BitVec 3).toNat ∧ at_ 1 % 8 = 0 ∧ at_ 3 % 8 ≠ 0 ∧ at_ 2 % 8 = 0 ∧
      okAnd (fun t => t.pa % 8 == 0 && !(x 1).2.elsewhere t.pa && t.kind == 0 &&
        !(x 1).2.behindAtom ((x 1).2.home t.pa) 8) (x 1).1 = true ∧
      (x 1).2.cur.drain = [] ∧ (x 1).2.owed 0 = 0 ∧ behind.2.behindAtom (2 ^ 30 - 8) 8 = true ∧
      okAnd (fun t => t.kind == 2 && behind.2.home t.pa == 2 ^ 30 - 8) behind.1 = true ∧ errAnd (fun _ => true) (x 2).1 = true ∧
      (late.xlate (late.curAccess true false) (at_ 1)).2.cur.drain ≠ [] ∧
      (sent.xlate (sent.curAccess true false) (at_ 1)).2.owed 0 ≠ 0 := by
  decide +kernel

/-- Stores of 8 bytes outside a region, with nothing under way, behind a released entry, and behind an acknowledgement;
inside one whose buffer has room, and one whose buffer of 96 blocks has not. -/
theorem test_witness_StoreResults :
    let s := stX [(1, 2 ^ 30 - 8), (2, 2 ^ 30), (3, 4)]
    let x (s : State) (r : BitVec 6) := s.xlate (s.curAccess false true) (s.pre.x r).toNat
    let r (n : Nat) := regionOf ((List.range n).map buffered)
    let u (n : Nat) := withCtx s (fun c => { c with region := some (r n) })
    let good (s : State) : Bool :=
      okAnd (fun t => !(x s 1).2.elsewhere t.pa && (x s 1).2.owed 0 == 0 &&
        (x s 1).2.cur.drain.isEmpty) (x s 1).1
    let late := withCtx s (fun c => { c with drain := [buffered 0] })
    let sent := withCtx s (fun c => { c with acks := 1 })
    let b := sbufStore (r 95) (2 ^ 30 - 8) 8 0 false false ⟨2 ^ 30 - 8, 0, 0, 0, 0, 0, 1⟩
    b.map (fun q => q.sbuf.length) = some 96 ∧ (x (u 95) 1).2.cur.drain = [] ∧ okAnd (fun t => t.kind == 0) (x s 1).1 = true ∧
      (x late 1).2.cur.drain ≠ [] ∧ (x late 1).2.cur.region = none ∧
      okAnd (fun t => t.kind != 2 && (x sent 1).2.owed 0 != 0) (x sent 1).1 = true ∧ (4 : BitVec 3).toNat = 4 ∧
      s.pre.p 0 = true ∧ (s.pre.x 1).toNat % 8 = 0 ∧ (s.pre.x 3).toNat % 8 ≠ 0 ∧ good s = true ∧ (x s 1).2.cur.region = none ∧
      errAnd (fun _ => true) (x s 2).1 = true ∧ good (u 95) = true ∧ (x (u 95) 1).2.cur.region = some (r 95) ∧
      (r 95).sbuf.length < 96 ∧ good (u 96) = true ∧ (x (u 96) 1).2.cur.region = some (r 96) ∧ 96 ≤ (r 96).sbuf.length ∧
      ((r 96).sbuf.all fun e => match e.kind with
        | .block pa _ _ _ => pa != (2 ^ 30 - 8) / 256 * 256
        | _ => true) = true := by
  decide +kernel


/-- Atomics of 8 bytes: misaligned, past the page, on a page of kind UN and on one that is not, outside and inside a
region with and without room; operands at the ends of 32 bits. -/
theorem test_witness_Atomics :
    let s := stX [(1, 2 ^ 30 - 8), (2, 2 ^ 30), (3, 4)]
    let un := s.updCore 0 (fun k => { k with tlb := [unPage] })
    let x (s : State) (r : BitVec 6) := s.xlate (s.curAccess true true) (s.pre.x r).toNat
    let r (n : Nat) := regionOf ((List.range n).map buffered)
    let u (n : Nat) := withCtx s (fun c => { c with region := some (r n) })
    s.pre.p 0 = true ∧ (1 : BitVec 1).toNat ≤ 1 ∧ (s.pre.x 3).toNat % 8 ≠ 0 ∧ (s.pre.x 1).toNat % 8 = 0 ∧
      errAnd (fun _ => true) (x s 2).1 = true ∧ okAnd (fun t => t.kind == 2) (x un 1).1 = true ∧
      okAnd (fun t => t.kind != 2 && !(x s 1).2.elsewhere t.pa &&
        (x s 1).2.owed 0 == 0 && (x s 1).2.cur.drain.isEmpty) (x s 1).1 = true ∧ (x s 1).2.cur.region = none ∧
      okAnd (fun t => t.kind != 2) (x (u 95) 1).1 = true ∧ (x (u 95) 1).2.cur.region = some (r 95) ∧
      (x (u 96) 1).2.cur.region = some (r 96) ∧ (r 95).sbuf.length < 96 ∧ 96 ≤ (r 96).sbuf.length ∧
      0 < 4 ∧ 2 ^ 32 - 1 < 2 ^ (8 * 4) ∧ 0 < 2 ^ (8 * 4) := by
  decide +kernel

/-- Fences of each kind, of a narrow and a wide scope; acknowledgements awaited, a released entry, and neither. -/
theorem test_witness_FenceEffects :
    let s := stX []
    let t := withCtx s (fun c => { c with acks := 1 })
    let o : FenceOp := ⟨0, 4, 0⟩
    let late := withCtx s (fun c => { c with drain := [buffered 0] })
    s.pre.p 0 = true ∧ t.pre.p 0 = true ∧ o.kind.toNat ≠ 1 ∧ 4 ≤ o.scope.toNat ∧ t.owed 0 ≠ 0 ∧ s.owed 0 = 0 ∧
      late.cur.drain ≠ [] ∧ s.cur.drain = [] ∧ (⟨0, 1, 1⟩ : FenceOp).kind.toNat = 1 ∧ (⟨0, 1, 2⟩ : FenceOp).kind.toNat = 2 ∧
      (⟨0, 1, 2⟩ : FenceOp).scope.toNat < 2 := by
  decide +kernel

/-- Every clause of `waita`: woken; misaligned; past the page; a page of kind UN; a word that differs, and one that does
not, on this package and in the memory of the host. -/
theorem test_witness_WaitAddress :
    let s := stX [(1, 2 ^ 30 - 8), (2, 2 ^ 30), (3, 4), (4, 1)]
    let un := s.updCore 0 (fun k => { k with tlb := [unPage] })
    let far := s.updCore 0 (fun k => { k with tlb := [⟨0, 0, 2 ^ 30, BitVec.ofNat 64 (3 * 2 ^ 61 + 2 ^ 48 + 2 ^ 29 + 0xFFF9), 0⟩] })
    let woken := withCtx s (fun c => { c with ans := ⟨some 2, none, none⟩ })
    let x (s : State) (r : BitVec 6) := s.xlate (s.curAccess true false) (s.pre.x r).toNat
    let v (s : State) (t : Xlat) : Word :=
      BitVec.ofNat 64 (forward (x s 1).2.cur.sbuf ((x s 1).2.home t.pa) 8 ((x s 1).2.physRead t.pa 8))
    s.pre.p 0 = true ∧ woken.pre.ans.wake = some 2 ∧ s.pre.ans.wake = none ∧ (s.pre.x 3).toNat % 8 ≠ 0 ∧
      (s.pre.x 1).toNat % 8 = 0 ∧ errAnd (fun _ => true) (x s 2).1 = true ∧ okAnd (fun t => t.kind == 2) (x un 1).1 = true ∧
      okAnd (fun t => t.kind != 2 && t.pa % 8 == 0 && !(x s 1).2.elsewhere t.pa &&
        (x s 1).2.cur.drain.isEmpty && (x s 1).2.owed 0 == 0 && v s t != s.pre.x 4 &&
        v s t == s.pre.x 0 && !(x s 1).2.isRemote t) (x s 1).1 = true ∧
      okAnd (fun t => t.kind != 2 && t.pa % 8 == 0 && !(x far 1).2.elsewhere t.pa && v far t == s.pre.x 0 &&
        (x far 1).2.isRemote t) (x far 1).1 = true := by
  decide +kernel

/-- Ranges on a 64 KiB boundary and off it. -/
theorem test_witness_ShootDowns :
    let s := stX [(1, 2 ^ 16), (2, 2 ^ 16 - 1)]
    s.pre.p 0 = true ∧ (s.pre.x 1).toNat % 2 ^ 60 % 2 ^ 16 = 0 ∧ (s.pre.x 2).toNat % 2 ^ 60 % 2 ^ 16 ≠ 0 := by
  decide +kernel

/-- A length of 0; a range on a page, behind an earlier store and not; and one that runs past it. -/
theorem test_witness_CacheControl :
    let s := stX [(1, 128), (2, 2 ^ 30)]
    let late := withCtx s (fun c => { c with drain := [buffered 0] })
    let sp (w skip : Bool) (va n : Nat) := (s.spans w skip (pageSpans (pageFuel n) va n)).1
    s.pre.p 0 = true ∧ (s.pre.x 0).toNat % 2 ^ 32 = 0 ∧ (s.pre.x 1).toNat % 2 ^ 32 ≠ 0 ∧
      okAnd (fun _ => true) (sp false false 0 128) = true ∧ okAnd (fun _ => true) (sp true false 0 128) = true ∧
      okAnd (fun _ => true) (sp false true (2 ^ 30) 128) = true ∧ errAnd (fun _ => true) (sp false false (2 ^ 30) 128) = true ∧
      errAnd (fun _ => true) (sp true false (2 ^ 30) 128) = true ∧ (∀ w skip, (s.spans w skip (pageSpans (pageFuel 128) 0 128)).2.behind = false ∧
        (late.spans w skip (pageSpans (pageFuel 128) 0 128)).2.behind = true) := by
  decide +kernel

/-- Pieces that translate, for loads and stores, outside a region and in one; an address that is not aligned. -/
theorem test_witness_VectorDeviceAccesses :
    let s := stX [(1, 2 ^ 30 - 256), (2, 4)]
    let o : RROp := ⟨0, 9, 1, 0⟩
    let l := vldAddrs o s
    let x (r w : Bool) := s.xlateAll (s.curAccess r w) (l.map (· % 2 ^ 60))
    s.pre.p 0 = true ∧ l = [2 ^ 30 - 256] ∧ (∀ a ∈ l, a % 256 = 0) ∧ (x true false).2.behindAtom (2 ^ 30 - 256) 256 = false ∧
      (∀ b ∈ [true, false], okAnd (fun ts => ts.all (fun t => t.pa % 256 == 0 && !(x b !b).2.elsewhere t.pa)) (x b !b).1 = true ∧ (x b !b).2.cur.drain = [] ∧ (x b !b).2.owed 0 = 0) ∧
      (x false true).2.cur.region = none ∧
      ((withCtx s (fun c => { c with region := some (regionOf []) })).cur.region = some (regionOf [])) ∧
      (vldAddrs ⟨0, 9, 2, 0⟩ s).find? (fun a => a % 256 ≠ 0) = some 4 ∧ (mldAddrs ⟨0, 3, 1⟩ s).length ≤ 96 := by
  decide +kernel

/-- The last lines of the scratchpad, an address that is not aligned, one past the scratchpad, and lines that meet in one
bank; an earlier `vscatter` that still writes the last line; reads of the gather port of which one is due. -/
theorem test_witness_ScratchpadLoadsAndMoves :
    let s := stX [(1, 2 ^ 20 - 256), (2, 128), (3, 2 ^ 20)]
    let a (r : BitVec 6) := (s.pre.x r + s.pre.x 0).toNat
    let o : RROp := ⟨0, 9, 0, 0⟩
    let p := { s with issue := { s.issue with portLines := [2 ^ 13 - 1] } }
    let u := withCtx (s.updCluster 0 (fun k => { k with cycle := 5 })) (fun c => { c with
      gath := [⟨4, 9, 63, 2 ^ 20 - 4, 4⟩, ⟨5, 9, 0, 0, 4⟩] })
    s.pre.p 0 = true ∧ a 1 % 256 = 0 ∧ a 1 < 2 ^ 20 ∧ (addLines s.issue.lines [a 1 / 128, a 1 / 128 + 1]).isSome = true ∧
      a 2 % 256 ≠ 0 ∧ a 3 % 256 = 0 ∧ 2 ^ 20 ≤ a 3 ∧
      addLines [a 1 / 128 - 32] [a 1 / 128, a 1 / 128 + 1] = none ∧
      (∃ l ∈ p.issue.portLines, a 1 / 128 ≤ l ∧ l < a 1 / 128 + 2) ∧ s.issue.portLines = [] ∧
      (s.pre.x 1).toNat % 8 = 0 ∧ (∃ l ∈ p.issue.portLines, (2 ^ 20 - 8) / 128 ≤ l ∧ l < (2 ^ 20 - 8) / 128 + 1) ∧
      (∀ x ∈ vldsAddrs o s, x % 16 = 0 ∧ x < 2 ^ 20) ∧ (∀ x ∈ vgatherAddrs o s, x % 4 = 0 ∧ x < 2 ^ 20) ∧
      (u.ctx 0).gath.filter (fun r => decide (r.due < u.now 0)) = [⟨4, 9, 63, 2 ^ 20 - 4, 4⟩] := by
  decide +kernel

/-- Stores to the end of the scratchpad; writes and scale loads of which one is due. -/
theorem test_witness_ScratchpadStoresLand :
    let s := (stX [(1, 2 ^ 20 - 256)]).updCluster 0 (fun k => { k with cycle := 5 })
    let w : SpWrite := ⟨4, 0, 0, 2, 0xABCD, none⟩
    let t := s.updCore 0 (fun k => { k with writes := [w, ⟨5, 0, 8, 2, 1, none⟩] })
    let due (w : SpWrite) : Bool := decide (w.due < (t.cluster (0 / 16)).cycle) && w.order == 0
    let u := withCtx s (fun c => { c with scl := [(4, 15, 1), (5, 0, 2)] })
    s.pre.p 0 = true ∧ (s.pre.x 1 + s.pre.x 0).toNat % 256 = 0 ∧ (s.pre.x 1 + s.pre.x 0).toNat < 2 ^ 20 ∧
      (addLines s.issue.lines [(2 ^ 20 - 256) / 128, (2 ^ 20 - 256) / 128 + 1]).isSome = true ∧
      (∀ x ∈ vgatherAddrs ⟨0, 9, 0, 0⟩ s, x % 4 = 0 ∧ x < 2 ^ 20) ∧ (s.pre.x 1).toNat % 8 = 0 ∧
      (t.core 0).writes.filter due = [w] ∧ w.n ≤ 2 ^ 20 ∧
      (u.ctx 0).scl.filter (fun l => decide (l.1 < u.now 0)) = [(4, 15, 1)] := by
  decide +kernel

/-- Slots of the context and not: hits, free slots and neither; a `tset` of a slot at the end of its half, of every group
and format range; a slot that is busy. -/
theorem test_witness_TileTable :
    let e : TileEnt := { slotOf 48 3 0 .ready with tag := 7 }
    let s := tiled (stX [(1, 7), (2, 127), (3, 48 * 2 ^ 13 + 12 * 2 ^ 27), (4, 128), (5, 13 * 2 ^ 27 + 2 ^ 13),
      (6, 7 * 2 ^ 31 + 2 ^ 13), (7, 6144 + 2 ^ 13), (8, 2 ^ 36)]) [(0, e), (1, slotOf 8 0 0 .filling)]
    let x (r : BitVec 6) := (s.pre.x r).toNat
    s.pre.p 0 = true ∧ (0 < 256 ∧ s.owns 0 0 = true ∧ (s.preTile 0).state ≠ .empty ∧
      (s.preTile 0).tag = BitVec.ofNat 48 (x 1)) ∧ (2 < 256 ∧ s.owns 0 2 = true ∧ (s.preTile 2).state = .empty) ∧
      s.owns 0 (x 2 % 256) = true ∧ s.owns 0 (x 4 % 256) = false ∧ x 3 / 2 ^ 36 = 0 ∧ x 3 / 2 ^ 13 % 2 ^ 13 ≠ 0 ∧
      x 3 % 2 ^ 13 + x 3 / 2 ^ 13 % 2 ^ 13 ≤ 6144 ∧ x 3 / 2 ^ 27 % 16 ≤ 12 ∧ x 3 / 2 ^ 31 % 8 ≠ 7 ∧ x 8 / 2 ^ 36 ≠ 0 ∧
      12 < x 5 / 2 ^ 27 % 16 ∧ x 6 / 2 ^ 31 % 8 = 7 ∧ 6144 < x 7 % 2 ^ 13 + x 7 / 2 ^ 13 % 2 ^ 13 ∧
      (s.preTile 1).state = .filling := by
  decide +kernel

/-- A ring of two slots with lines to take and room to fill, cursors inside and at the end; undefined rings; windows at
and past the end of the scratchpad. -/
theorem test_witness_RingsAndWindows :
    let s := withCtx (tiled (stX [(1, 4), (2, 3), (3, 128 * 2 ^ 20), (4, 4096 * 2 ^ 20 - 2 ^ 20), (5, 2), (6, 510), (7, 1)])
      [(0, slotOf 8 0 0 .ready), (1, slotOf 8 0 0 .empty)]) (fun c => { c with rings := [(0, ⟨0, 2, 8, 0⟩)] })
    let x (r : BitVec 6) := (s.pre.x r).toNat
    let r := s.pre.ring 0
    s.pre.p 0 = true ∧ s.cur.region = none ∧ x 5 / 2 ^ 9 = 0 ∧ x 5 % 2 ^ 9 ≠ 0 ∧ x 0 + x 5 ≤ 256 ∧ 256 < x 0 + x 6 ∧
      (∀ i < 2, s.owns 0 i = true ∧ (s.preTile i).lines ≠ 0) ∧ s.owns 0 128 = false ∧
      r.n ≠ 0 ∧ 2 * (x 1 % 2 ^ 32) ≤ (r.pc - r.cc).toNat ∧ (r.pc - r.cc).toNat < 2 * (x 6 % 2 ^ 32) ∧
      (∀ i ∈ ringLeaves s.preTile r (r.n + 8) r.cc.toNat 8, (s.preTile i).state = .ready) ∧
      (let u := tiled s [(0, slotOf 8 0 0 .filling), (1, slotOf 8 0 0 .empty)]
       ∃ i ∈ ringLeaves u.preTile (u.pre.ring 0) (r.n + 8) r.cc.toNat 8, (u.preTile i).state = .filling) ∧
      (s.pre.ring 15).n = 0 ∧ (r.pc - r.cc).toNat + 2 * (x 1 % 2 ^ 32) ≤ ringLen s.preTile r ∧
      ringLen s.preTile r < (r.pc - r.cc).toNat + 2 * (x 6 % 2 ^ 32) ∧
      (∀ i ∈ ringLeaves s.preTile r (r.n + 8) r.pc.toNat 8, (s.preTile i).state ≠ .draining) ∧
      ringAt s.preTile r r.cc.toNat = some (0, 0) ∧ x 3 % 256 = 0 ∧ x 3 < 2 ^ 32 ∧ x 1 < 2 ^ 16 ∧
      256 * (x 3 / 2 ^ 8 % 2 ^ 12) + 256 * (x 3 / 2 ^ 20) ≤ 2 ^ 20 ∧
      256 * (x 4 / 2 ^ 8 % 2 ^ 12) + 256 * (x 4 / 2 ^ 20) ≤ 2 ^ 20 ∧ x 7 % 256 ≠ 0 ∧
      2 ^ 20 < 256 * ((2 ^ 32 - 256) / 2 ^ 8 % 2 ^ 12) + 256 * ((2 ^ 32 - 256) / 2 ^ 20) := by
  decide +kernel

/-- Commands that are accepted, held, refused by their own checks, that wait for their id, and whose predecessors are
done, wait and failed. -/
theorem test_witness_CommandIssue :
    let s := stX [(1, 32), (2, 2 ^ 16), (3, 1)]
    let busy := withCtx s (fun c => { c with status := [(0, BitVec.ofNat 64 (3 * 2 ^ 32))] })
    let inside := withCtx s (fun c => { c with region := some (regionOf []) })
    let i (r1 r2 : BitVec 6) : Instr := .hctld ⟨0, r1, r2, 0, 0⟩
    let f (r1 r2 : BitVec 6) := s.engForm ⟨0, r1, r2, 0, 0⟩ .hctld false
    let k := s.engForm ⟨0, 1, 2, 0, 0⟩ (.kv 4) true
    s.commandOf (i 1 2) = some (f 1 2) ∧ s.pre.p 0 = true ∧
      sfind s.tasks s.pre.task = some { placedTask with job := 1 } ∧ s.pre.statusOf s.pre.nextcid = 0 ∧
      busy.pre.statusOf busy.pre.nextcid = 3 ∧ s.commandFault (f 1 2) = none ∧
      s.commandFault (f 3 2) = some (.misaligned, 1) ∧ s.commandHeld (f 1 2) = false ∧ inside.commandHeld k = true ∧
      inside.heldCount < 32 ∧ s.commandRoom (f 1 2) = true ∧ s.pre.namedPreds 0 = some [] ∧ predsOf s.cur [] = .go := by
  decide +kernel

/-- Registers at the ends of the index ranges; ports with values in and out of range; status entries in every state. -/
theorem test_witness_EngineRegistersAndStatus :
    let s := stX [(1, 2 ^ 32), (2, 2 ^ 10 - 1), (3, 0x80), (4, 0x84), (5, 6)]
    let st (v : Nat) := withCtx s (fun c => { c with status := [(5, BitVec.ofNat 64 (5 * 2 ^ 48 + v * 2 ^ 32))] })
    let trig : Cmd := { placedCmd with kind := .trig 0x40 }
    s.pre.p 0 = true ∧ 2 ^ 32 ≤ (s.pre.x 1).toNat ∧ (s.pre.x 2).toNat < 2 ^ 10 ∧ (s.pre.x 5).toNat % 256 < 7 ∧
      (s.pre.x 3).toNat % 256 = 0x80 ∧ 0x83 < (s.pre.x 4).toNat % 256 ∧ (trig.task = s.pre.task ∧ trig.st ≠ .held) ∧
      s.cmds = [] ∧ (s.pre.stat 5).toNat / 2 ^ 48 ≠ 5 ∧
      ∀ v < 8, ((st v).pre.stat 5).toNat / 2 ^ 48 = 5 ∧ (st v).pre.statusOf 5 = v := by
  decide +kernel

/-- A gang of two tasks, with a record to wait on and without; requests at its home, of an arrival that does not complete
the phase, of one that does, of one whose barrier has a record, of a barrier that is not initialised, of one behind which an
earlier arrival of its context waits, and of one whose context's stores have not performed. -/
theorem test_witness_Barriers :
    let g : Gang := { job := 1, home := 0, size := 2, launch := 0, group := 0, barriers := [(0, ⟨2, 1, 0⟩), (1023, ⟨3, 1, 0⟩)] }
    let k : Task := { placedTask with job := 1, gang := 1 }
    let s := { (stX [(1, 1023), (2, 2), (3, 3)]) with
      tasks := [(1, k)], gangs := [(1, g)], barReqs := [(0, [⟨0, .c, 1, 0, 0, 0, false⟩])] }
    let late := withCtx s (fun c => { c with acks := 1 })
    let t := withCtx s (fun c => { c with arrivals := [(0, ⟨true, 0, 0, false⟩)] })
    s.pre.p 0 = true ∧ (∀ gang, ¬(stX []).InGang gang) ∧ s.InGang g ∧ (s.pre.x 1).toNat % 1024 = 1023 ∧
      (s.pre.x 2).toNat ≠ 0 ∧ (s.pre.x 2).toNat ≤ g.size ∧ g.size < (s.pre.x 3).toNat ∧ s.homeAnswer = none ∧
      (withCtx s (fun c => { c with ans := ⟨none, some true, none⟩ })).homeAnswer = some true ∧
      s.cur.arrivals = [] ∧ s.cur.region = none ∧ t.cur.arrivals = [(0, ⟨true, 0, 0, false⟩)] ∧ t.cur.region = none ∧
      (g.barrier 5).n = 0 ∧ (g.barrier 5).a = 0 ∧ (g.barrier 0).a ≠ 0 ∧ (g.barrier 0).n ≠ 0 ∧
      s.cur.record 0 = none ∧ t.cur.record 0 = some (0, ⟨true, 0, 0, false⟩) ∧ (g.barrier 0).p = 0 ∧
      isort BarReq.before (sget [] s.barReqs 0) = [⟨0, .c, 1, 0, 0, 0, false⟩] ∧ 0 ≤ (s.cluster 0).cycle ∧
      sfind s.tasks (s.ctx 0).task = some k ∧ k.st = .on 0 ∧ sfind s.gangs k.gang = some g ∧
      (let two : BarReq := ⟨0, .e, 1, 0, 0, 1, true⟩
       let w := { s with barReqs := [(0, [two, ⟨0, .c, 1, 0, 0, 0, false⟩])] }
       isort BarReq.before (sget [] w.barReqs 0) = ⟨0, .c, 1, 0, 0, 0, false⟩ :: [two] ∧ two.ctx = 0 ∧ two.held = true) ∧
      (({ s with barReqs := sput [] s.barReqs 0 [] } : State).releaseRegion 0).storesLeft (s.ctx 0).task = false ∧
      (({ late with barReqs := sput [] late.barReqs 0 [] } : State).releaseRegion 0).storesLeft (late.ctx 0).task = true ∧
      (g.barrier 0).a + 1 = (g.barrier 0).n ∧ (g.barrier 1023).a + 1 ≠ (g.barrier 1023).n := by
  refine ⟨by decide +kernel, ?_, ?_, ?_⟩
  · rintro gang ⟨k, h, hk, _⟩
    have : some ({ placedTask with job := 1 } : Task) = some k := h
    injection this with this
    exact hk (this ▸ rfl)
  · exact ⟨_, rfl, by decide, rfl, by decide⟩
  · decide +kernel

/-- An activity slot that is full, of a kind. -/
def full (kind : Nat) (s : State) : State := { s with budgets := [(0, { Budget.reset with enable := true, kind := kind })] }

/-- A queue of the task's job with a head, with an entry given to the context, empty, and closed; and one of another
job. A queue whose head goes to the least waiter, and one with room for a push. -/
theorem test_witness_WorkQueues :
    let q : WorkQ := { WorkQ.reset with job := 1 }
    let s (w : WorkQ) : State := { (stX [(1, 255)]) with queues := [(255, w)] }
    let u (w : WorkQ) : WorkQ := ((s w).refillOne 255).queue 255
    let mine (w : WorkQ) := w.granted.find? (fun k => k.1 == 0)
    let given : WorkQ := { q with granted := [(0, 9)] }
    let head : WorkQ := { q with hw := [5] }
    let closed : WorkQ := { q with closed := true }
    let two : WorkQ := { q with hw := [5], waiters := [7, 3] }
    (s q).pre.p 0 = true ∧ ((s q).pre.x 1).toNat % 256 = 255 ∧ ((s q).queue 0).job = 0 ∧
      (((s q).queue 255).job = (s q).jobOf 0 ∧ ((s q).queue 255).job ≠ 0) ∧ mine (u given) = some (0, 9) ∧
      (mine (u head) = none ∧ (u head).waiters = [] ∧ (u head).hw = [5]) ∧ (5 : BitVec 128) ≠ BitVec.allOnes 128 ∧
      ((u closed).closed = true ∧ (u closed).hw = [] ∧ (u closed).tail ≤ (u closed).head) ∧
      (mine (u q) = none ∧ (u q).closed = false) ∧ (two.arrivals = [] ∧ isort (fun a b => decide (a ≤ b)) two.waiters = [3, 7]) ∧
      (q.job ≠ 0 ∧ q.closed = false ∧ q.tail ≤ q.head ∧ q.hw.length < 64 ∧ q.waiters = []) ∧ (s q).FreeFor ((s q).queue 255).pen := by
  refine ⟨by decide +kernel, by decide +kernel, by decide +kernel, by decide +kernel, by decide +kernel, by decide +kernel,
    by decide +kernel, by decide +kernel, by decide +kernel, by decide +kernel, by decide +kernel, freeFor _ rfl rfl rfl _⟩

/-- A RUNNING job and one that has FAILED; a raise at the end of 64 bits, and past it; budgets that hold the write of the block
and not. -/
theorem test_witness_JobSyllables :
    let s := stX [(1, 2 ^ 64 - 2), (2, 2 ^ 64 - 1)]
    s.pre.p 0 = true ∧ sfind s.tasks s.cur.task = some { placedTask with job := 1 } ∧
      ({ placedTask with job := 1 } : Task).st = .on s.issue.ctx ∧ sfind s.jobs 1 = some aJob ∧ aJob.st = .running ∧
      aJob.expected + (s.pre.x 1).toNat < 2 ^ 64 ∧ 2 ^ 64 ≤ aJob.expected + (s.pre.x 2).toNat ∧
      aJob.completed + 1 = aJob.expected ∧ ({ aJob with st := .failed } : Job).st ≠ .running ∧
      ({ aJob with expected := 2 } : Job).completed + 1 ≠ 2 ∧ aJob.jcb % 64 = 0 ∧ s.posts = [] ∧
      s.mayAsk aJob.pen aJob.jcb = true ∧ (full 3 s).mayAsk aJob.pen aJob.jcb = false ∧ s.FreeFor aJob.pen := by
  refine ⟨by decide +kernel, by decide +kernel, by decide +kernel, by decide +kernel, by decide +kernel, by decide +kernel,
    by decide +kernel, by decide +kernel, by decide +kernel, by decide +kernel, by decide +kernel, by decide +kernel,
    by decide +kernel, by decide +kernel, freeFor _ rfl rfl rfl _⟩

/-- Beat formats: u8 by u8 over 12 units (0), a set reserved bit (1), no pair (2), 4 of 16 sparse (3); h0 is a ring of
slot 0, and the latch holds a dense unit of the format of entry 0. -/
def beatSt (t : TileEnt) : State :=
  withCtx (tiled (stX []) [(0, t)]) (fun c => { c with
    rings := [(0, ⟨0, 1, 0, 0⟩)]
    latch := some ⟨List.replicate 8 0, [], 8, 0⟩
    mft := [(0, BitVec.ofNat 64 (12 * 2 ^ 22 + 0x88)), (1, BitVec.ofNat 64 (2 ^ 37)),
      (3, BitVec.ofNat 64 (12 * 2 ^ 22 + 2 ^ 20 + 0x88))] })

/-- As `s`, a `vscatter` still to write a line. -/
def scattering (s : State) (l : Nat) : State := { s with issue := { s.issue with portLines := [l] } }

theorem beatSt_noSpan (t : TileEnt) (off k i a : Nat) : ¬(beatSt t).Span 15 off k i a := fun h => h.1 rfl

/-- As `beatSt`, with 48 generator records in slot 0. -/
def genSt : State := (beatSt (slotOf 3 11 1 .ready)).updCore 0 (fun k => { k with
  scratch := (List.range 48).map (fun j => (groupBase 1 + 8 * j, 1)) })

/-- Every check of PUSH and a unit that passes all: dense, sparse, and generator records; an advance past the producer
cursor, and none; a `vscatter` that still writes the unit's last line. -/
theorem test_witness_PushBeats :
    let s := beatSt (slotOf 24 8 1 .ready)
    let a := groupBase 1
    s.Span 0 0 24 0 a ∧ genSt.Span 0 0 1 0 a ∧ genSt.Span 0 0 3 0 a ∧ (∀ i a, ¬s.Span 15 0 24 i a) ∧ s.UnitReads 0 a 24 ∧
      genSt.UnitReads 0 a 3 ∧ (beatSt (slotOf 24 8 1 .filling)).UnitWaits 0 a 24 ∧
      (scattering s (a / 128 + 23)).UnitWaits 0 a 24 ∧
      (s.beatFmt 1).rsv ≠ 0 ∧ (s.beatFmt 2).rsv = 0 ∧ (s.beatFmt 2).ok .push = false ∧ (s.beatFmt 0).rsv = 0 ∧
      (s.beatFmt 0).ok .push = true ∧ (s.beatFmt 3).rsv = 0 ∧ (s.beatFmt 3).ok .push = true ∧ (s.beatFmt 3).sp = 1 ∧
      (s.preTile 0).fmt.toNat = (s.beatFmt 0).bfmt ∧ (s.beatFmt 0).blay = 0 ∧
      (addLines s.issue.lines ((List.range 24).map (fun j => a / 128 + j))).isSome = true ∧
      addLines [a / 128 + 32] ((List.range 24).map (fun j => a / 128 + j)) = none ∧ (slotOf 24 8 0 .ready).group ≠ 1 ∧
      ((beatSt (slotOf 24 8 1 .empty)).preTile 0).state = .empty ∧ (beatSt (slotOf 24 8 1 .empty)).fillComing 0 = false ∧
      ((s.cur.ring 0).pc - (s.cur.ring 0).cc).toNat < 3 ∧ (0 : BitVec 1) ≠ 1 ∧
      (withCtx s (fun c => { c with mpc := 64 })).pre.mpc.toNat % 128 ≠ 0 ∧ s.pre.mpc.toNat % 128 = 0 ∧ (genSt.preTile 0).fmt = 11 ∧
      cellsRead genSt.curCore.scratch 20 a 384 = (2 ^ 3072 - 1) / (2 ^ 64 - 1) ∧
      ((List.range 48).all fun j => recOk ((2 ^ 3072 - 1) / (2 ^ 64 - 1) / 2 ^ (64 * j) % 2 ^ 64)) = true :=
  ⟨⟨by decide +kernel, 0, by decide +kernel⟩, ⟨by decide +kernel, 0, by decide +kernel⟩,
    ⟨by decide +kernel, 0, by decide +kernel⟩, beatSt_noSpan _ 0 24, ⟨⟨rfl, rfl⟩, by rintro ⟨l, h, _⟩; cases h⟩,
    ⟨⟨rfl, rfl⟩, by rintro ⟨l, h, _⟩; cases h⟩, .inl (.inl rfl), .inr ⟨⟨rfl, rfl⟩, _, List.mem_singleton.2 rfl, by decide⟩,
    by decide +kernel⟩

/-- Bytes of 15 at every second address from `a`. -/
def masks : Nat → Nat → List (Nat × Byte)
  | _, 0 => []
  | a, n + 1 => (a, 15) :: masks (a + 2) n

/-- As `beatSt`, with metadata in memory: 384 masks of four set bits each. -/
def maskSt : State := { beatSt (slotOf 24 8 1 .ready) with mem := masks 0 384 }

/-- The translations of the six pieces of metadata at address 0. -/
def maskTs : List Xlat := (List.range 6).map (fun j => ⟨128 * j, 0, 0, 0, 0, 0, 2 ^ 30⟩)

/-- Metadata at address 0 is read through the page there. -/
theorem maskPieces (s : State) (w : Nat)
    (hx : s.xlateAll (s.curAccess true false) (List.map (· % 2 ^ 60) ((List.range 6).map (fun j => s.pre.mpc.toNat + 128 * j))) =
      (.ok maskTs, s))
    (hm : s.pre.mpc.toNat = 0) (hd : s.cur.drain = []) (ho : s.owed s.issue.ctx = 0) (hr : s.cur.sbuf = [])
    (ht : ∀ t ∈ maskTs, t.pa % 128 = 0 ∧ s.elsewhere t.pa = false ∧ s.behindAtom (s.home t.pa) 128 = false)
    (hb : ∀ i < 6, ∀ k < 128, s.physRead (s.home (128 * i) + k) 1 = w / 256 ^ (128 * i + k) % 256) :
    GoodPieces s true false 128 ((List.range 6).map (fun j => s.pre.mpc.toNat + 128 * j)) maskTs s ∧
      PiecesCoherent s 128 w maskTs := by
  refine ⟨⟨?_, hx, fun t h => ⟨(ht t h).1, (ht t h).2.1, fun _ => ⟨hd, ho⟩, (ht t h).2.2⟩⟩, ?_⟩
  · rw [hm]; decide
  · intro i h k hk
    have e : maskTs[i].pa = 128 * i := by simp [maskTs]
    rw [e, hr]
    exact (hb i (by simpa [maskTs] using h) k hk).symm

/-- The metadata of a sparse unit: 384 masks of four bits, all of them good; and 384 of no bit, of which the first is bad. -/
theorem test_witness_PushBeats_sparse :
    let w := 15 * ((65536 ^ 384 - 1) / 65535)
    let s := beatSt (slotOf 24 8 1 .ready)
    (GoodPieces maskSt true false 128 ((List.range 6).map (fun j => maskSt.pre.mpc.toNat + 128 * j)) maskTs maskSt ∧
      PiecesCoherent maskSt 128 w maskTs) ∧
    (GoodPieces s true false 128 ((List.range 6).map (fun j => s.pre.mpc.toNat + 128 * j)) maskTs s ∧
      PiecesCoherent s 128 0 maskTs) ∧
      ((List.range 384).all fun j => ((List.range 16).filter (fun b => w.testBit (16 * j + b))).length == 4) = true ∧
      ((List.range 16).filter (fun b => (0 : Nat).testBit b)).length ≠ 4 :=
  ⟨maskPieces _ _ rfl rfl rfl rfl rfl (by decide +kernel) (by decide +kernel),
    maskPieces _ _ rfl rfl rfl rfl rfl (by decide +kernel) (by decide +kernel), by decide +kernel⟩

/-- Every check of MAC and a unit that passes all, of a dense integer pair; an advance past the producer cursor, and one that a
`radv` of the bundle has taken to a slot that is FILLING; a `vscatter` that still writes the unit's first line. -/
theorem test_witness_MacBeats :
    let s := beatSt (slotOf 24 8 0 .ready)
    let l : Latch := ⟨List.replicate 8 0, [], 8, 0⟩
    let two := withCtx (tiled s [(0, slotOf 24 8 0 .ready), (1, slotOf 24 8 0 .filling)]) (fun c => { c with
      rings := [(0, ⟨0, 2, 48, 0⟩)] })
    let moved := two.setCtx 0 { two.cur with rings := [(0, ⟨0, 2, 48, 24⟩)] }
    (∃ i ∈ ringLeaves moved.preTile (moved.cur.ring 0) (2 + 24) (moved.cur.ring 0).cc.toNat 24,
        (moved.preTile i).state = .filling) ∧ 24 ≤ ((moved.cur.ring 0).pc - (moved.cur.ring 0).cc).toNat ∧
      (scattering s 0).UnitWaits 0 0 24 ∧
      (s.beatFmt 1).rsv ≠ 0 ∧ (s.beatFmt 2).ok .mac = false ∧ (s.beatFmt 0).rsv = 0 ∧ (s.beatFmt 0).ok .mac = true ∧
      (s.beatFmt 0).sp = 0 ∧ (∀ i a, ¬s.Span 15 0 24 i a) ∧ s.Span 0 0 24 0 0 ∧ (s.preTile 0).group = 0 ∧ s.UnitReads 0 0 24 ∧
      (beatSt (slotOf 24 8 0 .draining)).UnitWaits 0 0 24 ∧ (beatSt (slotOf 24 8 0 .empty)).fillComing 0 = false ∧
      (s.beatFmt 0).alay = 0 ∧ (s.preTile 0).fmt.toNat = (s.beatFmt 0).afmt ∧ (slotOf 24 3 0 .ready).fmt.toNat ≠ 8 ∧
      s.pre.latch = some l ∧ l.bfmt = (s.beatFmt 0).bfmt ∧ l.sp = (s.beatFmt 0).sp ∧ l.sp ≠ (s.beatFmt 3).sp ∧
      (withCtx s (fun c => { c with latch := none })).pre.latch = none ∧
      (addLines s.issue.lines ((List.range 24).map (fun j => 0 / 128 + j))).isSome = true ∧
      addLines [64 + 23] ((List.range 24).map (fun j => 0 / 128 + j)) = none ∧ pairRow 8 8 = some (false, true) ∧
      (ifmtOf 8).isSome = true ∧ ((s.cur.ring 0).pc - (s.cur.ring 0).cc).toNat < 24 := by
  refine ⟨by decide +kernel, by decide +kernel, .inr ⟨⟨rfl, rfl⟩, _, List.mem_singleton.2 rfl, by decide⟩,
    by decide +kernel, by decide +kernel, by decide +kernel, by decide +kernel, by decide +kernel,
    beatSt_noSpan _ 0 24, ⟨by decide +kernel, 0, by decide +kernel⟩, by decide +kernel,
    ⟨⟨rfl, rfl⟩, by rintro ⟨l, h, _⟩; cases h⟩, .inl (.inr (.inl (by decide +kernel))), by decide +kernel⟩

/-- A chunk at the producer cursor that is free, that is READY, of another format, in a full ring, and of a slot that an
engine fills, and a `padv` of the bundle before it; scale loads at the end of a slot, ready, waiting, behind a `vscatter`, not
armed, and of a scale format. -/
theorem test_witness_DrainAndScaleBeats :
    let s := beatSt (slotOf 2 0 0 .empty)
    let r := beatSt (slotOf 2 0 0 .ready)
    let full := withCtx s (fun c => { c with rings := [(0, ⟨0, 1, 2, 0⟩)] })
    let fill := beatSt { slotOf 2 0 0 .filling with inflight := true }
    let moved := s.setCtx 0 { s.cur with rings := [(0, ⟨0, 1, 2, 0⟩)] }
    (ringLen moved.preTile (moved.pre.ring 0) < ((moved.cur.ring 0).pc - (moved.cur.ring 0).cc).toNat + 2 ∧
      ¬ringLen moved.preTile (moved.pre.ring 0) < ((moved.pre.ring 0).pc - (moved.pre.ring 0).cc).toNat + 2 ∧
      (moved.preTile 0).state = .empty) ∧ (scattering r 1).Scattered (128 + 64) 1 ∧
    r.Span 0 1 1 0 128 ∧ r.SlotReads 0 ∧ (beatSt (slotOf 2 0 0 .filling)).SlotWaits 0 ∧
      (s.beatFmt 1).rsv ≠ 0 ∧ (s.beatFmt 2).ok .drain = false ∧ (s.beatFmt 0).rsv = 0 ∧ (s.beatFmt 0).ok .drain = true ∧
      (s.pre.ring 15).n = 0 ∧ (s.pre.ring 0).n ≠ 0 ∧ ringAt s.preTile (s.pre.ring 0) (s.pre.ring 0).pc.toNat = some (0, 0) ∧
      0 + 2 ≤ (s.preTile 0).lines.toNat ∧ (s.preTile 0).state = .empty ∧
      ¬ringLen s.preTile (s.pre.ring 0) < ((s.pre.ring 0).pc - (s.pre.ring 0).cc).toNat + 2 ∧
      (s.preTile 0).inflight = false ∧ (s.beatFmt 0).alay = 0 ∧ (s.preTile 0).fmt.toNat = (s.beatFmt 0).ofmt ∧
      (full.preTile 0).state = .empty ∧ (full.preTile 0).inflight = false ∧
      ringAt full.preTile (full.pre.ring 0) (full.pre.ring 0).pc.toNat = some (0, 0) ∧
      ringLen full.preTile (full.pre.ring 0) < ((full.pre.ring 0).pc - (full.pre.ring 0).cc).toNat + 2 ∧
      (fill.preTile 0).state = .filling ∧ (fill.preTile 0).inflight = true ∧
      ringAt fill.preTile (fill.pre.ring 0) (fill.pre.ring 0).pc.toNat = some (0, 0) ∧
      (r.preTile 0).state = .ready ∧ (slotOf 2 3 0 .empty).fmt.toNat ≠ 0 ∧ s.fillComing 0 = false ∧
      64 * 3 + 64 ≤ (r.preTile 0).bytes ∧ (slotOf 2 11 0 .ready).fmt = 11 ∧
      (addLines r.issue.lines [(128 + 64) / 128]).isSome = true ∧ addLines [65] [(128 + 64) / 128] = none :=
  ⟨by decide +kernel, ⟨_, List.mem_singleton.2 rfl, by decide⟩, ⟨by decide +kernel, 1, by decide +kernel⟩, ⟨rfl, rfl⟩,
    .inl rfl, by decide +kernel⟩

/-- Sources: a register at the end of the file; the last chunk that a ring field names, ready, waiting, not armed,
faulted and of a scale format; a ring that is not defined. -/
theorem test_witness_VectorOperands :
    let s := beatSt (slotOf 8 0 0 .ready)
    (63 : BitVec 7).toNat < 64 ∧ 64 ≤ (67 : BitVec 7).toNat ∧ (67 : BitVec 7).toNat / 4 % 16 = 0 ∧
      s.Span 0 (2 * 3) 2 0 (128 * 6) ∧ s.SlotReads 0 ∧ (∀ i a, ¬s.Span 15 0 2 i a) ∧
      (beatSt (slotOf 8 0 0 .filling)).SlotWaits 0 ∧ (beatSt (slotOf 8 0 0 .empty)).fillComing 0 = false ∧
      ({ slotOf 8 0 0 .ready with faulted := true } : TileEnt).faulted = true ∧ (slotOf 8 12 0 .ready).fmt = 12 ∧
      (scattering s 7).Scattered (128 * 6) 2 ∧ ¬s.Scattered (128 * 6) 2 ∧ s.operand 67 true = .val 0 [6, 7] ∧ addLines [6 + 64] [6, 7] = none := by
  refine ⟨by decide, by decide, by decide, ⟨by decide +kernel, 6, by decide +kernel⟩, ⟨by decide +kernel, by decide +kernel⟩,
    beatSt_noSpan _ 0 2, .inl (by decide +kernel), by decide +kernel, by decide, by decide,
    ⟨_, List.mem_singleton.2 rfl, by decide⟩, (by rintro ⟨l, h, _⟩; cases h), by decide +kernel⟩

/-! Operands that are read (`State.Reads`): registers, and the second chunk of a ring. -/

theorem reads_one (s : State) : s.Reads [(4, true)] [(s.pre.v 4).toNat] s := ⟨[[]], s.issue.lines, rfl, rfl, rfl, rfl, rfl⟩

theorem reads_two (s : State) : s.Reads [(4, true), (63, true)] [(s.pre.v 4).toNat, (s.pre.v 63).toNat] s :=
  ⟨[[], []], s.issue.lines, rfl, rfl, rfl, rfl, rfl⟩

theorem reads_three (s : State) :
    s.Reads [(4, true), (5, true), (6, true)] [(s.pre.v 4).toNat, (s.pre.v 5).toNat, (s.pre.v 6).toNat] s :=
  ⟨[[], [], []], s.issue.lines, rfl, rfl, rfl, rfl, rfl⟩

theorem reads_none (s : State) : s.Reads [(4, false), (127, false)] [0, 0] s :=
  ⟨[[], []], s.issue.lines, rfl, rfl, rfl, rfl, rfl⟩

theorem reads_ring : (beatSt (slotOf 8 0 0 .ready)).Reads [(65, true)] [0]
    { beatSt (slotOf 8 0 0 .ready) with issue := { (beatSt (slotOf 8 0 0 .ready)).issue with lines := [3, 2] } } :=
  ⟨[[2, 3]], [3, 2], by decide +kernel, rfl, rfl, by decide +kernel, rfl⟩

/-- Every element active, and none (m0 and an empty m1), in each integer format. -/
theorem test_witness_VectorIntegerResults :
    let s := stX []
    (∀ f ∈ [6, 8, 9, 10], fmtInt f = true ∧ s.uses 0 (2048 / fmtWidth f) (fun _ => true) = true ∧
      s.uses 1 (2048 / fmtWidth f) (fun _ => true) = false) ∧
      s.Reads [(4, true), (63, true)] [(s.pre.v 4).toNat, (s.pre.v 63).toNat] s ∧
      s.Reads [(4, true)] [(s.pre.v 4).toNat] s ∧ s.Reads [(4, false), (127, false)] [0, 0] s :=
  ⟨by decide +kernel, reads_two _, reads_one _, reads_none _⟩

theorem test_witness_VectorCompares :
    let s := stX []
    s.uses 0 64 (fun _ => true) = true ∧ s.Reads [(4, true), (63, true)] [(s.pre.v 4).toNat, (s.pre.v 63).toNat] s ∧
      (∀ f ∈ [6, 8, 9, 10], fmtInt f = true) ∧ ∀ f ∈ [0, 1, 2], fmtFloat f = true :=
  ⟨by decide +kernel, reads_two _, by decide, by decide⟩

/-- Three sources read; conversions that widen and that narrow, of the last part that fits. -/
theorem test_witness_VectorFloatResults :
    let s := stX []
    (∀ f ∈ [0, 1, 2], fmtFloat f = true ∧ s.uses 0 (2048 / fmtWidth f) (fun _ => true) = true) ∧
      s.Reads [(4, true), (5, true), (6, true)] [(s.pre.v 4).toNat, (s.pre.v 5).toNat, (s.pre.v 6).toNat] s ∧
      s.Reads [(4, true)] [(s.pre.v 4).toNat] s ∧
      VOp.okCvt ⟨0, 9, 4, 7, 5, 0, 0, 3⟩ = true ∧ VOp.okCvt ⟨10, 9, 4, 3, 8, 0, 0, 0⟩ = true ∧
      VOp.okCvt ⟨7, 9, 4, 7, 0, 0, 1, 2⟩ = true :=
  ⟨by decide +kernel, reads_three _, reads_one _, by decide, by decide, by decide⟩

theorem test_witness_VectorMoves :
    let s := stX []
    (∀ f ∈ [0, 1, 2, 6, 7, 8, 9, 10], fmtMove f = true ∧ s.uses 0 (2048 / fmtWidth f) (fun _ => true) = true) ∧
      s.Reads [(4, true), (63, true)] [(s.pre.v 4).toNat, (s.pre.v 63).toNat] s ∧
      s.Reads [(4, true)] [(s.pre.v 4).toNat] s ∧ fmtWidth 0 = 32 ∧ fmtWidth 10 = 32 :=
  ⟨by decide +kernel, reads_two _, reads_one _, rfl, rfl⟩

theorem test_witness_ReductionsAndMasks :
    let s := stX []
    (∀ f ∈ [0, 1, 2, 9, 10], fmtRed f = true ∧ s.uses 0 (2048 / fmtWidth f) (fun _ => true) = true) ∧
      s.Reads [(4, true)] [(s.pre.v 4).toNat] s ∧ fmtFloat 2 = true ∧ fmtFloat 9 = false :=
  ⟨by decide +kernel, reads_one _, rfl, rfl⟩

theorem test_witness_SfuResults :
    (∀ f : BitVec 3, f.toNat ≤ 2 → (stX []).uses 0 (2048 / fmtWidth f.toNat) (fun _ => true) = true) ∧
      (2 : BitVec 3).toNat ≤ 2 ∧ (stX []).Reads [(4, true)] [((stX []).pre.v 4).toNat] (stX []) :=
  ⟨by decide +kernel, by decide, reads_one _⟩

/-- Sources of every operation; a slot at a consumer cursor that takes mass, and none; records that are good and bad. -/
theorem test_witness_AttentionAndSeeds :
    let s := beatSt (slotOf 8 0 0 .ready)
    s.uses 0 64 (fun _ => true) = true ∧ s.Reads [(4, true), (63, true)] [(s.pre.v 4).toNat, (s.pre.v 63).toNat] s ∧
      s.Reads [(4, true), (5, true), (6, true)] [(s.pre.v 4).toNat, (s.pre.v 5).toNat, (s.pre.v 6).toNat] s ∧
      s.massSlot 0 = some 0 ∧ s.massSlot 15 = none ∧ recOk 1 = true ∧ recOk 0 = false ∧ fmtFloat 2 = true :=
  ⟨by decide +kernel, reads_two _, reads_three _, by decide +kernel, by decide +kernel, by decide, by decide, rfl⟩

/-- A request of 16 logits from token 0 that groom 0 runs on context 0, its pointers as given. -/
def runOf (cnt bias gram : Nat) (entry : Option BoardEnt) : GroomRun :=
  ⟨{ placedCmd with regs := [(0x201, 15 * 2 ^ 24)] }, 0, cnt, bias, gram, 0, [0x60000000], .chunk, 0, 0, entry, none⟩

/-- Groom 0 runs a request, with the page tables of `tables`. -/
def groomSt (r : GroomRun) : State :=
  { tables with grooms := [(0, { Groom.reset with run := some r, k := [(1, 0x3F800000), (2, 0x7F800000), (3, 0x7FC00000)] })] }

/-- No request, and one in each section; tables that are absent, that can be read and that cannot (past the page);
temperatures and caps of 0, 1, infinity and NaN; moves of all four kinds; the last chunk and one before it. -/
theorem test_witness_LogitWords :
    let r := runOf 0 0 0 none
    let s := groomSt r
    let far := 2 ^ 30
    let b : BoardEnt := { BoardEnt.empty with nposM1 := 1, pairs := [(0, 7), (0, 8)], drafts := [7, 9] }
    let rd (s : State) (r : GroomRun) := lanesM (fun i u => if r.past i then (.ok 0xFF800000, u) else u.logitRead r (r.base + i))
      (List.range 16) s
    ((stX []).groom 0).run = none ∧ (s.groom s.groomNow).run = some r ∧ okAnd (fun l => l.length == 16) (rd s r).1 = true ∧
      (rd s r).2.grooms = s.grooms ∧ errAnd (fun _ => true) (rd (stX []) r).1 = true ∧
      okAnd (fun _ => true) (s.groomRead (runOf 0 64 0 none) 64 2048).1 = true ∧
      errAnd (fun _ => true) (s.groomRead (runOf 0 far 0 none) far 2048).1 = true ∧ r.entry = none ∧
      r.cmd.smpCount ≤ 16 * (r.chunk + 1) ∧ 16 * (0 + 1) < ({ placedCmd with regs := [(0x201, 16 * 2 ^ 24)] } : Cmd).smpCount ∧
      r.past 15 = false ∧ r.past 16 = true ∧
      (let T (k : Nat) := (s.groom 0).kReg k
       T 0 / 2 ^ 23 % 2 ^ 8 = 0 ∧ T 1 / 2 ^ 23 % 2 ^ 8 = 127 ∧ (T 1).testBit 31 = false ∧ T 2 = 0x7F800000 ∧
        fmtF32.decode (T 3) = .nan) ∧
      (runOf 0 0 0 (some b)).entry = some b ∧ b.accepted = 0 ∧ (b.pairs.getD 0 (0, 0)).2 ≠ 0xFFFFFFFF ∧
      okAnd (fun _ => true) (s.countBump (runOf 0 0 0 (some b)) 7).1 = true := by
  decide +kernel

/-- Context 0 has one command, its status entry as given, after another of the same task. -/
def cmdSt (k : Cmd) (status : Nat) : State :=
  { withCtx (stX []) (fun c => { c with status := [(1, BitVec.ofNat 64 (2 ^ 48 + status))] }) with
    cmds := [{ placedCmd with cid := 9, kind := .kv 6, st := .held }, k] }

/-- A command in each place, of each unit. -/
def aCmd (kind : CmdKind) (st : CmdSt) : Cmd := { placedCmd with kind := kind, st := st, job := 1 }

/-- A fill inside the scratchpad of 4 elements of 4 bytes, from 0 to 2^20 - 16. -/
def padFill : Cmd := { aCmd (.xfer 0) .running with regs := [(0x008, 2 ^ 63), (0x009, BitVec.ofNat 64 (2 ^ 62 + 2 ^ 20 - 16)),
  (0x00A, 2), (0x010, 4), (0x011, 4), (0x012, 4)] }

/-- Commands that wait: refused, and with predecessors that are done, wait, have failed and are cancelled. Commands that
run: a fill and its transfer, and transfers that fail and that a budget holds. Writers of a window. -/
theorem test_witness_EngineEvents :
    let w : Cmd := aCmd (.kv 4) .waiting
    let p (st : Nat) := predsOf ((cmdSt { w with preds := [1] } (st * 2 ^ 32 + 0x21 * 2 ^ 40)).ctxOfTask 1 0) [1]
    let s (k : Cmd) := cmdSt k 0
    let x := padFill.xfer
    let starts (k : Cmd) (s : State) : Bool := admits s 0 0 k.paid (fun s => ((), (s.tryStart k).getD s))
    let bad : Cmd := { w with fail := some ⟨0x38, 0, 0, 0⟩, deferred := true }
    let queue (s : State) : State := s.updPen 0 (fun p => { p with fqCtl := 4 })
    let dev : Cmd := { padFill with regs := [(0x009, BitVec.ofNat 64 (2 ^ 62)), (0x00A, 2), (0x010, 4), (0x011, 4), (0x012, 4)] }
    let table (k : Cmd) : State := { tables with cmds := [k] }
    let run (s : State) : Pause := ((s.forCmd dev).runXfer dev).1
    let win : Win := ⟨2 ^ 16, 1, false, true, 0, 0⟩
    let wr : Cmd := { dev with cid := 3, regs := [(0x009, 2 ^ 16), (0x00A, 2), (0x010, 4), (0x011, 4), (0x012, 4)] }
    (s w).cmd 0 (BitVec.ofNat 16 0) = some w ∧ w.refused = false ∧ ({ w with fail := some ⟨0x38, 0, 0, 0⟩ } : Cmd).refused = true ∧
      p 4 = .go ∧ p 3 = .wait ∧ p 5 = .failed 0x21 ∧ p 6 = .cancelled ∧ (s w).ordOk w = true ∧
      (s { w with ord := 2 }).ordOk { w with ord := 2 } = false ∧ ((s w).cmdsBefore w).all (fun c => !(s w).startable c) = true ∧
      starts w (s w) = true ∧ starts bad (s bad) = true ∧ starts bad (full 3 (queue (s bad))) = false ∧
      (s w).storesLeft w.task = false ∧ (withCtx (s w) (fun c => { c with acks := 1 })).storesLeft w.task = true ∧
      (padFill.st = .running ∧ padFill.pos ≠ 1) ∧
      (x.pad = true ∧ x.kind = 1 ∧ x.bfx = false ∧ x.bpn = false ∧ x.count = 4) ∧ (s padFill).lives padFill = true ∧
      (∀ a ∈ x.elems, 0 ≤ x.src + a.1 ∧ x.src + a.1 + x.esz ≤ 2 ^ 20 ∧ 0 ≤ x.dst + a.2 ∧ x.dst + a.2 + x.esz ≤ 2 ^ 20) ∧
      (∀ a ∈ x.elems, ∀ b ∈ x.elems, rangesMeet (x.src + a.1) x.esz (x.dst + b.2) x.esz = false) ∧
      x.elems.Pairwise (fun a b => rangesMeet (x.dst + a.2) x.esz (x.dst + b.2) x.esz = false) ∧
      (((s padFill).forCmd padFill).runXfer padFill).1 = .done ∧ (s padFill).sending padFill = false ∧ padFill.done = 0 ∧
      ((match run (s dev) with
        | .failed f => decide (f.code < 256)
        | _ => false) && (match run (full 3 (table dev)) with
        | .held _ => true
        | _ => false)) = true ∧
      (s wr).writesWindow wr win = true ∧ (s w).writesWindow w win = false := by
  decide +kernel

/-- Commands that run: HCT words to come and none, a push not sent, a key-value step, a transform, and a stream that begins,
stands at its end, and finds its slot busy and free; steps that budgets admit and that they hold. -/
theorem test_witness_EngineEvents_steps :
    let s (k : Cmd) := cmdSt k 0
    let hct : Cmd := { aCmd .hctld .running with r2 := BitVec.ofNat 64 (2 ^ 16) }
    let trig : Cmd := { aCmd (.trig 0x45) .running with ports := [(0, 2 ^ 63)] }
    let devTrig : Cmd := { trig with ports := [(2, 8)] }
    let kvq : Cmd := aCmd (.kv 6) .running
    let far : Cmd := { hct with r1 := BitVec.ofNat 64 (2 ^ 30) }
    -- `State.Pays`, as a test
    let pays (s : State) (k : Cmd) (kind sel : Nat) (f : State → State) : Bool :=
      admits s kind sel k.paid (fun s => ((), f (s.unpaid k)))
    let table (k : Cmd) : State := { tables with cmds := [k] }
    let kv : Cmd := { aCmd (.kv 8) .running with stream := { Stream.none with started := true } }
    let noted : Cmd := { kv with stream := { kv.stream with ext := [(0, 1, 0)] } }
    let att (t : TileEnt) : State := withCtx (tiled (s { kv with stream := { kv.stream with ix := 2 }, regs := [(0x108, 0)] })
      [(0, { t with layout := 5 })]) (fun c => { c with rings := [(0, ⟨0, 1, 0, 0⟩)] })
    pays (s hct) hct 0 0 (fun s => s.hctArrival hct) = true ∧ pays (full 3 (table hct)) hct 0 0 (fun s => s.hctArrival hct) = false ∧
      errAnd (fun _ => true) (((s far).tallied.unpaid far).hctRead far 0).1 = true ∧
      hct.pos < hct.r2.toNat / 2 ^ 16 % 2 ^ 10 ∧ okAnd (fun h => (decodeHcw h).isSome) (((s hct).tallied.unpaid hct).hctRead hct 0).1 = true ∧
      (aCmd .qpush .running).pos ≠ 1 ∧ (s kvq).kvBehind kvq = false ∧ (s kvq).kvWaits kvq 6 = false ∧
      (s kvq).kvLater kvq = false ∧ pays (s kvq) kvq 2 0 (fun s => s.applyKv kvq 6) = true ∧
      errAnd (fun e => e.1.num == 0x21) ((((s kvq).tallied.unpaid kvq).forCmd kvq).runKv kvq 6).1 = true ∧
      (s trig).trigEarlier trig = false ∧
      admits (s trig) 0 0 0 (fun s => s.asCmd trig (fun s => s.trigRun trig 0x45)) = true ∧
      okAnd (fun _ => true) (((s trig).tallied.forCmd trig).trigRun trig 0x45).1 = true ∧
      errAnd (fun _ => true) (((s devTrig).tallied.forCmd devTrig).trigRun devTrig 0x45).1 = true ∧
      admits (full 3 (table devTrig)) 0 0 0 (fun s => s.asCmd devTrig (fun s => s.trigRun devTrig 0x45)) = false ∧ trig.pos ≠ 1 ∧
      (s kv).lives kv = true ∧ kv.pairs 1 = 0 ∧ ({ kv with r2 := BitVec.ofNat 64 (2 ^ 32) } : Cmd).pairs 1 = 1 ∧
      (att (slotOf 1 0 0 .empty)).slotAtPc 0 0 = some 0 ∧ ((att (slotOf 1 0 0 .empty)).tile 0 0).state = .empty ∧
      ((att (slotOf 1 0 0 .ready)).tile 0 0).state ≠ .empty ∧
      (att (slotOf 1 0 0 .empty)).passes kv ((att (slotOf 1 0 0 .empty)).tile 0 0) = false ∧
      ¬ringLen ((att (slotOf 1 0 0 .empty)).tile 0) (((att (slotOf 1 0 0 .empty)).ctx 0).ring 0) <
        (((att (slotOf 1 0 0 .empty)).ctx 0).ring 0).fill + 1 ∧
      admits (att (slotOf 1 0 0 .empty)) 2 0 kv.paid (fun s => s.asCmd kv (fun s => s.nextSlot kv)) = true ∧
      (att (slotOf 1 0 0 .empty)).budgetBlocked 2 0 = false ∧ (full 2 (att (slotOf 1 0 0 .empty))).budgetBlocked 2 0 = true ∧
      kv.stream.cur = none ∧ pays (s kv) kv 2 0 (fun s => s.readPair kv) = true ∧
      pays (full 2 (s noted)) noted 2 0 (fun s => s.readPair noted) = false ∧
      ({ kv with stream := { kv.stream with skips := [1, 0, 0] } } : Cmd).stream.skipped = true ∧ kv.stream.skipped = false ∧ badSlot ((att (slotOf 1 0 0 .empty)).tile 0 0) 2 16 = none := by
  decide +kernel

/-- Contexts that are denied, whose pen has stores under way and none, parked in each wait with its end reached and not, and
about to restart, with a stream to issue again, a fill, neither, and no room in the queue. -/
theorem test_witness_ContextEvents :
    let s (c : Ctx) : State := { ((stX []).setCtx 0 c).updCluster 0 (fun k => { k with cycle := 10, mons := [⟨0, 64, 0⟩] }) with
      mem := [(64, 1)] }
    let park (p : Park) (lim : BitVec 32) : Ctx := { ctxOf [] with st := .parked p, waitlim := lim }
    let w := (s (ctxOf [])).physRead 64 8
    let kv : Cmd := aCmd (.kv 8) .running
    let again : Ctx := { ctxOf [] with st := .parked .rearm, halted := [kv] }
    let crowd : State := { s again with cmds := (List.range 64).map (fun i => { aCmd (.kv 8) .waiting with
      cid := BitVec.ofNat 16 (i + 1) }) }
    let filled := tiled (s { ctxOf [] with st := .parked .rearm, todo := [0] }) [(0, { slotOf 1 0 0 .ready with
      fill := some padFill })]
    16 ≤ (s { ctxOf [] with denial := 16 }).cur.denial ∧ (s { ctxOf [] with denial := 15 }).cur.denial < 16 ∧
      (s (park (.waita 1 0 64 5 (some 2)) 0)).cur.st = .parked (.waita 1 0 64 5 (some 2)) ∧
      5 + (park (.waita 1 0 64 5 none) 5).waitlim.toNat ≤ (s (ctxOf [])).now 0 ∧
      (s (ctxOf [])).now 0 < 5 + (park (.waita 1 0 64 5 none) 6).waitlim.toNat ∧
      ((s (ctxOf [])).cluster 0).mons = [⟨0, 64, 0⟩] ∧ (127 : Nat) / 64 = 64 / 64 ∧
      (s (park (.twait 64 1) 0)).cur.st = .parked (.twait 64 1) ∧ w.testBit 32 = false ∧
      (w % 2 ^ 32 + 2 ^ 32 - 1) % 2 ^ 32 < 2 ^ 31 ∧ ¬(w % 2 ^ 32 + 2 ^ 32 - 2) % 2 ^ 32 < 2 ^ 31 ∧
      (s (park .rearm 0)).cur.st = .parked .rearm ∧ (park .rearm 0).halted = [] ∧ (park .rearm 0).todo = [] ∧
      (park .rearm 0).rearm.all ((s (park .rearm 0)).rearmed 0) = true ∧
      ¬(1 ≤ (park .rearm 0).statusOf (park .rearm 0).nextcid ∧ (park .rearm 0).statusOf (park .rearm 0).nextcid ≤ 3) ∧
      ((s (park .rearm 0)).arrive ((s (park .rearm 0)).anew 0 kv)).1 = true ∧
      (crowd.arrive (crowd.anew 0 kv)).1 = false ∧ again.halted = [kv] ∧ filled.cur.halted = [] ∧ filled.cur.todo = [0] ∧
      (filled.tile 0 0).fill = some padFill ∧
      (s (ctxOf [])).penQuiet 0 = true ∧ (s { ctxOf [] with acks := 1 }).penQuiet 0 = false ∧
      (ctxOf []).st ≠ .parked .rearm := by
  decide +kernel

/-- Accesses with and without an answer; the oldest of the stores that wait of a task that has left, and of the one on the
context, and none; messages of a command that the first link has acknowledged, that it has not, the last of them, and of a
command that is gone; requests of each kind without a route, and none. -/
theorem test_witness_RemoteAnswers :
    let r : Remote := ⟨2 ^ 51 + 2 ^ 40, 8, none, 0, 0, 0, none, none⟩
    let s := withCtx (stX []) (fun c => { c with remote := [{ r with ans := some 1 }, r], acks := 1 })
    let l (n : Nat) : Late := ⟨n, 5, 0, 0, 0, 1, 0, 1, []⟩
    let left : State := { s with lates := [l 1, l 0, l 1] }
    let x : Sent := ⟨0, 1, 0, 1, 1, 1, true, 0, 0, 0, 0⟩
    let one : Sent := { x with bulk := false }
    let sent : Cmd := { aCmd (.xfer 0) .running with pos := 1, fail := some ⟨0, 1, 0, 0⟩ }
    let u : State := { s with sents := [{ x with linked := 0 }, x], cmds := [sent] }
    let down (m : Outbound) : State := { u with
      outbox := [.response 1 0 0, m], links := (List.range 16).map (fun n => (n, { Link.reset with up := false })) }
    let lost (s : State) (m : Outbound) : Bool := s.ownRequest 0 m && (s.route m).isNone
    let two : Remote := { r with op := some 9 }
    (2 ^ 128 - 1 < 2 ^ 128 ∧ (s.ctx 0).remote = [{ r with ans := some 1 }] ++ r :: [] ∧ r.ans = none ∧ r.fail = none ∧
      ∀ x ∈ [{ r with ans := some 1 }], x.ans ≠ none ∨ x.fail ≠ none) ∧
      (left.lates = [l 1] ++ l 0 :: [l 1] ∧ (l 0).ctx = 0 ∧ (l 0).acks ≠ 0 ∧ ∀ k ∈ [l 1], ¬(k.ctx = 0 ∧ k.acks ≠ 0)) ∧
      (s.lates = [] ∧ (s.ctx 0).acks ≠ 0 ∧ (stX []).lates = [] ∧ ((stX []).ctx 0).acks = 0 ∧ (stX []).sents = [] ∧
        ((stX []).pen 0).fqOpen = false ∧ ((s.updPen 0 (fun p => { p with fqCtl := 4 })).pen 0).fqOpen = true) ∧
      (u.sents.find? (fun x => x.ctx == 0 && x.linked != 0) = some x ∧ u.sentCmd x = some sent ∧ sent.concluded = true ∧
        ({ u with sents := [] } : State).sending sent = false ∧ u.sending sent = true ∧ s.sentCmd x = none ∧
        u.sents.find? (fun x => x.ctx == 0) = some { x with linked := 0 } ∧ (u.groom 0).run = none) ∧
      (∀ m ∈ [Outbound.store 0 1 0 [], .load 0 1 r.pa 8, .atomic 0 1 r.pa 9 8 0 0, .send true 1 0 1 0 []],
        (down m).outbox.find? (lost (down m)) = some m) ∧ lost s (.load 0 1 r.pa 8) = false ∧
      (u.sents.find? (fun y => y.task == 1 && y.cid == 0) = some { x with linked := 0 } ∧ x.bulk = true ∧ one.bulk = false) ∧
      (two.pa = r.pa ∧ two.n = 8 ∧ two.op = some 9 ∧ two.a = 0 ∧ two.c = 0) := by
  decide +kernel

/-- A booted part with one launch of one task of job 1, its init image as given; nothing is placed. -/
def launched (image : List Nat) : State :=
  let h : Header :=
    { tiles0 := 128, gang := 7, prio := 7, entry := 256, hctimg := 0, hctbase := 0, hctcount := 0, metaPc := 0,
      expected := 1, signal := 0, args := 2 ^ 63, levels := [⟨1, 1, 0⟩], init := 0 }
  { State.reset with
    booted := true, jobs := [(1, { aJob with prio := 7 })],
    launches := [(1, ⟨1, h, [], image, 0, 1, []⟩)] }

/-- As `s`, task 1 stands at `st`. -/
def taskAt (s : State) (st : TaskSt) : State := { s with tasks := [(1, { placedTask with job := 1, st := st })] }

/-- A part with no task to place, one whose head has a context and one whose head has none (its
image names slot 255); a task that can leave and cannot, with a frame and without; a task stopped in a frame and on its context; jobs
that have ended and have not, with no signal, one whose translation holds and one that meets a malformed table, admitted by budgets and not; held fault records with room and without. -/
theorem test_witness_TasksAndJobs :
    let s := launched []
    let w : Waiter := ⟨1, 0, none⟩
    let run := stX []
    let framed := run.updPen 0 (fun p => { p with svCtl := BitVec.ofNat 64 (2 ^ 16 + 0xFFFF) })
    let kept : Cmd := { aCmd (.xfer 0) .running with deferred := false }
    let stop := taskAt run .stopped
    let parked := taskAt (withCtx run (fun c => { c with st := .stopped })) (.on 0)
    let q := (taskAt run .stopped).pen 0
    let rec1 : List Word := [1]
    let signals (s : State) (j : Job) : Bool := admits s 0 0 0 (fun s =>
      ((), { s with jobs := sset s.jobs 1 { j with signalled := true } }.signal j.pen j.signal 1))
    let far : Job := { aJob with signal := 8 }
    let u (s : State) : State := (s.abortRegion 0).updCtx 0 (fun x => { x with leave := some ⟨false, true, none⟩ })
    (State.reset.booted = false ∧ (launched []).safe = false ∧ { State.reset with booted := true }.headOfOrder = none) ∧
      s.headOfOrder = some [w] ∧ s.seats 0 [w] = some [0] ∧ (s.launchOf w).isSome = true ∧
      (launched [2 ^ 16, 255]).headOfOrder = some [w] ∧ (launched [2 ^ 16, 255]).seats 511 [w] = none ∧
      sfind run.tasks 1 = some { placedTask with job := 1 } ∧ (run.ctx 0).task = 1 ∧ placedTask.gang = 0 ∧
      (run.ctx 0).canLeave = true ∧ (parked.ctx 0).canLeave = false ∧
      (u run).frameFor 0 false ((u run).homeGang 0) = none ∧ (run.ctx 0).leave = none ∧ (run.ctx 0).region = none ∧
      ((u run).ctx 0).leave ≠ none ∧ (run.core 0).writes = [] ∧ (run.ctx 0).gath = [] ∧ (framed.pen 0).framePa 0 < 2 ^ 50 ∧
      (u framed).frameFor 0 false ((u framed).homeGang 0) = some 0 ∧
      (u framed).immediates 0 = false ∧ ¬run.now 0 < (run.ctx 0).sfuDue ∧
      run.now 0 < ((withCtx run (fun c => { c with sfuDue := 8 })).ctx 0).sfuDue ∧ (u { framed with cmds := [kept] }).immediates 0 = true ∧
      sfind stop.tasks 1 = some { placedTask with job := 1, st := .stopped } ∧ (sfind stop.jobs 1).map Job.pen = some 0 ∧
      (parked.ctx 0).st = .stopped ∧ (sfind run.jobs 1).map Job.pen ≠ some 63 ∧
      aJob.st = .running ∧ run.jobQuiet 1 = true ∧ { run with lates := [⟨0, 1, 0, 0, 0, 1, 0, 1, []⟩] }.jobQuiet 1 = false ∧
      (aJob.signal = 0 ∧ errAnd (fun e => e.1 == .tableStructure) (({ tables with tframes := [] } : State).engWrite 0 15 (.die 4) 2 8 8 1).1 = true ∧
        okAnd (fun r => !(tables.xlate (engAccess 0 15 (.die 4) true) 8).2.elsewhere r.pa) (tables.xlate (engAccess 0 15 (.die 4) true) 8).1 = true ∧
        okAnd (fun _ => true) (tables.engWrite 0 15 (.die 4) 2 8 8 1).1 = true) ∧
      signals run aJob = true ∧ signals tables far = true ∧ signals (full 3 tables) far = false ∧
      ({ aJob with st := .failed, ended := 1, tasks := 1 } : Job).ended = 1 ∧
      ({ q with fqCtl := 4, held := [rec1] } : Pen).fqOpen = true ∧ ({ q with fqCtl := 17, held := [rec1] } : Pen).fqOpen = false ∧ run.mayAsk 0 q.fqAt = true ∧
      (full 3 run).mayAsk 0 q.fqAt = false := by
  decide +kernel

theorem test_witness_TasksAndJobs_budgets : (stX []).FreeFor 0 := freeFor _ rfl rfl rfl 0


/-- `tables`, with some 64-bit words at addresses of the page. -/
def wordsAt (l : List (Nat × Nat)) : State :=
  l.foldl (fun (s : State) (w : Nat × Nat) => { s with mem := cellsWrite s.mem 52 w.1 8 w.2 }) tables

/-- User queue 2^32 - 1 of pen 0, its descriptor at address 0, mapped to slot 127 or not; its ring at 128. -/
def queued (mapped : Bool) (l : List (Nat × Nat)) : State :=
  { wordsAt l with
    userQs := [⟨2 ^ 32 - 1, 0, 0, if mapped then some 127 else none⟩],
    uqSlots := if mapped then [(127, ⟨2 ^ 32 - 1, 128, 0, 0, 1⟩)] else [] }

/-- Queues with a slot and without, with work, pending work and none, and no quota; entries absent, unreadable, of each
kind, well-formed and not, a launch accepted, attached to job 1 and rejected; nodes of each kind and past the last, with a job that runs, has ended and has failed. -/
theorem test_witness_LaunchesAndGraphs :
    let quota (s : State) : State := s.updPen 0 (fun p => { p with uqQuota := 1 })
    let n : Nat := 2 ^ 32 - 1
    let q (l : List (Nat × Nat)) : State := quota (queued false l)
    let word (s : State) (i : Nat) : Nat := match (s.tallied.seqRead 0 0 64).1 with
      | .ok v => v / 2 ^ (64 * i) % 2 ^ 64
      | .error _ => 2 ^ 64
    let e (l : List (Nat × Nat)) : State := queued true l
    let entry (s : State) : Option (List Nat) := (s.tallied.nextEntry 127).1.bind (fun x => x.2.2)
    let head : State := { wordsAt [(256, 1 + 7 * 2 ^ 19 + 2 ^ 22 + 128 * 2 ^ 25), (256 + 40, 1)] with nextJob := 2 }
    let g : Graph := ⟨0, 1024, 1, 0, 0, none⟩
    (sfind (q []).uqSlots 127 = none ∧ (q []).updating 1 = false ∧ ((q []).userQ n).isSome = true ∧
      ((q []).userQs.filter (fun x => x.pen == 0 && x.slot.isSome)).length < ((q []).pen 0).uqQuota ∧
      ((queued false []).pen 0).uqQuota = 0) ∧
      (word (q []) 4 = 0 ∧ word (q []) 2 = word (q []) 3 ∧ word (q [(24, 1)]) 2 ≠ word (q [(24, 1)]) 3 ∧
        word (q [(32, 1)]) 4 = 1) ∧
      (({ queued true [] with uqSlots := [(127, ⟨n, 128, 0, 1, 1⟩)] } : State).uqSlots = [(127, ⟨n, 128, 0, 1, 1⟩)] ∧
        (e []).uqSlots = [(127, ⟨n, 128, 0, 0, 1⟩)] ∧ ((e []).userQ (n - 1)).isNone = true) ∧
      okAnd (fun _ => true) ((queued false []).seqWrite 0 0x20 8 (n * 2 ^ 32 + 1)).1 = true ∧
      ((stX []).tallied.nextEntry 127).1.isNone = true ∧ ((e []).tallied.nextEntry 127).1.isSome = true ∧
      (((queued true []).updPen 0 (fun p => { p with root := 0 })).tallied.nextEntry 127).1.map (fun x => x.2.2) = some none ∧
      (entry (e [])).map (fun w => (w.getD 0 0 % 16, entryOk w)) = some (0, true) ∧
      (entry (e [(128, 1)])).map (fun w => (w.getD 0 0 % 16, entryOk w)) = some (1, true) ∧
      (entry (e [(128, 2 ^ 63 + 2)])).map (fun w => (w.getD 0 0 % 16, entryOk w)) = some (2, false) ∧
      (entry (e [(128, 2), (136, 1024)])).map (fun w => (w.getD 1 0, entryOk w)) = some (1024, true) ∧
      ((e [(1032, 1)]).tallied.readGraph 0 1024).1.isSome = true ∧ ((e []).tallied.readGraph 0 1024).1 = none ∧
      ((e []).tallied.submitEntry 0 ((List.replicate 16 0).set 1 1)).1 = none ∧ (head.tallied.submitEntry 0 ((List.replicate 16 0).set 1 256)).1 = some 2 ∧
      (head.tallied.submitEntry 0 (((List.replicate 16 0).set 1 256).set 0 1)).1 = some 1 ∧
      (sfind (stX []).graphs 63 = none ∧ (stX []).graphWait = []) ∧
      (g.job = none ∧ ¬g.n ≤ g.node ∧ { g with node := 1 }.n ≤ 1) ∧
      okAnd (fun v => decide (v % 16 = 4)) ((wordsAt [(1024, 4)]).tallied.seqRead 0 1024 32).1 = true ∧
      okAnd (fun v => decide (v % 16 = 3 ∧ v / 2 ^ 64 % 8 = 0)) ((wordsAt [(1024, 3), (1032, 2048)]).tallied.seqRead 0 1024 32).1 = true ∧
      okAnd (fun v => decide (v % 16 = 1 ∧ v / 2 ^ 64 % 8 ≠ 0)) ((wordsAt [(1024, 1), (1032, 2049)]).tallied.seqRead 0 1024 32).1 = true ∧
      okAnd (fun _ => true) ((wordsAt []).seqWrite 0 2048 8 1).1 = true ∧
      okAnd (fun x => decide (x = 0)) ((wordsAt []).tallied.seqRead 0 2048 8).1 = true ∧
      okAnd (fun x => decide (x % 16 ≤ 1)) ((wordsAt []).tallied.seqRead 0 2048 128).1 = true ∧
      errAnd (fun _ => true) ((wordsAt [(1032, 2 ^ 33)]).tallied.seqRead 0 (2 ^ 33) 128).1 = true ∧
      errAnd (fun _ => true) ((stX []).tallied.seqRead 63 0 32).1 = true := by
  decide +kernel

/-- No budget holds the HBM requests of any pen, and nothing is being admitted. -/
theorem test_witness_LaunchesAndGraphs_budgets : (queued true []).tally = none ∧ ∀ pen, (queued true []).FreeFor pen :=
  ⟨rfl, freeFor _ rfl rfl rfl⟩


/-- A sequence of pool 0: 2 pages of 16 tokens, of which 5 are written and 3 committed. -/
def aDesc : Desc :=
  { gen := 255, live := true, pool := 0, cls := 0, written := 5, committed := 3, pages := 2, resv := 0,
    ext := [(0, 2, 1)], lprog := 0, cnt := 0, bias := 0, gram := 0, board := 0xFFFF }

/-- An IN USE stall entry of pool 0, in a tier and state. -/
def aStall (tier st : Nat) : Stall :=
  { block := if tier = 2 then 2 ^ 51 + 2 ^ 40 else 2 ^ 30, count := 1, heat := 65535, stamp := 0, state := st, tier := tier,
    fmt := 0, cls := 0, fill := 16, scales := 0, incarn := 0, lender := 0 }

/-- Pool 0 of pen 0, of 16 stalls, its table at 2^16: 16 tokens a page, 3 blocks free on stack 0 at 2^17. -/
def aPool : Pool := { Pool.reset with
  cfg := BitVec.ofNat 64 (2 ^ 63 + 4 * 2 ^ 49), pstride := 4096, stab := BitVec.ofNat 64 (2 ^ 16 + 4),
  fsBase := [(0, 2 ^ 17)], fsCnt := [(0, BitVec.ofNat 64 (8 * 2 ^ 32 + 3))], runs := [(1, 2), (2, 4), (3, 8)] }

/-- The pool, descriptor 1 of the pen, and its two stalls in a tier and state; a command on handle 1. -/
def yard (d : Desc) (p : Pool) (tier st : Nat) : State :=
  let s := (stX []).updPen 0 (fun q => { q with kvsLsize := 2 })
  let m := cellsWrite (cellsWrite s.mem 52 192 192 d.pack) 52 (2 ^ 16) 32 (aStall 0 1).pack
  { s with pools := [(0, p)], mem := cellsWrite m 52 (2 ^ 16 + 32) 32 (aStall tier st).pack }

/-- A command on a handle, with an operand. -/
def onSeq (op h n : Nat) : Cmd :=
  { aCmd (.kv op) .running with r1 := BitVec.ofNat 64 h, r2 := BitVec.ofNat 64 n }

/-- A pool that has reserved more than its free blocks; handles past the table, stale, of a pool out of force, and good; counts at the ends of what is committed and written,
and past them; a page past the last; a fork to a free entry, to one that lives, to itself and past the table, and from the null
handle; reservations within the free
blocks and past them; appends to near pages, to one that is far and to one recalled. -/
theorem test_witness_KvSteps :
    let h : Nat := 255 * 2 ^ 24 + 4
    let s := yard aDesc aPool 0 1
    let off := yard aDesc { aPool with cfg := 0 } 0 1
    let p := s.pool 0
    let live (s : State) : State := { s with mem := cellsWrite s.mem 52 384 192 { aDesc with gen := 7 }.pack }
    let g : Nat := 0 * 2 ^ 24 + 8
    -- the null handle: pool 0 of the command's registers, a destination that is free, one that lives, and one past the table
    (s.pool ((onSeq 2 0 g).reg 0x100 % 8)).enable = true ∧ (s.pool 1).enable = false ∧ (g / 4 % 2 ^ 22 = 2 ∧ g / 2 ^ 24 % 2 ^ 8 = 0) ∧
      okAnd (fun r => r.1 == 0) (s.runKv (onSeq 2 0 g) 2).1 = true ∧
      okAnd (fun r => r.1 == 0) (s.runKv (onSeq 2 0 4) 2).1 = true ∧ (255 + 1) % 256 = 4 / 2 ^ 24 % 2 ^ 8 ∧
      errAnd (fun e => e.1 == .kvStale) (s.runKv (onSeq 2 0 h) 2).1 = true ∧
      errAnd (fun e => e.1 == .permission) (s.runKv (onSeq 2 0 16) 2).1 = true ∧
      -- a handle on descriptor 2, forked to descriptor 1, which lives
      okAnd (fun r => r.1 == 1) ((live s).runKv (onSeq 2 (7 * 2 ^ 24 + 8) 4) 2).1 = true ∧
    (s.pen 0).seqSize = some 4 ∧ s.desc 0 1 = aDesc ∧ (p.enable = true ∧ p.pen = 0 ∧ p.toks = 16 ∧ p.planes = 1) ∧
      (h / 4 % 2 ^ 22 = 1 ∧ h / 2 ^ 24 % 2 ^ 8 = 255 ∧ (off.pool 0).enable = false ∧ (State.reset.pen 0).seqSize = none) ∧
      (s.desc 0 2).live = false ∧ (s.desc 0 2).gen = 0 ∧ (s.desc 0 2).gen ≠ 1 ∧ (0 + 1) % 256 ≠ aDesc.gen ∧
      (2 < aDesc.committed ∧ aDesc.written < 6 ∧ aDesc.committed ≤ 3 ∧ 5 ≤ aDesc.written) ∧
      aDesc.pages ≤ 2 ∧ ¬aDesc.pages ≤ 1 ∧ ({ onSeq 6 h 4 with regs := [(0x109, 2)] } : Cmd).reg 0x109 = 2 ∧
      (∀ g ∈ stallsOf aDesc.ext ((aDesc.committed + p.toks - 1) / p.toks), (s.stallAt 0 g).count ≠ 65535) ∧
      okAnd (fun r => r.1 == 1) (s.runKv (onSeq 2 h (2 * 4)) 2).1 = true ∧
      (aDesc.pages + 1 ≤ 1048560 ∧ ¬p.stackFree 0 < p.resv + 1 + 2 ∧
        p.stackFree 0 < p.resv + 1 + 3) ∧ okAnd (fun r => r.1 == 1) (s.runKv (onSeq 0 h (1 + 2 * 2 ^ 16)) 0).1 = true ∧
      ({ aDesc with pages := 1048560 } : Desc).pages + 1 > 1048560 ∧
      (¬(27 = 0 ∨ 5 < aDesc.committed ∨ aDesc.written < 5 ∨ aDesc.pages * p.toks < 5 + 27 ∨
        p.planes < (onSeq 1 h 5).reg 0x104 % 2 ^ 8 + ((onSeq 1 h 5).reg 0x104 / 2 ^ 8 % 2 ^ 8 + 1))) ∧
      aDesc.pages * p.toks < 5 + 28 ∧ (s.stallAt 0 1).state = 1 ∧ ((yard aDesc aPool 0 2).stallAt 0 1).state = 2 ∧
      ((yard aDesc { aPool with resv := 4 } 0 1).pool 0).spare < 0 ∧ (onSeq 6 h 0).aborted = false ∧
      ((yard aDesc aPool 1 1).stallAt 0 1).tier = 1 ∧ (s.stallAt 0 0).tier = 0 ∧ (s.stallAt 0 0).fmt = p.nfmt ∧
      okAnd (fun r => r.1 == 1) (s.runKv { onSeq 1 h (5 + 2 ^ 32) with regs := [(0x101, 2 ^ 63)] } 1).1 = true := by
  decide +kernel


/-- A move of stall 1 to a block, by the drover of die 0. -/
def aMove (why : MoveWhy) (block : Nat) : PageMove := ⟨0, 1, why, block, 0, 0, if block < 2 ^ 51 then 0 else 2, 0, 0⟩

/-- Such a move to block 2^30 has begun. -/
def moving (why : MoveWhy) (tier st : Nat) : State := yard aDesc { aPool with moves := [aMove why (2 ^ 30)] } tier st

/-- Task 1 of job 1 was saved at context 0 for page 1 of a handle. -/
def nearTask (s : State) (h : Nat) : State := taskAt s (.near h 1)

/-- A groom of cluster 0 runs words, the next being `ix`. -/
def grooming (ph : GPhase) (words : List Nat) (ix : Nat) (wit : Nat) : State :=
  { stX [] with grooms := [(0, { Groom.reset with
      run := some ⟨{ placedCmd with r2 := BitVec.ofNat 64 wit }, 0, 0, 0, 0, 0, words, ph, ix, 0, none, none⟩ })] }

/-- Pools in force and out of it, with a decay period and none; stacks with room; RECALLs of which the second is due first, and
none; lent blocks of which one is recalled, and none; a block that meets a marked table frame. -/
theorem test_witness_KvEvents :
    let s := yard aDesc aPool 0 1
    let p := s.pool 0
    ((s.pool 1).enable = false ∧ p.enable = true ∧ p.stabBase + 32 * 2 ^ p.lstalls ≤ 2 ^ 39 ∧ p.stabBase % 32 = 0 ∧
      p.decay.toNat % 2 ^ 32 = 0 ∧ ({ p with decay := BitVec.ofNat 64 (2 ^ 32 - 1) } : Pool).decay.toNat % 2 ^ 32 ≠ 0) ∧
      ((s.stallAt 0 0).state = 1 ∧ (s.stallAt 0 2).state ≠ 1 ∧ (127 + 256 - (s.stallAt 0 0).stamp) % 256 < 128 ∧
        128 ≤ (128 + 256 - (s.stallAt 0 0).stamp) % 256) ∧
      (p.stackFree 0 + 5 ≤ p.stackCnt 0 / 2 ^ 32 ∧ p.stackBase 0 + 8 * (p.stackFree 0 + 5) ≤ 2 ^ 39 ∧
        p.stackFree 7 + 0 ≤ p.stackCnt 7 / 2 ^ 32 ∧ p.stackBase 7 + 8 * p.stackFree 7 ≤ 2 ^ 39 ∧ 2 ^ 52 - 1 < 2 ^ 52) ∧
      (firstRecall [(9, [5]), (2, [6])] = some (2, [6]) ∧ p.moves = [] ∧ p.recalls = [] ∧ p.lent = [] ∧
        (({ p with lent := [⟨1, 5, some 9⟩, ⟨1, 6, none⟩, ⟨1, 7, some 3⟩] } : Pool).lent.map Lent.block).Nodup ∧
        firstDue [⟨1, 5, some 9⟩, ⟨1, 6, none⟩, ⟨1, 7, some 3⟩] = some 3) ∧
      (admits s 2 0 0 (fun s => ((), s.refreshHeat 0 p.sweep)) = true ∧
        admits (full 2 s) 2 0 0 (fun s => ((), s.refreshHeat 0 p.sweep)) = false) ∧
      ({ s with tframes := [2 ^ 14] } : State).inTframe (s.stallAt 0 1).block (p.blockBytes (s.stallAt 0 1).form) = true := by
  decide +kernel

/-- A drover with a move of each cause and with none, free, held by a budget and updated. -/
theorem test_witness_KvEvents_drovers :
    let h : Nat := 255 * 2 ^ 24 + 4
    let s := yard aDesc aPool 0 1
    let far : Nat := 2 ^ 51 + 2 ^ 40
    let busy (n : Nat) : State := { s with fws := [(n, { Fw.reset with state := 2 })] }
    let m := nearTask (moving (.near 1) 2 1) h
    let k : Cmd := { aCmd (.tier 0) .running with cid := 7 }
    let c : State := { moving (.cmd 0 7) 2 1 with cmds := [k] }
    let far1 : State := yard aDesc { aPool with recalls := [(100, [far])] } 2 1
    -- whether the budgets admit all of a move, and whether it then ends
    let paid (s : State) (m : PageMove) : Bool × Bool :=
      let r := s.tallied.moveStep 0 m
      let x := State.pay 1 0 (decide (m.why ≠ .recall)) (r.2.noted.drop m.paid) m.paid s
      (decide (r.2.noted.length ≤ x.1), r.1)
    ((busy 29).updating (26 + 3) = true ∧ s.updating 26 = false ∧ s.moveOf 0 true = none ∧ s.moveOf 0 false = none ∧
        s.recallDue 0 = false ∧ far1.recallDue 0 = true ∧ far1.moveOf 0 true = none ∧ far1.tally = none ∧ (full 1 s).budgetBlocked 1 0 = true ∧ s.budgetBlocked 1 0 = false ∧ s.tierCmd 0 = none ∧
        s.pressStep 0 0 = none ∧ s.pressStep 4 0 = none) ∧
      ((moving .recall 0 1).moveOf 0 true = some (0, aMove .recall (2 ^ 30)) ∧
        (moving .pressure 0 1).moveOf 0 false = some (0, aMove .pressure (2 ^ 30)) ∧ (moving .pressure 0 1).moveOf 0 true = none ∧
        (moving .pressure 0 1).recallDue 0 = false ∧ m.moveOf 0 false = some (0, aMove (.near 1) (2 ^ 30)) ∧
        (paid (moving .recall 0 1) (aMove .recall (2 ^ 30))).1 = true ∧
        paid (moving .pressure 0 1) (aMove .pressure (2 ^ 30)) = (true, true) ∧
        paid m (aMove (.near 1) (2 ^ 30)) = (true, true) ∧
        (paid (full 1 (moving .pressure 0 1)) (aMove .pressure (2 ^ 30))).1 = false ∧
        sfind (m.tallied.moveStep 0 (aMove (.near 1) (2 ^ 30))).2.tasks 1 = some { placedTask with job := 1, st := .near h 1 } ∧
        (c.tallied.moveStep 0 (aMove (.cmd 0 7) (2 ^ 30))).1 = true ∧ (c.tallied.moveStep 0 (aMove (.cmd 0 7) (2 ^ 30))).2.cmd 0 7 = some k) := by
  decide +kernel

/-- A saved task whose page is far, near, RECALLED, past the last and of a stale handle. -/
theorem test_witness_KvEvents_service :
    let h : Nat := 255 * 2 ^ 24 + 4
    let s := yard aDesc aPool 0 1
    (s.droverBusy 0 = false ∧ s.recallDue 0 = false ∧ ({ s with fws := [(26, { Fw.reset with state := 2 })] } : State).updating 26 = true ∧
        s.budgetBlocked 1 0 = false ∧ s.inTframe (2 ^ 30) ((s.pool 0).blockBytes 0) = false ∧ (moving .recall 0 1).droverBusy 0 = true ∧ (nearTask s h).taskPen 1 = 0 ∧
        errAnd (fun _ => true) ((nearTask s h).resolve 0 0).1 = true ∧
        okAnd (fun r => r.1 == 1) ((nearTask s h).resolve 0 h).1 = true ∧ pageStall aDesc.ext 1 = some 1 ∧
        pageStall aDesc.ext 2 = none ∧ ((yard aDesc aPool 0 2).stallAt 0 1).state = 2 ∧
        ((yard aDesc aPool 1 1).stallAt 0 1).tier = 1 ∧ (yard aDesc aPool 1 1).stallBusy 0 1 = false ∧
        (moving .recall 1 1).stallBusy 0 1 = true ∧ ((yard aDesc aPool 1 1).popStack 0 0).isSome = true ∧
        ((yard aDesc aPool 1 1).stallAt 0 1).form = 0 ∧ placedTask.st = .on 0 ∧
        admits (nearTask s h) 1 0 0 (fun s => ((), s.nearStep 1)) = true ∧
        admits (full 3 (nearTask (yard aDesc aPool 1 1) h)) 1 0 0 (fun s => ((), s.nearStep 1)) = false) := by
  decide +kernel

/-- A groom with nothing to do, a request whose handle is past the table, words to run and none left, and a merge for
another iteration. -/
theorem test_witness_KvEvents_grooms :
    let s := yard aDesc aPool 0 1
    let busy (n : Nat) : State := { s with fws := [(n, { Fw.reset with state := 2 })] }
    let smp : Cmd := { placedCmd with cid := 5 }
    let asked : State := { stX [] with cmds := [smp], grooms := [(0, { Groom.reset with queue := [(1, 5)] })] }
    let ending := grooming .release [] 0 0
    let pays (s : State) (paid : Nat) (f : State → State) : Bool :=
      admits s 0 0 paid (fun s => ((), (s.asCmd smp (fun s => ((), f s))).2))
    let runs (s : State) : Bool := match (s.groom 0).run with
      | some r => admits s 0 0 0 (fun s => ((), (s.asCmd r.cmd (fun s => ((), s.runSample 0 r))).2))
      | none => false
    let run (w : Nat) : State := outState s (runLogit (w / 2 ^ 26 % 2 ^ 6) (logitFields w)
      ({ (grooming .chunk [w] 0 0).tallied with groomNow := 0 } : State))
    ((busy 63).updating (32 + 31) = true ∧ (s.groom 0).run = none ∧ s.nextSample 0 = none ∧
        asked.nextSample 0 = some smp ∧ pays asked 0 (fun s => (s.leaveQueue smp).startSample 0 smp) = true ∧ clusterOf smp.ctx = 0 ∧
        errAnd (fun e => e != .tableStructure) (asked.resolve 0 0).1 = true ∧ (full 5 asked).budgetBlocked 5 0 = true ∧
        asked.budgetBlocked 5 0 = false ∧ errAnd (fun _ => true) (asked.resolve 0 0).1 = true) ∧
      (((grooming .chunk [0] 1 0).groom 0).run.map (fun r => r.words[r.ix]?) = some none ∧
        ((grooming .chunk [0] 0 0).groom 0).run.map (fun r => r.words[r.ix]?) = some (some 0) ∧
        ((run 0x60000000).groom 0).run.map (fun q => q.fail) = some none ∧
        ((run (2 ^ 26)).groom 0).run.map (fun q => q.fail.isSome) = some true) ∧
      ((ending.groom 0).run.map (fun r => (r.phase, ending.sending r.cmd)) = some (.release, false) ∧
        (runs ending && runs (grooming .chunk [0x60000000] 0 0) && runs (grooming .chunk [] 0 0) && runs (grooming .merge [] 0 0)) =
          true ∧
        (grooming .merge [] 0 0).boardTaken 0 0 = false) ∧
      (2 ^ 32 - 1) % 2 ^ 32 ≠ ((grooming .merge [] 0 (2 ^ 32 - 1)).board 0).witer := by
  decide +kernel


/-- A flit of 256 bytes with a header, its crc right. -/
def aFlit (h : Nat) : List Byte :=
  let l := (bytesOf 8 h ++ List.replicate 240 0)
  l ++ bytesOf 4 (crc32c l) ++ List.replicate 4 0

/-- An inbound window over the first 64 KiB: reads and writes of package 63 and of the host. -/
def aWin : IoWin := ⟨BitVec.ofNat 64 (2 ^ 63 + 2 ^ 62 + 2 ^ 61 + 1), BitVec.ofNat 64 (2 ^ 63)⟩

/-- A bank with a due row that is open, held and not, with a row that waits; flits that are right and wrong in length, crc
and number, on a link that is up. -/
theorem test_witness_IoEvents :
    let b : Bank := { Bank.reset with row := some 5, due := [5], counts := [(5, 2048)] }
    let s : State := { stX [] with banks := [(2 ^ 16 + 3, b)] }
    let h : Nat := 2 ^ 48 * (2 ^ 16 - 1) + 2 ^ 32 * 0xFFF + 2 ^ 24 * 4
    let f := aFlit h
    (5 ∈ (sget Bank.reset s.banks (1 * 2 ^ 16 + 3)).due ∧ b.hold = false ∧ ({ b with hold := true } : Bank).hold = true ∧
        6 ∉ b.due ∧ b.queue = [] ∧ Bank.reset.row = none ∧ ({ Bank.reset with queue := [7] } : Bank).queue = [7] ∧
        (s.rfm 1).thr = 2048) ∧
      (f.length = 256 ∧ ofBytes ((f.drop 248).take 4) = crc32c (f.take 248) ∧ ofBytes (f.take 8) % 2 ^ 16 = (s.link 7).rxSeq ∧
        (f.take 255).length ≠ 256 ∧ ofBytes ((aFlit 1).take 8) % 2 ^ 16 ≠ (s.link 7).rxSeq ∧
        ofBytes (((f.set 247 1).drop 248).take 4) ≠ crc32c ((f.set 247 1).take 248) ∧ (s.link 7).up = true) ∧
      (h / 2 ^ 28 % 2 ^ 4 = 0 ∧ h / 2 ^ 24 % 2 ^ 4 = 4 ∧ 5 ≤ (h + 2 ^ 24) / 2 ^ 24 % 2 ^ 4 ∧ 3 ≤ (h + 3 * 2 ^ 28) / 2 ^ 28 % 2 ^ 4) := by
  decide +kernel

/-- Acknowledged numbers that stand in the replay buffer and do not, its tries at the end; a replay request for all of the
buffer; the last flit of a send, for the neighbour and for a package farther off; links of a direction, both up and one. -/
theorem test_witness_IoEvents_links :
    let b : Bank := { Bank.reset with row := some 5, due := [5], counts := [(5, 2048)] }
    let s : State := { stX [] with banks := [(2 ^ 16 + 3, b)] }
    let h : Nat := 2 ^ 48 * (2 ^ 16 - 1) + 2 ^ 32 * 0xFFF + 2 ^ 24 * 4
    let f := aFlit h
    let l : Link := { Link.reset with replay := [⟨2 ^ 16 - 1, f, none⟩, ⟨0, f, some (.load 0 12 0 8)⟩], tries := 17 }
    let x : Sent := ⟨0, 1, 0, 1, 1, 0, true, 0, 0, 0, 0⟩
    let c : Cmd := { aCmd (.xfer 0) .running with pos := 1, fail := some ⟨0, 1, 0, 0⟩ }
    let u : State := { s with sents := [x], cmds := [c] }
    let tagged (dst : Nat) : Link := { l with replay := [⟨2 ^ 16 - 1, f, some (.send true 1 0 dst 0 [])⟩] }
    (l.replay.map Flit.seq = [] ++ (2 ^ 16 - 1) :: [0] ∧ h / 2 ^ 48 % 2 ^ 16 = 2 ^ 16 - 1 ∧
        (∀ x ∈ l.replay, x.seq ≠ 1) ∧ (∀ x ∈ l.replay, x.msg.bind Outbound.tag = none) ∧ l.up = true ∧ 16 < l.tries ∧ (s.link 7).tries ≤ 16) ∧
      ((h + 2 * 2 ^ 28) / 2 ^ 28 % 2 ^ 4 = 2 ∧ (∀ y ∈ [(⟨0, f, none⟩ : Flit)], y.seq ≠ 2 ^ 16 - 1) ∧
        (2 ^ 16 - 1 + 1) % 2 ^ 16 = 0) ∧
      (∀ dst ∈ [12, 63], (tagged dst).replay.map (fun x => x.msg.bind Outbound.tag) = [some (1, 0, some dst)]) ∧
      (u.sents.find? (fun z => z.task == 1 && z.cid == 0) = some x ∧ 63 ≠ neighbour u.pkg (7 / 2) ∧
        12 = neighbour u.pkg (7 / 2) ∧ x.left = 1 ∧ u.sentCmd x = some c ∧ c.concluded = true ∧ ∀ z ∈ u.sents, z = x) ∧
      ((s.link (7 ^^^ 1)).up = true ∧
        ({ s with links := [(6, { l with up := false })] }.link (7 ^^^ 1)).up = false) := by
  decide +kernel

/-- Requests that a window admits and does not, that a budget holds and not, behind one that waits and none; accesses of
the host to its own memory and to far memory; contexts, commands, grooms and controllers that bad data can stop and cannot; the ends of the
register block. -/
theorem test_witness_IoEvents_requests :
    let s : State := { stX [] with ioWins := [(15, aWin)] }
    let rd : Inbound := ⟨false, 63, 65528, .read 8⟩
    let fw (n st : Nat) : State := { s with fws := [(n, { Fw.reset with state := st })] }
    let pays (s : State) (rq : Inbound) : Bool :=
      let v : State := { s with inq := s.inq ++ [rq] }
      admits v 0 0 0 (fun s => ((), ({ s with inq := s.inq.erase rq }).serve 0 rq))
    let k : Cmd := aCmd (.xfer 0) .running
    let c (q : Cmd) : State := { s with cmds := [q] }
    ((s.ioWin 15).admits rd = true ∧ (∀ j < 15, (s.ioWin j).admits rd = false) ∧
        (∀ k < 16, (s.ioWin k).admits { rd with pa := 65529 } = false) ∧
        (s.ioWin 15).admits { rd with host := true, kind := .write [1] } = true ∧
        (s.ioWin 15).admits { rd with kind := .cas 8 0 1 } = true ∧
        (s.ioWin 15).map.toNat / 2 ^ 55 % 2 ^ 6 = 0 ∧ pays s rd = true ∧ pays (full 3 s) rd = false ∧ s.tally = none ∧
        ({ s with inq := [rd] } : State).admitted rd = some 0 ∧
        s.inq = [] ∧ s.admitted rd = some 0) ∧
      (tierOf (2 ^ 44 - 1) = some 1 ∧ tierOf (2 ^ 49 - 1) = some 3 ∧ rd.host = false ∧ tierOf 65528 = some 0 ∧
        ∀ j ≤ 1, s.home (2 ^ 49 - 1 + j) = 2 ^ 49 - 1 + j) ∧
      ((s.ctx 0).st = .ready ∧ (s.ctx 1).st ≠ .ready ∧ sfind s.tasks (s.ctx 0).task = some { placedTask with job := 1 } ∧
        (c k).cmd 0 (BitVec.ofNat 16 0) = some k ∧ k.fail = none ∧ (c (aCmd (.kv 8) .running)).cmd 0 0 = some (aCmd (.kv 8) .running) ∧
        (c (aCmd (.tier 0) .running)).cmd 0 0 = some (aCmd (.tier 0) .running) ∧
        (c (aCmd (.tier 0) .waiting)).cmd 0 0 = some (aCmd (.tier 0) .waiting) ∧ rd.host = false ∧
        (match ((grooming .chunk [0] 0 0).groom 0).run with
          | some r => r.fail.isNone && ({ r with fail := some (.machineCheck, 0) } : GroomRun).fail.isSome
          | none => false) = true ∧
        fwIndex 30 = false ∧ fwIndex 63 = true ∧ ((fw 63 5).fw 63).state = 5 ∧ (s.fw 63).state ≠ 5) ∧
      (0x2C % 8 ≠ 0 ∧ s.updating 0 = false ∧ (fw 0 2).updating 0 = true ∧ s.penQ = [] ∧ 0x28 < 0x30 ∧ 63 < 64 ∧ (0x8000 + 8 * 63) % 8 = 0 ∧
        (s.mbx 0).busy = false ∧ ({ s with mbxs := [(0, { Mbx.reset with busy := true })] }.mbx 0).busy = true ∧
        0x50 ∈ mbxOps ∧ 0x51 ∉ mbxOps ∧ 2 ^ 16 ≤ 0x10000) := by
  decide +kernel

/-- Mailbox `n` holds a command with some arguments, and it is its turn. -/
def boxed (n op : Nat) (args : List (Nat × Word)) : State :=
  { stX [] with
    userQs := [⟨5, 1, 64, none⟩],
    mbxs := [(n, { Mbx.reset with cmd := BitVec.ofNat 16 op, busy := true, args := args })] }

/-- A controller whose new image is about to start, and one whose image has written as much as the hand-over buffer takes,
and less. -/
theorem test_witness_FirmwareAndMailboxes_handover :
    let going (st n : Nat) : State := { stX [] with fws := [(26, { Fw.reset with
      state := st, heldWrites := List.replicate n (0, 0) })] }
    ((going 2 0).fw 26).state = 2 ∧ ((going 3 65535).fw 26).heldBytes + 16 = 2 ^ 20 ∧
        2 ^ 20 < ((going 3 65536).fw 26).heldBytes + 16 ∧ (going 3 1).sealedRecord ((going 3 1).fw 26) ≠ [] := by
  decide +kernel

/-- A controller in each state, at its boundary, its hand-over area at the ends of what a record takes; a mailbox served,
of the system and of pen 63, and one that is not; for each command arguments at the ends of what it takes, and past
them. Whether an image or a record is accepted is a free value, and so is the number of a package. -/
theorem test_witness_FirmwareAndMailboxes :
    let fw (n st : Nat) (asked : Bool) : State := { stX [] with fws := [(n, { Fw.reset with
      state := st, asked := asked, hoa := BitVec.ofNat 64 (2 ^ 20 + 1) })] }
    let f := (fw 26 1 true).fw 26
    let two : State := { stX [] with fws := [(0, { Fw.reset with state := 1 }), (1, { Fw.reset with state := 1 })] }
    let sys (op : Nat) : State := boxed 0 op [(0, 8), (1, 2 ^ 23), (2, 4096)]
    let pen (op a0 a1 : Nat) : State := (boxed 64 op [(0, BitVec.ofNat 64 a0), (1, BitVec.ofNat 64 a1)]).updPen 63 (fun p =>
      { p with tfFirst := 1, tfCount := 2 })
    ((State.reset.fws.map Prod.fst).Nodup ∧ ((fw 63 1 true).fws.map Prod.fst).Nodup) ∧
      (f.state = 1 ∧ f.asked = true ∧ (fw 26 1 true).atBoundary 26 = true ∧ f.hoaSize = 4096 ∧ 32 + 4064 ≤ f.hoaSize ∧
        f.hoaSize < 32 + 4065 ∧ ((fw 26 3 false).fw 26).state = 3 ∧ ((fw 0 4 false).fw 0).state = 4 ∧
        ((fw 26 1 false).fw 26).asked = false) ∧
      ((stX []).budgetBlocked 6 0 = false ∧ (full 6 (stX [])).budgetBlocked 6 0 = true) ∧
      (mbxOps.all (fun op => ((sys op).mbx 0).busy && ((sys op).mbx 0).cmd.toNat == op && (sys op).served == some 0) = true) ∧
      ((pen 0x21 1 2).served = some 64 ∧ (pen 0x21 1 2).updating 0 = false ∧ (stX []).served = none) ∧
      (¬(8 % 8 ≠ 0 ∨ 2 ^ 22 ≤ 8) ∧ (2 ^ 22 ≤ 2 ^ 22) ∧ (sys 1).ownPool 0 8 = true ∧ (pen 1 8 0).ownPool 64 8 = false) ∧
      (fwIndex 8 = true ∧ fwIndex 64 = false ∧ ((sys 0x10).mbx 0).arg 2 = 4096 ∧ ((sys 0x10).fw 8).state = 0 ∧
        2 ^ 23 + 4096 ≤ 2 ^ 64 ∧ ((fw 8 1 false).fw 8).state ≠ 0) ∧
      ((two.fw 0).state = 1 ∧ ∃ k ∈ two.fws, k.1 ≠ 0 ∧ k.2.state ≠ 0) ∧
      (∀ k ∈ (fw 8 1 false).fws, ¬(k.1 ≠ 8 ∧ k.2.state ≠ 0)) ∧
      (¬2 ^ 23 < 2 ^ 23 + 0 ∧ 2 ^ 23 < 2 ^ 23 + ((sys 0x20).mbx 0).arg 2) ∧
      (((pen 0x21 1 2).pen 63).tfFirst ≤ 1 ∧ 1 + 2 ≤ ((pen 0x21 1 2).pen 63).tfFirst + ((pen 0x21 1 2).pen 63).tfCount ∧
        ¬2 + 2 ≤ ((pen 0x21 1 2).pen 63).tfFirst + ((pen 0x21 1 2).pen 63).tfCount) ∧
      ((stX []).leaf < 2 ^ 20 ∧ 2 ^ 20 ≤ ({ stX [] with leaf := 2 ^ 20 } : State).leaf) ∧
      ((pen 0x40 6 64).userQ 6 = none ∧ 64 % 64 = 0 ∧ (pen 0x40 5 64).userQ 5 = some ⟨5, 1, 64, none⟩ ∧ (1 : Nat) ≠ 64 - 1 ∧
        (boxed 2 0x41 []).served = some 2 ∧ (1 : Nat) = 2 - 1) ∧
      ((1 = 1 ∧ 131 < 132) ∧ ¬((1 = 0 ∧ 132 < 32) ∨ (1 = 1 ∧ 132 < 132))) := by
  decide +kernel

/-- A guard that is false, of an instruction with a guard; a compare of another kind than `.gpair`. -/
theorem test_witness_FalseGuard :
    guardOf (.add ⟨15, 63, 63, 63⟩) = some 15 ∧ (stX []).pre.p 15 = false ∧ guardOf (.cmp ⟨1, 0, 0, 0, 0, 0⟩) = some 1 ∧
      (stX []).pre.p 1 = false ∧ (0 : BitVec 3) ≠ 1 := by
  decide +kernel

/-- An event is planned; a well-formed one without a word, and one with a word. A bundle of nothing stands at the pc of
context 0: it decodes and no operand is awaited. A page that is not mapped; a bundle that does not decode. -/
theorem test_witness_StepRunsDecoded :
    let s := State.reset.placeBundle 0 none
    let b := ({ s with plan := [] } : State).tallied.begin 0
    let x := b.xlate (b.coreAccess 0 false false true) (s.ctx 0).pc.toNat
    let off := (s.updCore 0 (fun k => { k with tlb := [] })).tallied.begin 0
    let bad := State.reset.placeBundle 0x54000010 none
    (encode (.taskPlacement 511) = none ∧ (Instr.taskPlacement 511).WellFormed = true ∧ (Instr.taskPlacement 512).WellFormed = false ∧
        (encode (.trap ⟨0, 65535⟩)).isSome = true) ∧
      (s.plan = .cycle (0 / 32) :: [] ∧ s.booted = true ∧ s.safe = false ∧ (s.ctx 0).st = .ready ∧ (s.ctx 0).task ≠ 0 ∧
        (s.ctx 0).yielded = false ∧ (s.ctx 0).leave = none ∧ (s.ctx 0).tlbshBusy = false ∧ inboundSource (.cycle 0) = none ∧
        (s.core 0).sfuPassed = [] ∧ (s.ctx 1).task = 0) ∧
      (okAnd (fun t => t.pa == 0 && !x.2.elsewhere t.pa) x.1 = true ∧ x.2.physRead 0 16 = 0 ∧
        (s.ctx 0).paid = 0 ∧ opsReady (s.ctx 0) (s.core 0) (s.now 0) 0 [] = true ∧
        sfuWait (s.core 0) (s.now 0) [] = false ∧
        okAnd (fun c => c.hct.isNone) (decodeBundle 0) = true) ∧
      errAnd (fun _ => true) (off.xlate (off.coreAccess 0 false false true) 0).1 = true ∧
      errAnd (fun _ => true) (decodeBundle (bad.physRead 0 16)) = true ∧
      (match faultyBundle (s.ctx 0) 0x54000010 ⟨.illegalSyllable, 0, .c, none, none, false, 0, 0⟩ with
        | .fault _ _ g ops => opsReady (s.ctx 0) (s.core 0) (s.now 0) g ops && !sfuWait (s.core 0) (s.now 0) ops
        | _ => false) = true := by
  decide +kernel

/-- A well-formed instruction of each kind of word, its fields at the ends of their ranges; and words past the table. -/
theorem test_witness_DecodeEncode :
    (encode (.trap ⟨15, 65535⟩)).map (fun x => decodeAs x.1 x.2) = some (some (.trap ⟨15, 65535⟩)) ∧
      (encode (.vperm ⟨10, 63, 127, 127, 0, 15, 1, 0⟩)).map (fun x => decodeAs x.1 x.2) =
        some (some (.vperm ⟨10, 63, 127, 127, 0, 15, 1, 0⟩)) ∧
      (encode (.mac ⟨3, 15, 7, 1⟩)).map (fun x => decodeAs x.1 x.2) = some (some (.mac ⟨3, 15, 7, 1⟩)) ∧
      (encode (.sfuErf ⟨63, 127, 15, 2⟩)).map (fun x => decodeAs x.1 x.2) = some (some (.sfuErf ⟨63, 127, 15, 2⟩)) ∧
      (encode (.ladd ⟨15, 15, 15, 0⟩)).map (fun x => decodeAs x.1 x.2) = some (some (.ladd ⟨15, 15, 15, 0⟩)) ∧
      (Instr.vperm ⟨10, 63, 127, 127, 0, 15, 1, 0⟩).WellFormed = true ∧ 2 ^ 32 - 1 < 2 ^ wordWidth .syllable := by
  decide +kernel

/-- Memory in canonical form. -/
theorem test_witness_MemoryInvariant : Memory.wf State.reset.mem = true ∧ Memory.wf [(0, 1), (2 ^ 52 - 1, 255)] = true := by
  decide +kernel

/-- Words that R24 to R54 leave unassigned or whose reserved fields are not zero. -/
theorem test_decode_refuses :
    decodeAs .syllable 0x54000010 = none ∧ decodeAs .syllable 0x200000F0 = none ∧ decodeAs .syllable (2 ^ 32 - 1) = none ∧
      decodeAs .vector (2 ^ 48 - 1) = none ∧ decodeAs .logit (2 ^ 32 - 1) = none ∧ decodeAs .logit 0 = none := by
  decide +kernel

end Sys2Proof.Tests
end

/-! ### The next bundle and the loop-end test (R98) -/

namespace Sys2Proof.Machine

/-- The sequential pc of R98, as the statements and as the machine write it. -/
theorem pcPlus_one (pc : BitVec 60) : pcPlus pc 1 = pc + 16 := rfl

/-- An entry on its way to the next iteration: its counts as words are its counts as numbers, as long as some
iteration remains. -/
theorem LoopEnt.iterate_eq (e : LoopEnt) (h : 0 < e.rem.toNat) :
    { e with rem := e.rem - 1, idx := e.idx + 1 } =
      { e with rem := BitVec.ofNat 32 (e.rem.toNat - 1), idx := BitVec.ofNat 32 (e.idx.toNat + 1) } := by
  have hrem : e.rem - 1 = BitVec.ofNat 32 (e.rem.toNat - 1) := by bv_omega
  have hidx : e.idx + 1 = BitVec.ofNat 32 (e.idx.toNat + 1) := by bv_omega
  rw [hrem, hidx]

theorem nextBundle_nil (pc : BitVec 60) : nextBundle pc [] = (pc + 16, []) := rfl

/-- A body that does not end here leaves the stack as it is. -/
theorem nextBundle_cons_of_fin_ne {pc : BitVec 60} {e : LoopEnt} (r : List LoopEnt) (h : e.fin ≠ pc) :
    nextBundle pc (e :: r) = (pc + 16, e :: r) := by
  simp [nextBundle, h, pcPlus_one]

/-- A body that ends here with iterations left starts the next one. -/
theorem nextBundle_cons_of_remaining {pc : BitVec 60} {e : LoopEnt} (r : List LoopEnt) (h : e.fin = pc)
    (hrem : 1 < e.rem.toNat) :
    nextBundle pc (e :: r) = (e.start, { e with rem := e.rem - 1, idx := e.idx + 1 } :: r) := by
  rw [e.iterate_eq (by omega)]
  simp [nextBundle, h, hrem]

/-- A body that ends here for the last time is popped, and the entry below is tested. -/
theorem nextBundle_cons_of_finished {pc : BitVec 60} {e : LoopEnt} (r : List LoopEnt) (h : e.fin = pc)
    (hrem : ¬1 < e.rem.toNat) : nextBundle pc (e :: r) = nextBundle pc r := by
  simp [nextBundle, h, Nat.le_of_not_lt hrem]

/-- The machine's loop-end test is that of R98. -/
theorem loopEnd_eq_nextBundle (pc : BitVec 60) (l : List LoopEnt) : loopEnd pc l = nextBundle pc l := by
  induction l with
  | nil => exact (nextBundle_nil pc).symm
  | cons e r ih =>
    rw [loopEnd]
    split
    case isFalse hfin => exact (nextBundle_cons_of_fin_ne r hfin).symm
    case isTrue hfin =>
      split
      case isTrue hrem => exact (nextBundle_cons_of_remaining r hfin hrem).symm
      case isFalse hrem => exact ih.trans (nextBundle_cons_of_finished r hfin hrem).symm

/-- Where a bundle goes, and the loop stack it leaves: to its branch's target with the stack untouched, else by the
loop-end test. -/
def State.successor (s : State) : BitVec 60 × List LoopEnt :=
  match s.issue.branch with
  | some t => (t, s.cur.loops)
  | none => nextBundle s.issue.pc s.cur.loops

theorem State.successor_of_branch {s : State} {t : BitVec 60} (h : s.issue.branch = some t) :
    s.successor = (t, s.cur.loops) := by
  simp only [State.successor, h]

theorem State.successor_of_no_branch {s : State} (h : s.issue.branch = none) :
    s.successor = nextBundle s.issue.pc s.cur.loops := by
  simp only [State.successor, h]

/-- All that the advance does. -/
theorem State.advance_eq (s : State) :
    s.advance = s.setCtx s.issue.ctx { s.cur with
      pc := s.successor.1
      loops := s.successor.2
      ans := Ans.none
      remote := [] } := by
  unfold State.advance State.successor
  rw [← loopEnd_eq_nextBundle]
  rfl

/-- The issuing context after the advance. -/
theorem State.advance_cur (s : State) :
    s.advance.cur = { s.cur with
      pc := s.successor.1
      loops := s.successor.2
      ans := Ans.none
      remote := [] } := by
  rw [State.advance_eq]
  exact State.ctx_setCtx_same _ _ _

theorem State.advance_cur_pc (s : State) : s.advance.cur.pc = s.successor.1 := by rw [State.advance_cur]
theorem State.advance_cur_loops (s : State) : s.advance.cur.loops = s.successor.2 := by rw [State.advance_cur]

/-- A change of one context leaves every byte of memory. -/
theorem sameBytes_setCtx (s : State) (i : Nat) (v : Ctx) : SameBytes s (s.setCtx i v) :=
  fun a => s.setCtx_physRead i v a 1

end Sys2Proof.Machine

namespace Sys2Proof.Proofs

open Sys2Proof.Machine

/-- Settles O9: the advance writes the issuing context alone, with the successor that R98 gives it. -/
theorem nextBundle : Obligations.NextBundle := by
  intro s
  rw [State.advance_cur_pc, State.advance_cur_loops]
  refine ⟨fun t ht => ?_, fun hnone => ?_, s.advance_eq, ?_⟩
  · simp only [State.successor_of_branch ht, and_self]
  · rw [State.successor_of_no_branch hnone]
  · rw [State.advance_eq]
    exact sameBytes_setCtx s _ _

end Sys2Proof.Proofs

/-! ### Scalar syllables: integer, divide and bit-field operations (R120 to R128) -/

namespace Sys2Proof.Machine

/-! #### Words as narrowed integers -/

/-- A word is its unsigned value narrowed. -/
theorem eq_ofNat_of_toNat_eq {v : Word} {n : Nat} (h : v.toNat = n) : v = BitVec.ofNat 64 n := by
  rw [← h, BitVec.ofNat_toNat, BitVec.setWidth_eq]

/-- A word is its signed value narrowed. -/
theorem eq_ofInt_of_toInt_eq {v : Word} {k : Int} (h : v.toInt = k) : v = BitVec.ofInt 64 k := by
  rw [← h, BitVec.ofInt_toInt]

theorem sub_eq_ofInt (a b : Word) : a - b = BitVec.ofInt 64 (a.toInt - b.toInt) := by
  rw [Int.sub_eq_add_neg, BitVec.ofInt_add, BitVec.ofInt_neg, BitVec.ofInt_toInt, BitVec.ofInt_toInt,
    BitVec.sub_eq_add_neg]

theorem andn_eq_ofNat (a b : Word) : a &&& ~~~b = BitVec.ofNat 64 (a.toNat &&& (2 ^ 64 - 1 - b.toNat)) :=
  eq_ofNat_of_toNat_eq (by rw [BitVec.toNat_and, BitVec.toNat_not])

theorem shiftLeft_eq_ofNat (a : Word) (n : Nat) : a <<< n = BitVec.ofNat 64 (a.toNat * 2 ^ n) :=
  BitVec.eq_of_toNat_eq (by rw [BitVec.toNat_shiftLeft, BitVec.toNat_ofNat, Nat.shiftLeft_eq])

theorem ushiftRight_eq_ofNat (a : Word) (n : Nat) : a >>> n = BitVec.ofNat 64 (a.toNat / 2 ^ n) :=
  eq_ofNat_of_toNat_eq (by rw [BitVec.toNat_ushiftRight, Nat.shiftRight_eq_div_pow])

theorem sshiftRight_eq_ofInt (a : Word) (n : Nat) : a.sshiftRight n = BitVec.ofInt 64 (a.toInt / 2 ^ n) :=
  eq_ofInt_of_toInt_eq (by rw [BitVec.toInt_sshiftRight, Int.shiftRight_eq_div_pow]; norm_cast)

/-- A rotation is the two shifts of Table 2; for a count of 0 the left one leaves nothing. -/
theorem rotateRight_eq_ofNat (a : Word) (b : Nat) :
    a.rotateRight (b % 64) = BitVec.ofNat 64 (a.toNat / 2 ^ (b % 64) ||| a.toNat * 2 ^ (64 - b % 64)) := by
  rw [BitVec.rotateRight_def, Nat.mod_mod, ushiftRight_eq_ofNat, shiftLeft_eq_ofNat, BitVec.ofNat_or]

theorem slt_select_min (a b : Word) : (if a.slt b then a else b) = BitVec.ofInt 64 (min a.toInt b.toInt) :=
  eq_ofInt_of_toInt_eq (by simp only [min_def_lt, apply_ite BitVec.toInt, BitVec.slt_iff_toInt_lt])

theorem slt_select_max (a b : Word) : (if a.slt b then b else a) = BitVec.ofInt 64 (max a.toInt b.toInt) :=
  eq_ofInt_of_toInt_eq (by simp only [max_def_lt, apply_ite BitVec.toInt, BitVec.slt_iff_toInt_lt])

theorem ult_select_min (a b : Word) : (if a < b then a else b) = BitVec.ofNat 64 (min a.toNat b.toNat) :=
  eq_ofNat_of_toNat_eq (by simp only [min_def_lt, apply_ite BitVec.toNat, BitVec.lt_def])

theorem ult_select_max (a b : Word) : (if a < b then b else a) = BitVec.ofNat 64 (max a.toNat b.toNat) :=
  eq_ofNat_of_toNat_eq (by simp only [max_def_lt, apply_ite BitVec.toNat, BitVec.lt_def])

theorem add_signExtend_eq_ofInt (a : Word) (k : BitVec 10) :
    a + k.signExtend 64 = BitVec.ofInt 64 (a.toInt + k.toInt) := by
  rw [BitVec.ofInt_add, BitVec.ofInt_toInt, BitVec.signExtend]

/-- The shifted word has zeros where `lui` inserts (R127). -/
theorem shiftLeft_or_setWidth_eq_ofNat (a : Word) (k : BitVec 16) :
    (a <<< 16) ||| k.setWidth 64 = BitVec.ofNat 64 (a.toNat * 2 ^ 16 + k.toNat) := by
  rw [← Nat.shiftLeft_eq, Nat.shiftLeft_add_eq_or_of_lt k.isLt, BitVec.ofNat_or, Nat.shiftLeft_eq,
    ← shiftLeft_eq_ofNat, BitVec.ofNat_toNat]

theorem pc_add_eq_pcPlus (pc : BitVec 60) (k : Int) : pc + 16 * BitVec.ofInt 60 k = pcPlus pc k := by
  rw [pcPlus, BitVec.ofInt_add, BitVec.ofInt_mul, BitVec.ofInt_natCast, BitVec.ofNat_toNat, BitVec.setWidth_eq]
  rfl

/-! #### Products, quotients and their time -/

theorem mul_eq_ofInt (a b : Word) : a * b = BitVec.ofInt 64 (a.toInt * b.toInt) := by
  rw [BitVec.ofInt_mul, BitVec.ofInt_toInt, BitVec.ofInt_toInt]

/-- The significant bits of a number: one more than its logarithm, and none for 0. -/
theorem size_eq_log2 (q : Nat) : Nat.size q = if q = 0 then 0 else Nat.log2 q + 1 := by
  split
  case isTrue h => rw [h, Nat.size_zero]
  case isFalse h =>
    refine le_antisymm (Nat.size_le.mpr Nat.lt_log2_self) ?_
    exact Nat.lt_size.mpr (Nat.log2_self_le h)

theorem divCycles_eq (q : Nat) : divCycles q = 4 + Nat.size q := by
  rw [divCycles, size_eq_log2]

/-! #### Extensions -/

/-- The signed value of a pattern is that of its low bits as a word of their number. -/
theorem sextInt_eq_toInt (v n : Nat) : sextInt v n = (BitVec.ofNat n v).toInt := by
  rw [BitVec.toInt_eq_toNat_cond, BitVec.toNat_ofNat, Nat.cast_pow, Nat.cast_ofNat]
  rfl

theorem ofInt_sextInt (v n : Nat) : BitVec.ofInt 64 (sextInt v n) = (BitVec.ofNat n v).signExtend 64 := by
  rw [sextInt_eq_toInt, BitVec.signExtend]

theorem signExtend_setWidth_eq_ofInt (a : Word) (n : Nat) :
    (a.setWidth n).signExtend 64 = BitVec.ofInt 64 (sextInt a.toNat n) := by
  rw [ofInt_sextInt, BitVec.ofNat_toNat]

theorem setWidth_setWidth_eq_ofNat (a : Word) (n : Nat) :
    (a.setWidth n).setWidth 64 = BitVec.ofNat 64 (a.toNat % 2 ^ n) :=
  BitVec.eq_of_toNat_eq (by simp only [BitVec.toNat_setWidth, BitVec.toNat_ofNat])

/-! #### Counts -/

/-- The leading zeros are those above the highest one, which is at the logarithm. -/
theorem clz64_spec (a : Word) :
    ∃ k ≤ 64, (∀ i, 64 - k ≤ i → a.getLsbD i = false) ∧ (k < 64 → a.getLsbD (63 - k) = true) ∧
      clz64 a = BitVec.ofNat 64 k := by
  by_cases ha : a = 0
  · exact ⟨64, le_rfl, fun i _ => by rw [ha]; exact BitVec.getLsbD_zero, fun h => absurd h (lt_irrefl 64),
      by rw [clz64, if_pos ha]⟩
  · have hne : a.toNat ≠ 0 := BitVec.toNat_ne_iff_ne.mpr ha
    have hlog : a.toNat.log2 < 64 := (Nat.log2_lt hne).mpr a.isLt
    refine ⟨63 - a.toNat.log2, by omega, fun i hi => ?_, fun _ => ?_, by rw [clz64, if_neg ha]⟩
    · rw [← BitVec.testBit_toNat]
      exact Nat.testBit_lt_two_pow (Nat.lt_log2_self.trans_le (Nat.pow_le_pow_right (by norm_num) (by omega)))
    · rw [show 63 - (63 - a.toNat.log2) = a.toNat.log2 by omega, ← BitVec.testBit_toNat]
      exact Nat.testBit_log2 hne

/-- The trailing zeros are those below the first one. -/
theorem ctz64_spec (a : Word) :
    ∃ k ≤ 64, (∀ i < k, a.getLsbD i = false) ∧ (k < 64 → a.getLsbD k = true) ∧ ctz64 a = BitVec.ofNat 64 k := by
  unfold ctz64
  cases h : (List.range 64).find? (fun i => a.getLsbD i) with
  | none =>
    refine ⟨64, le_rfl, fun i hi => ?_, fun h => absurd h (lt_irrefl 64), rfl⟩
    exact Bool.not_eq_true' _ ▸ List.find?_range_eq_none.mp h i hi
  | some k =>
    obtain ⟨hone, hk, hzero⟩ := List.find?_range_eq_some.mp h
    exact ⟨k, (List.mem_range.mp hk).le, fun i hi => Bool.not_eq_true' _ ▸ hzero i hi, fun _ => hone, rfl⟩

/-- The ones counted along the list of positions and in the set of them. -/
theorem popc64_eq_card (a : Word) :
    popc64 a = BitVec.ofNat 64 (Finset.univ.filter (fun i : Fin 64 => a.getLsbD i = true)).card := by
  have hlist : (List.range 64).filter (fun i => a.getLsbD i) =
      ((List.finRange 64).filter (fun i : Fin 64 => a.getLsbD i)).map (fun i : Fin 64 => (i : Nat)) := by
    rw [← List.map_coe_finRange_eq_range, List.filter_map]
    rfl
  rw [popc64, hlist, List.length_map]
  simp [Fin.univ_def, Finset.card, Finset.filter]

/-! #### Bit fields (R124, R125) -/

/-- The position and the width of a field as the statements write them. -/
theorem fieldOf_eq (d : Word) :
    fieldOf d = (d.toNat % 64, min (d.toNat / 2 ^ 8 % 64 + 1) (64 - d.toNat % 64)) := rfl

theorem testBit_field (a : Word) (pos w i : Nat) :
    (a.toNat / 2 ^ pos % 2 ^ w).testBit i = (decide (i < w) && a.getLsbD (pos + i)) := by
  rw [Nat.testBit_mod_two_pow, Nat.testBit_div_two_pow, BitVec.testBit_toNat, Nat.add_comm]

/-- A bit of an extract: of the field below its width, and above it of its sign where the flag asks for that. -/
theorem fieldGet_getLsbD (a d : Word) {i : Nat} (hi : i < 64) : (fieldGet a d).getLsbD i = bfxBit a d i := by
  unfold fieldGet bfxBit
  rw [fieldOf_eq]
  dsimp only
  generalize hpos : d.toNat % 64 = pos
  generalize hw : min (d.toNat / 2 ^ 8 % 64 + 1) (64 - pos) = w
  have hw0 : 0 < w := by omega
  cases d.getLsbD 16 with
  | false =>
    rw [if_neg Bool.false_ne_true, BitVec.getLsbD_ofNat, testBit_field]
    simp [hi]
  | true =>
    rw [if_pos rfl, ofInt_sextInt, BitVec.getLsbD_signExtend, BitVec.msb_eq_getLsbD_last, BitVec.getLsbD_ofNat,
      BitVec.getLsbD_ofNat, testBit_field, testBit_field, Nat.add_sub_assoc hw0]
    by_cases hiw : i < w
    · simp [hi, hiw]
    · simp [hi, hiw, hw0]

/-- The mask of an insert has the bits of the field. -/
theorem fieldMask_getLsbD (pos w : Nat) {i : Nat} (hi : i < 64) :
    (BitVec.ofNat 64 ((2 ^ w - 1) * 2 ^ pos)).getLsbD i = decide (pos ≤ i ∧ i < pos + w) := by
  rw [BitVec.getLsbD_ofNat, Nat.testBit_mul_two_pow, Nat.testBit_two_pow_sub_one, decide_eq_true hi, Bool.true_and,
    ← Bool.decide_and]
  exact decide_eq_decide.mpr (by omega)

/-- A bit of an insert: in the field the shifted source's, outside it the old one. -/
theorem fieldPut_getLsbD (old a d : Word) {i : Nat} (hi : i < 64) :
    (fieldPut old a d).getLsbD i = bfiBit old a d i := by
  unfold fieldPut bfiBit
  rw [fieldOf_eq]
  dsimp only
  generalize d.toNat % 64 = pos
  generalize min (d.toNat / 2 ^ 8 % 64 + 1) (64 - pos) = w
  rw [BitVec.getLsbD_or, BitVec.getLsbD_and, BitVec.getLsbD_and, BitVec.getLsbD_not, BitVec.getLsbD_shiftLeft,
    fieldMask_getLsbD pos w hi]
  by_cases hin : pos ≤ i ∧ i < pos + w
  · simp [hi, hin]
  · simp [hi, hin]

/-! #### What a write of an x register leaves -/

/-- The issuing context after a register write. -/
theorem State.putX_cur (s : State) (rd : BitVec 6) (v : Word) (lat : Nat) :
    (s.putX rd v lat).cur = (s.cur.setX rd v).avail (keyX rd) (s.now s.issue.ctx) lat :=
  State.ctx_setCtx_same _ _ _

theorem putX_xsAfter (s : State) (rd : BitVec 6) (v : Word) (lat : Nat) : XsAfter s (s.putX rd v lat) rd v := by
  intro j
  by_cases hj : j = 0
  · rw [if_pos hj, hj, Ctx.x_zero]
  · rw [if_neg hj, State.putX_x]
    simp only [ne_eq, hj, not_false_eq_true, and_true]

theorem putX_marked (s : State) (rd : BitVec 6) (v : Word) (lat : Nat) : Marked s (s.putX rd v lat) (keyX rd) lat := by
  intro k
  rw [State.putX_cur, ← Ctx.setX_sb s.cur rd v]
  exact sget_sput _ _ _ _ _

theorem putX_wroteX (s : State) (rd : BitVec 6) (v : Word) (lat : Nat) : WroteX s (s.putX rd v lat) rd v lat :=
  ⟨putX_xsAfter s rd v lat, putX_marked s rd v lat, s.putX_eq rd v lat, sameBytes_setCtx s _ _⟩

/-! #### What a scalar syllable completes with under a true guard -/

/-- A guarded syllable whose guard is true completes with what its operation leaves. -/
theorem completes_guarded {i : Instr} {s : State} {g : BitVec 4} {f : State → State} {P : State → Prop}
    (hi : exec i s = guarded g f s) (hg : s.pre.p g = true) (h : P (f s)) : Completes i s P :=
  ⟨f s, hi.trans (guarded_true g f s hg), h⟩

/-- A guarded syllable that writes one x register; the lemmas after it say this of each shape of scalar syllable. -/
theorem completes_guarded_putX {i : Instr} {s : State} {g : BitVec 4} {rd : BitVec 6} {value : State → Word}
    {lat : Nat} {v : Word} (hi : exec i s = guarded g (fun s => s.putX rd (value s) lat) s) (hg : s.pre.p g = true)
    (hv : value s = v) : Completes i s (WroteX s · rd v lat) :=
  completes_guarded hi hg (hv ▸ putX_wroteX s rd (value s) lat)

theorem completes_scalar2 {i : Instr} {s : State} {o : RROp} {f : Word → Word → Word} {lat : Nat} {v : Word}
    (hi : exec i s = scalar2 o f lat s) (hg : s.pre.p o.g = true) (hv : f (s.pre.x o.rs1) (s.pre.x o.rs2) = v) :
    Completes i s (WroteX s · o.rd v lat) :=
  completes_guarded_putX hi hg hv

theorem completes_scalar1 {i : Instr} {s : State} {o : RUnOp} {f : Word → Word} {v : Word}
    (hi : exec i s = scalar1 o f s) (hg : s.pre.p o.g = true) (hv : f (s.pre.x o.rs1) = v) :
    Completes i s (WroteX s · o.rd v 1) :=
  completes_guarded_putX hi hg hv

theorem completes_scalarImm {i : Instr} {s : State} {o : RIOp} {f : Word → BitVec 10 → Word} {v : Word}
    (hi : exec i s = scalarImm o f s) (hg : s.pre.p o.g = true) (hv : f (s.pre.x o.rs1) o.imm = v) :
    Completes i s (WroteX s · o.rd v 1) :=
  completes_guarded_putX hi hg hv

/-- What a divide leaves: x[rd] takes `v` when the divider finishes, 4 cycles and the significant bits of `q` after it
was free (R120). -/
def Divided (s t : State) (rd : BitVec 6) (v : Word) (q : Nat) : Prop :=
  let done := max (s.now s.issue.ctx) s.cur.divFree + 4 + Nat.size q
  XsAfter s t rd v ∧ t.cur.divFree = done ∧ Marked s t (keyX rd) (done - s.now s.issue.ctx) ∧
  OnlyCtx s t { s.cur with
    xs := t.cur.xs
    sb := t.cur.sb
    divFree := t.cur.divFree }

/-- The result's write leaves the time at which the divider finishes as it is. -/
theorem putX_divided (s : State) (rd : BitVec 6) (v : Word) (q : Nat) :
    let done := max (s.now s.issue.ctx) s.cur.divFree + 4 + Nat.size q
    Divided s ((s.updCur (fun c => { c with divFree := done })).putX rd v (done - s.now s.issue.ctx)) rd v q := by
  intro done
  set r := s.updCur (fun c => { c with divFree := done })
  have hcur : r.cur = { s.cur with divFree := done } := State.ctx_setCtx_same _ _ _
  have hdiv : (r.putX rd v (done - s.now s.issue.ctx)).cur.divFree = done := by
    rw [State.putX_cur, hcur]
    unfold Ctx.setX
    split <;> rfl
  refine ⟨fun j => ?_, hdiv, fun k => ?_, ?_, fun _ => rfl⟩
  · rw [putX_xsAfter r rd v _ j, hcur]
    rfl
  · rw [putX_marked r rd v _ k, hcur]
    rfl
  · rw [hdiv]
    conv_lhs => rw [State.putX_eq, hcur]
    exact State.setCtx_setCtx _ _ _ _

theorem completes_divide {i : Instr} {s : State} {o : RROp} {f : Word → Word → Word} {q : Word → Word → Nat} {v : Word}
    {n : Nat} (hi : exec i s = divide o f q s) (hg : s.pre.p o.g = true) (hv : f (s.pre.x o.rs1) (s.pre.x o.rs2) = v)
    (hn : (if s.pre.x o.rs2 = 0 then 0 else q (s.pre.x o.rs1) (s.pre.x o.rs2)) = n) :
    Completes i s (Divided s · o.rd v n) := by
  refine completes_guarded hi hg ?_
  dsimp only
  rw [hn, hv, divCycles_eq, ← Nat.add_assoc]
  exact putX_divided s o.rd v n

end Sys2Proof.Machine

namespace Sys2Proof.Proofs

open Sys2Proof.Machine

/-- Settles O1: each integer operation writes its register with a word that narrows the exact result. -/
theorem integerResults : Obligations.IntegerResults := by
  refine ⟨fun o s hg => ⟨?add, ?sub, ?and, ?or, ?xor, ?andn, ?shl, ?shr, ?sra, ?rot, ?min, ?max, ?minu, ?maxu⟩,
    fun o s hg => ⟨?addi, ?andi, ?ori, ?xori, ?shli, ?shri, ?srai⟩, fun o s hg => ⟨?lui, ?addpc⟩⟩
  case add => exact completes_scalar2 (Eq.refl (execAdd o s)) hg (BitVec.add_def _ _)
  case sub => exact completes_scalar2 (Eq.refl (execSub o s)) hg (sub_eq_ofInt _ _)
  case and => exact completes_scalar2 (Eq.refl (execAnd o s)) hg (eq_ofNat_of_toNat_eq (BitVec.toNat_and _ _))
  case or => exact completes_scalar2 (Eq.refl (execOr o s)) hg (eq_ofNat_of_toNat_eq (BitVec.toNat_or _ _))
  case xor => exact completes_scalar2 (Eq.refl (execXor o s)) hg (eq_ofNat_of_toNat_eq (BitVec.toNat_xor _ _))
  case andn => exact completes_scalar2 (Eq.refl (execAndn o s)) hg (andn_eq_ofNat _ _)
  case shl => exact completes_scalar2 (Eq.refl (execShl o s)) hg (shiftLeft_eq_ofNat _ _)
  case shr => exact completes_scalar2 (Eq.refl (execShr o s)) hg (ushiftRight_eq_ofNat _ _)
  case sra => exact completes_scalar2 (Eq.refl (execSra o s)) hg (sshiftRight_eq_ofInt _ _)
  case rot => exact completes_scalar2 (Eq.refl (execRot o s)) hg (rotateRight_eq_ofNat _ _)
  case min => exact completes_scalar2 (Eq.refl (execMin o s)) hg (slt_select_min _ _)
  case max => exact completes_scalar2 (Eq.refl (execMax o s)) hg (slt_select_max _ _)
  case minu => exact completes_scalar2 (Eq.refl (execMinu o s)) hg (ult_select_min _ _)
  case maxu => exact completes_scalar2 (Eq.refl (execMaxu o s)) hg (ult_select_max _ _)
  case addi => exact completes_scalarImm (Eq.refl (execAddi o s)) hg (add_signExtend_eq_ofInt _ _)
  case andi => exact completes_scalarImm (Eq.refl (execAndi o s)) hg rfl
  case ori => exact completes_scalarImm (Eq.refl (execOri o s)) hg rfl
  case xori => exact completes_scalarImm (Eq.refl (execXori o s)) hg rfl
  case shli => exact completes_scalarImm (Eq.refl (execShli o s)) hg (shiftLeft_eq_ofNat _ _)
  case shri => exact completes_scalarImm (Eq.refl (execShri o s)) hg (ushiftRight_eq_ofNat _ _)
  case srai => exact completes_scalarImm (Eq.refl (execSrai o s)) hg (sshiftRight_eq_ofInt _ _)
  case lui => exact completes_guarded_putX (Eq.refl (execLui o s)) hg (shiftLeft_or_setWidth_eq_ofNat _ _)
  case addpc =>
    exact completes_guarded_putX (Eq.refl (execAddpc o s)) hg (congrArg (BitVec.setWidth 64) (pc_add_eq_pcPlus _ _))

/-- Settles O2: a product takes 3 cycles; a divide runs on the context's divider, and its value and its time are
those of a zero divisor or those of the exact quotient. -/
theorem multiplyDivideResults : Obligations.MultiplyDivideResults := by
  intro o s hg a b start divides
  refine ⟨?mul, ?mulh, ?mulhu, fun hzero => ⟨?div0, ?divu0, ?rem0, ?remu0⟩, fun hb => ⟨?div, ?divu, ?rem, ?remu⟩⟩
  case mul => exact completes_scalar2 (Eq.refl (execMul o s)) hg (mul_eq_ofInt _ _)
  case mulh => exact completes_scalar2 (Eq.refl (execMulh o s)) hg rfl
  case mulhu => exact completes_scalar2 (Eq.refl (execMulhu o s)) hg rfl
  case div0 => exact completes_divide (Eq.refl (execDiv o s)) hg (if_pos hzero) (if_pos hzero)
  case divu0 => exact completes_divide (Eq.refl (execDivu o s)) hg (if_pos hzero) (if_pos hzero)
  case rem0 => exact completes_divide (Eq.refl (execRem o s)) hg (if_pos hzero) (if_pos hzero)
  case remu0 => exact completes_divide (Eq.refl (execRemu o s)) hg (if_pos hzero) (if_pos hzero)
  case div => exact completes_divide (Eq.refl (execDiv o s)) hg (if_neg hb) (if_neg hb)
  case divu => exact completes_divide (Eq.refl (execDivu o s)) hg (if_neg hb) (if_neg hb)
  case rem => exact completes_divide (Eq.refl (execRem o s)) hg (if_neg hb) (if_neg hb)
  case remu => exact completes_divide (Eq.refl (execRemu o s)) hg (if_neg hb) (if_neg hb)

/-- Settles O3: the counts from the position of the first one, the extensions as narrowed values, the bit fields bit
by bit. -/
theorem bitFieldResults : Obligations.BitFieldResults := by
  refine ⟨fun o s hg => ⟨?clz, ?ctz, ?popc, ?extB, ?extH, ?extW, ?extBu, ?extHu, ?extWu⟩, fun o s hg => ⟨?bfx, ?bfi⟩,
    fun o s hg => ?sel⟩
  case clz =>
    obtain ⟨k, hk, hzero, hone, hv⟩ := clz64_spec (s.pre.x o.rs1)
    exact ⟨k, hk, hzero, hone, completes_scalar1 (Eq.refl (execClz o s)) hg hv⟩
  case ctz =>
    obtain ⟨k, hk, hzero, hone, hv⟩ := ctz64_spec (s.pre.x o.rs1)
    exact ⟨k, hk, hzero, hone, completes_scalar1 (Eq.refl (execCtz o s)) hg hv⟩
  case popc => exact completes_scalar1 (Eq.refl (execPopc o s)) hg (popc64_eq_card _)
  case extB => exact completes_scalar1 (Eq.refl (execExtB o s)) hg (signExtend_setWidth_eq_ofInt _ _)
  case extH => exact completes_scalar1 (Eq.refl (execExtH o s)) hg (signExtend_setWidth_eq_ofInt _ _)
  case extW => exact completes_scalar1 (Eq.refl (execExtW o s)) hg (signExtend_setWidth_eq_ofInt _ _)
  case extBu => exact completes_scalar1 (Eq.refl (execExtBu o s)) hg (setWidth_setWidth_eq_ofNat _ _)
  case extHu => exact completes_scalar1 (Eq.refl (execExtHu o s)) hg (setWidth_setWidth_eq_ofNat _ _)
  case extWu => exact completes_scalar1 (Eq.refl (execExtWu o s)) hg (setWidth_setWidth_eq_ofNat _ _)
  case bfx =>
    exact ⟨_, fun i hi => fieldGet_getLsbD _ _ hi, completes_scalar2 (Eq.refl (execBfx o s)) hg rfl⟩
  case bfi =>
    exact ⟨_, fun i hi => fieldPut_getLsbD _ _ _ hi, completes_guarded_putX (Eq.refl (execBfi o s)) hg rfl⟩
  case sel => exact completes_guarded_putX (Eq.refl (execSel o s)) hg rfl

end Sys2Proof.Proofs
